-- ==== Sys2Proof/Word.lean ====
section
/-! DEFINITION. The word types of the PG-30 and the index types of its tables. -/

namespace Sys2Proof

/-- One byte of a frame, a payload unit or a buffer. -/
abbrev Byte := BitVec 8

/-- One 32-bit word of a port. -/
abbrev Word := BitVec 32

/-- The number of an exchange record, 0 to 31 (R1). -/
abbrev Tag := Fin 32

/-- A station's place in the directory: station address n from 1 to 30 stands at n - 1 (R25). -/
abbrev Stn := Fin 30

/-- The number of a payload unit, 0 to 63 (R11). -/
abbrev UnitNo := Fin 64

end Sys2Proof
end

