-- ==== Sys2Proof/Syntax.lean ====
section
/-! DEFINITION. The commands of the block: one constructor for each row of spec/opcode_table.json. -/

namespace Sys2Proof

/-- The two list channels (R134). The channel bit of COMMAND is 0 for A and 1 for B (R173). -/
inductive Chan where
  | A
  | B
  deriving DecidableEq, Repr

/-- The station field (bits 12:8) and the channel bit (bit 16) of a word written to COMMAND. Every command carries
both, because COMMAND_STATUS shows them whether or not the command uses them (R173). -/
structure CmdFields where
  station : BitVec 5
  chan : Chan
  deriving DecidableEq, Repr

/-- The target of a PARAMETER_WRITE: a writable register that has no row of its own (R172), or `unheld`, an offset
that is read-only or not in the map, whose write is answered DONE and ignored (R171). -/
inductive ParamReg where
  | replyWindow
  | guardTime
  | retryConfig
  | busyConfig
  | faultThresholds
  | deferDeadline
  | resetHold
  | windowHold
  | censusMask
  | commandMask
  | dirSelect
  | xtSelect
  | listBase (c : Chan)
  | unheld (offset : BitVec 12)
  deriving DecidableEq, Repr

/-- One BT as R174 shows it: a data bit, or the line held high or low for the whole BT. -/
inductive LineSym where
  | one
  | zero
  | high
  | low
  deriving DecidableEq, Repr

/-- What the receiver saw in one bid slot (R74): nothing, or some driving with the pattern of its symbols, whether it
began within the first BT of the slot, and whether the line was quiet for the rest of the slot. -/
inductive SlotSeen where
  | quiet
  | driven (inFirstBT : Bool) (pattern : List LineSym) (quietAfter : Bool)
  deriving DecidableEq, Repr

/-- The four bytes of a 32-bit word in the order of their addresses (R154). -/
structure Bytes4 where
  b0 : Byte
  b1 : Byte
  b2 : Byte
  b3 : Byte
  deriving DecidableEq, Repr

/-- The commands: one constructor for each row of the opcode table, in the table's order. -/
inductive Instr where
  /-- RESET_N (R179) -/
  | resetN
  /-- LINK_START (R78) -/
  | linkStart (f : CmdFields)
  /-- LINK_STOP (R79) -/
  | linkStop (f : CmdFields)
  /-- LINK_RESET (R80) -/
  | linkReset (f : CmdFields)
  /-- CENSUS (R30) -/
  | census (f : CmdFields)
  /-- SWEEP_NOW (R99) -/
  | sweepNow (f : CmdFields)
  /-- STATION_HOLD (R40) -/
  | stationHold (f : CmdFields)
  /-- STATION_RELEASE (R41) -/
  | stationRelease (f : CmdFields)
  /-- STATION_DISABLE (R42) -/
  | stationDisable (f : CmdFields)
  /-- STATION_ENABLE (R43) -/
  | stationEnable (f : CmdFields)
  /-- STATION_RESET (R130) -/
  | stationReset (f : CmdFields)
  /-- LIST_START (R145) -/
  | listStart (f : CmdFields)
  /-- LIST_PAUSE (R146) -/
  | listPause (f : CmdFields)
  /-- LIST_RESUME (R146) -/
  | listResume (f : CmdFields)
  /-- LIST_CONTINUE (R147) -/
  | listContinue (f : CmdFields)
  /-- LIST_ABORT (R151) -/
  | listAbort (f : CmdFields)
  /-- EVENT_POP (R166) -/
  | eventPop (f : CmdFields)
  /-- EVENT_FLUSH (R166) -/
  | eventFlush (f : CmdFields)
  /-- ACK_CHANGES (R44) -/
  | ackChanges (f : CmdFields)
  /-- WINDOW_CLEAR_FAULT (R161) -/
  | windowClearFault (f : CmdFields)
  /-- UNKNOWN_COMMAND: a COMMAND write whose code is not in the command table (R173) -/
  | unknownCommand (code : BitVec 8) (f : CmdFields)
  /-- CAUSE_ACK (R168) -/
  | causeAck (mask : Word)
  /-- CAUSE_ENABLE (R169) -/
  | causeEnable (mask : Word)
  /-- SWEEP_INTERVAL_WRITE (R98) -/
  | sweepIntervalWrite (v : Word)
  /-- REDISCOVER_INTERVAL_WRITE (R34) -/
  | rediscoverIntervalWrite (v : Word)
  /-- EVENT_THRESHOLD_WRITE (R167) -/
  | eventThresholdWrite (v : Word)
  /-- LINK_CONFIG_WRITE (R84) -/
  | linkConfigWrite (v : Word)
  /-- PARAMETER_WRITE (R172) -/
  | parameterWrite (r : ParamReg) (v : Word)
  /-- VIEW_SNAPSHOT: a 32-bit read of the register window at this offset (R171) -/
  | viewSnapshot (offset : BitVec 12)
  /-- REGISTER_ACCESS_ERROR (R171) -/
  | registerAccessError
  /-- STATION_WINDOW_STORE: byte offset in the 128 KB, byte enables, data (R154, R156) -/
  | stationWindowStore (offset : BitVec 17) (enables : BitVec 4) (data : Bytes4)
  /-- STATION_WINDOW_LOAD: byte offset in the 128 KB, byte enables (R154) -/
  | stationWindowLoad (offset : BitVec 17) (enables : BitVec 4)
  /-- JOB_OFFER (R96) -/
  | jobOffer
  /-- REQUEST_FRAME_SENT (R69) -/
  | requestFrameSent
  /-- BCAST_WRITE_SENT (R121) -/
  | bcastWriteSent
  /-- SWEEP_FRAME_SENT (R74) -/
  | sweepFrameSent
  /-- REPLY_START (R70) -/
  | replyStart
  /-- REPLY_WINDOW_EXPIRY (R70) -/
  | replyWindowExpiry
  /-- REPLY_RECEIVED: the bytes between the START mark and the END mark that ended the frame (R72) -/
  | replyReceived (bytes : List Byte)
  /-- EARLY_FRAMING_FAULT (R71) -/
  | earlyFramingFault
  /-- LINE_SETTLED (R72) -/
  | lineSettled
  /-- STUCK_LINE_TIMEOUT (R72) -/
  | stuckLineTimeout
  /-- CONTENTION (R75) -/
  | contention
  /-- CONTENTION_WAIT_END (R75) -/
  | contentionWaitEnd
  /-- SLOTS_END: what the unit saw in slots 1 to 30 (R74) -/
  | slotsEnd (slots : List SlotSeen)
  /-- BREAK_END (R76) -/
  | breakEnd
  /-- GUARD_END (R73) -/
  | guardEnd
  /-- WAKE_END (R78) -/
  | wakeEnd
  /-- BACKOFF_EXPIRY of the exchange with this tag (R118) -/
  | backoffExpiry (t : Tag)
  /-- DEADLINE_EXPIRY of the exchange with this tag (R111) -/
  | deadlineExpiry (t : Tag)
  /-- HOLD_TIMER_EXPIRY of this station (R132) -/
  | holdTimerExpiry (n : Stn)
  /-- REDISCOVERY_TIMER_EXPIRY (R34) -/
  | rediscoveryTimerExpiry
  /-- SWEEP_INTERVAL_EXPIRY (R98) -/
  | sweepIntervalExpiry
  /-- WINDOW_HOLD_EXPIRY (R160) -/
  | windowHoldExpiry
  /-- CENSUS_CREATION (R29) -/
  | censusCreation
  /-- RECOVERY_CREATION (R36) -/
  | recoveryCreation
  /-- FETCH_EVENT_CREATION (R164) -/
  | fetchEventCreation
  /-- PAYLOAD_GRANT (R140) -/
  | payloadGrant
  /-- PORT_OPERATION_START (R138) -/
  | portOperationStart
  /-- DESCRIPTOR_FETCH_END: words 0 to 4 of the descriptor as read (R139, R177) -/
  | descriptorFetchEnd (c : Chan) (w0 w1 w2 w3 w4 : Word)
  /-- FILL_END: the bytes read from the buffer, byte 0 first (R141) -/
  | fillEnd (c : Chan) (bytes : List Byte)
  /-- DRAIN_END (R143) -/
  | drainEnd (c : Chan)
  /-- INTAKE_STATUS_WRITE_END (R135) -/
  | intakeStatusWriteEnd (c : Chan)
  /-- MEMORY_FAULT: the address of the transfer that got the error response (R150) -/
  | memoryFault (c : Chan) (address : Word)
  /-- NOP_FENCE_FINISH (R142) -/
  | nopFenceFinish (c : Chan)
  /-- CHANNEL_HALT (R149) -/
  | channelHalt (c : Chan)
  /-- ABORT_END (R151) -/
  | abortEnd (c : Chan)
  deriving DecidableEq, Repr

end Sys2Proof
end

