-- ==== Sys2Proof/Config.lean ====
section
/-! DEFINITION. What the part fixes once and for all (identity, lengths, quotas), and the model's one free value. -/

namespace Sys2Proof

/-- PART_ID: part number 0030h, silicon revision 1 (R171). -/
def Config.partId : Word := 0x00010030#32

/-- Length of the wake pattern in BT (R78). -/
def Config.wakeLength : Nat := 512

/-- Length of a short break in BT (R76). -/
def Config.shortBreak : Nat := 32

/-- Length of a long break in BT (R76). -/
def Config.longBreak : Nat := 256

/-- One KBT in BT. -/
def Config.kbt : Nat := 1024

/-- One unit of the gap and hold parameters in BT (R115, R155). -/
def Config.gapUnit : Nat := 64

/-- Bytes in one payload unit (R11). -/
def Config.unitBytes : Nat := 32

/-- Quota of WINDOW (R3). -/
def Config.windowQuota : Nat := 8

/-- Quota of each list channel (R3). -/
def Config.listQuota : Nat := 10

/-- FETCH_EVENT part of the INTERNAL quota (R3). -/
def Config.fetchQuota : Nat := 2

/-- Places in the event queue (R163). -/
def Config.eventPlaces : Nat := 16

/-- FREE VALUE (log entry 8): the spec does not say in which order the stations of several unknown outcomes of one
link reset join the census list. They join in ascending order of this rank, which nothing constrains: its first
argument is `State.freeCount`, which every LINK_RESET advances, its second the station address. -/
opaque Config.joinRank : Nat → Nat → Nat

end Sys2Proof
end

