-- ==== Sys2Proof/Machine/State.lean ====
section
/-! DEFINITION. The state of the PG-30 as plain data, one record for each block, and the state after RESET_N. -/

namespace Sys2Proof.Machine

/-! ## The Exchange Table (chapter 1) -/

/-- Who created an exchange and who retires it (R1): WINDOW, LIST_A, LIST_B, INTERNAL. -/
inductive Owner where
  | window
  | list (c : Chan)
  | internal
  deriving DecidableEq, Repr

/-- What an exchange asks of its station (R1). -/
inductive Kind where
  | write
  | read
  | signal
  | bcastWrite
  | census
  | fetchEvent
  | purge
  | stationReset
  deriving DecidableEq, Repr

/-- The addressed station: an address from 1 to 30, or 31 for BCAST_WRITE (R1). -/
inductive Dest where
  | station (n : Stn)
  | broadcast
  deriving DecidableEq, Repr

/-- The stage of the dialogue with the station (R5). -/
inductive Phase where
  | issue
  | collect
  | abandon
  deriving DecidableEq, Repr

/-- Where a non-FREE exchange stands (R6). FREE is the absence of an exchange in its record. -/
inductive XState where
  | filling
  | waiting
  | onLine
  | backoff
  | parked
  | complete
  | draining
  deriving DecidableEq, Repr

/-- Completion statuses (R16), with the descriptor-level INVALID and the DISCARDED of the window fault record (R161). -/
inductive Status where
  | ok
  | short
  | refused
  | busyExhausted
  | retryExhausted
  | protocol
  | stationLost
  | stationRestarted
  | deferExpired
  | cancelled
  | linkReset
  | notPresent
  | invalid
  | discarded
  deriving DecidableEq, Repr

/-- Refusal reasons of a station (R54). -/
inductive Reason where
  | badAddress
  | badLength
  | readOnly
  | unsupported
  | stationFault
  deriving DecidableEq, Repr

/-- Fault kinds of an attempt (R15, R71). -/
inductive FaultKind where
  | timeout
  | crc
  | framing
  | contention
  | wrongStation
  | overrun
  | unexpected
  deriving DecidableEq, Repr

/-- The reason or the fault kind of a result (R15). -/
inductive Detail where
  | reason (r : Reason)
  | fault (k : FaultKind)
  deriving DecidableEq, Repr

/-- The completion a FILLING exchange takes when its fill ends (R18). LINK_RESET is the reset mark. -/
inductive FillMark where
  | linkReset
  | stationLost
  | cancelled
  deriving DecidableEq, Repr

/-- The status an exchange in the ABANDON phase will complete with, and its fault kind where there is one (R1, R5). -/
structure Carried where
  status : Status
  fault : Option FaultKind
  deriving DecidableEq, Repr

/-- The deadline timer (R10): running, with the length in BT it was loaded with, or run out and still in the record
(R111, BACKOFF and ON_LINE). -/
inductive Deadline where
  | running (bt : Nat)
  | ranOut
  deriving DecidableEq, Repr

/-- The result of a completed exchange (R15). -/
structure Result where
  status : Status
  detail : Option Detail
  replyLength : Nat
  repeated : Bool
  uncertain : Bool
  epochSeen : Option (BitVec 4)
  attempts : Nat
  deriving DecidableEq, Repr

/-- A non-FREE exchange record (R1); the tag is its place in the table. -/
structure Exchange where
  owner : Owner
  kind : Kind
  dest : Dest
  regAddr : Option (BitVec 16)
  length : Option Nat
  signalOp : Option Byte
  units : List UnitNo
  phase : Phase
  state : XState
  attempts : Nat
  busyCount : Nat
  seqUsed : Option Bool
  unanswered : Bool
  fence : Bool
  expired : Bool
  fillEnd : Option FillMark
  carried : Option Carried
  backoff : Option Nat
  deadline : Option Deadline
  epochSeen : Option (BitVec 4)
  result : Option Result
  deriving DecidableEq, Repr

/-- The Exchange Table: the 32 records (R1), the creation list of each owner (R4), the completion list of each channel
(R15) and the payload wait list (R13). -/
structure Table where
  xs : Vector (Option Exchange) 32
  winList : List Tag
  listAList : List Tag
  listBList : List Tag
  intList : List Tag
  complA : List Tag
  complB : List Tag
  waitList : List (Chan × Nat)
  deriving DecidableEq, Repr

/-! ## The Station Directory (chapter 2) -/

/-- The eight states of a station entry (R26). -/
inductive StnState where
  | vacant
  | present
  | suspect
  | held
  | recovering
  | silent
  | resync
  | disabled
  deriving DecidableEq, Repr

/-- The status of the most recent census, with its station-fault flag (R25). -/
inductive CensusStatus where
  | ok
  | protocol
  | retryExhausted
  | linkReset
  deriving DecidableEq, Repr

/-- Last census of an entry (R25). -/
structure LastCensus where
  status : CensusStatus
  stationFault : Bool
  deriving DecidableEq, Repr

/-- A station entry (R25). -/
structure Entry where
  state : StnState
  cls : Option Byte
  revision : Option Byte
  capacity : Nat
  epoch : Option (BitVec 4)
  seqBit : Bool
  seqUncertain : Bool
  purgeNeeded : Bool
  deferred : Nat
  eventPending : Bool
  keptReady : Bool
  failures : Nat
  holdTimer : Option Nat
  wasPresent : Bool
  lastCensus : Option LastCensus
  deriving DecidableEq, Repr

/-- The action of a recovery record (R35). -/
inductive RecAction where
  | purge
  | reset
  deriving DecidableEq, Repr

/-- The directory: 30 entries (R25), census list (R28), recovery list (R35), change summary as a mask with station n at
bit n (R44), rediscovery timer with the BT it was loaded with (R34). -/
structure Directory where
  entries : Vector Entry 30
  census : List Stn
  recovery : List (Stn × RecAction)
  changes : Word
  rediscovery : Option Nat
  deriving DecidableEq, Repr

/-! ## The Line Unit (chapter 4), the scheduler (chapter 5) and the Sweep Unit (chapter 6) -/

/-- Line states (R68). -/
inductive LineState where
  | off
  | wake
  | idle
  | sending
  | await
  | receiving
  | guard
  | slots
  | break
  deriving DecidableEq, Repr

/-- Break kinds (R76). -/
inductive BreakKind where
  | short
  | long
  deriving DecidableEq, Repr

/-- Break causes (R76). -/
inductive BreakCause where
  | contention
  | lineFault
  | stuckLine
  | linkReset
  deriving DecidableEq, Repr

/-- Request kinds on the wire, the control ops apart (R53). -/
inductive ReqKind where
  | write
  | read
  | signal
  | collect
  | abandon
  | purge
  | stationReset
  | census
  | fetchEvent
  | bcastWrite
  | sweep
  deriving DecidableEq, Repr

/-- The current job (R67): an attempt of an exchange, or a sweep. -/
inductive Job where
  | attempt (t : Tag) (phase : Phase) (req : ReqKind)
  | sweep
  deriving DecidableEq, Repr

/-- The three marks (R49): START, and the closing marks HAND and END. -/
inductive Mark where
  | start
  | hand
  | fin
  deriving DecidableEq, Repr

/-- A frame as the unit builds it: header, payload and CRC bytes, and the closing mark (R50). The preamble and the START
mark are the same for every frame; `Frame.symbols` puts them before the bytes. -/
structure Frame where
  bytes : List Byte
  closing : Mark
  deriving DecidableEq, Repr

/-- Last fault (R67, R82): the fault kind with the addressed station, 31 for a broadcast or a sweep, and the tag. -/
structure LastFault where
  kind : FaultKind
  station : BitVec 5
  tag : Tag
  deriving DecidableEq, Repr

/-- The line record (R67). `timer` is the length in BT that the wake pattern, reply window, guard time or break in
progress was loaded with; `contentionWait` is the wait for quiet of R75; `settling` is the wait of R72 after an early
FRAMING fault. -/
structure Line where
  state : LineState
  breakKind : Option BreakKind
  breakCause : Option BreakCause
  job : Option Job
  frameWhole : Bool
  faultCount : Nat
  readyPending : Bool
  lastFault : Option LastFault
  rate : BitVec 2
  txFrame : Option Frame
  timer : Option Nat
  contentionWait : Bool
  settling : Bool
  deriving DecidableEq, Repr

/-- The requesting owners of class 5 (R83). -/
inductive Requester where
  | window
  | listA
  | listB
  deriving DecidableEq, Repr

/-- The Sweep Unit (R97). -/
structure Sweep where
  due : Bool
  timer : Option Nat
  deriving DecidableEq, Repr

/-! ## The List Engine (chapter 8) -/

/-- Channel states (R137). -/
inductive ChanState where
  | idle
  | running
  | paused
  | stopping
  | halted
  | aborting
  deriving DecidableEq, Repr

/-- Halt causes (R136). -/
inductive HaltCause where
  | failed
  | memoryFault
  | linkReset
  deriving DecidableEq, Repr

/-- The cancellation R20 applies to a channel's exchanges (R136). -/
inductive Cancel where
  | none
  | stop
  | abort
  deriving DecidableEq, Repr

/-- Descriptor kinds (R134); `bad` stands for the codes 0, 6 and 7, which are not kinds. -/
inductive DescKind where
  | write
  | read
  | signal
  | bcastWrite
  | nop
  | bad
  deriving DecidableEq, Repr

/-- A fetched descriptor with its address (R134). -/
structure Desc where
  addr : Word
  kind : DescKind
  station : BitVec 5
  fence : Bool
  irq : Bool
  stopOnFail : Bool
  last : Bool
  regAddr : BitVec 16
  signalOp : Byte
  length : Nat
  buffer : Word
  next : Word
  deriving DecidableEq, Repr

/-- A record of the channel queue (R136). `next` is absent when the descriptor has LAST. `buffer` is the buffer address
that the fill and the drain use (R141, R143). -/
structure QRec where
  addr : Word
  next : Option Word
  irq : Bool
  stopOnFail : Bool
  tag : Option Tag
  status : Option Status
  finished : Bool
  written : Bool
  faulted : Bool
  buffer : Word
  deriving DecidableEq, Repr

/-- The operation a channel has under way on the master port (R136, R138). A fetch carries the mark that its descriptor
will be dropped (R137). -/
inductive PortOp where
  | fetch (discard : Bool)
  | fill (t : Tag)
  | drain (t : Tag)
  | statusWrite
  deriving DecidableEq, Repr

/-- The operation of a memory fault record (R150, R178). -/
inductive FaultOp where
  | fetch
  | fill
  | drain
  deriving DecidableEq, Repr

/-- The memory fault record (R150). -/
structure MemFault where
  op : FaultOp
  desc : Word
  address : Word
  deriving DecidableEq, Repr

/-- A list channel (R136). -/
structure Channel where
  state : ChanState
  haltCause : Option HaltCause
  cancel : Cancel
  base : Word
  next : Word
  head : Word
  retired : Word
  endMark : Bool
  queue : List QRec
  pendingDesc : Option Desc
  portOp : Option PortOp
  memFault : Option MemFault
  deriving DecidableEq, Repr

/-! ## The Station Window (chapter 9), the Event Unit and the Interrupt Unit (chapter 10) -/

/-- The read hold (R155). -/
inductive Hold where
  | empty
  | inFlight (n : Stn) (reg : BitVec 16) (t : Tag)
  | ready (n : Stn) (reg : BitVec 16) (t : Tag)
  deriving DecidableEq, Repr

/-- Direction of a window fault (R161). -/
inductive Direction where
  | write
  | read
  deriving DecidableEq, Repr

/-- The window fault record (R161). -/
structure WinFault where
  station : Stn
  reg : BitVec 16
  dir : Direction
  status : Status
  detail : Option Detail
  uncertain : Bool
  deriving DecidableEq, Repr

/-- The window's own items (R155). -/
structure Window where
  hold : Hold
  timer : Option Nat
  fault : Option WinFault
  overflow : Bool
  deriving DecidableEq, Repr

/-- An entry of the event queue (R163); the detail length is the length of `detail`. -/
structure EventEntry where
  station : Stn
  epoch : BitVec 4
  code : BitVec 16
  detail : List Byte
  deriving DecidableEq, Repr

/-- The Event Unit (R163). -/
structure Events where
  queue : List EventEntry
  lastServed : Stn
  deriving DecidableEq, Repr

/-- The Interrupt Unit (R167, R169): the pending edge causes and the enable set, with the bit numbers of R172. The two
condition causes are computed from their conditions. -/
structure Irq where
  edge : Word
  enable : Word
  deriving DecidableEq, Repr

/-! ## The register window (chapter 11) and the ports -/

/-- The parameters and the other registers software writes (R171, R172), each as its fields, and COMMAND_STATUS
(R173). -/
structure Regs where
  rate : BitVec 2
  windowFirst : Bool
  autoCensus : Bool
  replyWindow : Nat
  guardTime : Nat
  retryLimit : Nat
  retryGap : Nat
  busyLimit : Nat
  busyGap : Nat
  suspectThreshold : Nat
  silentThreshold : Nat
  lineFaultLimit : Nat
  sweepInterval : Nat
  deferDeadline : Nat
  resetHold : Nat
  rediscoverInterval : Nat
  windowHold : Nat
  eventThreshold : Nat
  censusMask : Word
  commandMask : Word
  dirSelect : Stn
  xtSelect : Tag
  commandStatus : Word
  deriving DecidableEq, Repr

/-- The copies of the multi-word views (R171). -/
structure Views where
  line : Vector Word 2
  dir : Vector Word 2
  xt : Vector Word 2
  windowFault : Vector Word 2
  eventHead : Vector Word 4
  listA : Vector Word 3
  listB : Vector Word 3
  deriving DecidableEq, Repr

/-- The answer to a target-port access (R154, R171): DONE, with a register word or the four bytes of a window load where
there is data, RETRY or ERROR. -/
inductive Answer where
  | done
  | doneWord (w : Word)
  | doneBytes (d : Bytes4)
  | retry
  | error
  deriving DecidableEq, Repr

/-- What the ports last gave out (log entries 4 and 6): the answer to the last target-port access, and the byte writes
and the status-word write of the last drain or intake status write that ended. -/
structure Bus where
  answer : Option Answer
  data : List (Word × Byte)
  status : Option (Word × Word)
  deriving DecidableEq, Repr

/-- The state of the PG-30, with the queue of waiting commands. -/
structure State where
  table : Table
  store : List Host.Cell
  dir : Directory
  line : Line
  pointer : Requester
  sweep : Sweep
  chanA : Channel
  chanB : Channel
  portLast : Chan
  window : Window
  events : Events
  irq : Irq
  regs : Regs
  views : Views
  bus : Bus
  freeCount : Nat
  pending : List Instr
  deriving DecidableEq, Repr

/-- The ways the machine can stop with a fault. There are none: the block has no fault that stops it, and what the manual
calls faults are state (INVENTORY.md, Faults). -/
inductive Fault where
  deriving DecidableEq, Repr

/-- The ways a command can be refused by the model. -/
inductive Refusal where
  /-- Raised by an arm of `exec` for a command that has no meaning yet. Safe. No arm raises it. -/
  | notModelled (mnemonic : String)
  deriving DecidableEq, Repr

/-- The entry of a station after RESET_N (R25, R46). -/
def Entry.reset : Entry where
  state := .vacant
  cls := none
  revision := none
  capacity := 0
  epoch := none
  seqBit := false
  seqUncertain := false
  purgeNeeded := false
  deferred := 0
  eventPending := false
  keptReady := false
  failures := 0
  holdTimer := none
  wasPresent := false
  lastCensus := none

/-- A channel after RESET_N (R136, R152). -/
def Channel.reset : Channel where
  state := .idle
  haltCause := none
  cancel := .none
  base := 0#32
  next := 0#32
  head := 0#32
  retired := 0#32
  endMark := false
  queue := []
  pendingDesc := none
  portOp := none
  memFault := none

/-- The registers after RESET_N (R171, R172). -/
def Regs.reset : Regs where
  rate := 0#2
  windowFirst := false
  autoCensus := true
  replyWindow := 256
  guardTime := 8
  retryLimit := 3
  retryGap := 4
  busyLimit := 16
  busyGap := 16
  suspectThreshold := 4
  silentThreshold := 8
  lineFaultLimit := 3
  sweepInterval := 0
  deferDeadline := 64
  resetHold := 32
  rediscoverInterval := 0
  windowHold := 64
  eventThreshold := 1
  censusMask := 0x7FFFFFFE#32
  commandMask := 0#32
  dirSelect := 0
  xtSelect := 0
  commandStatus := 0#32

/-- The line record after RESET_N (R67). -/
def Line.reset : Line where
  state := .off
  breakKind := none
  breakCause := none
  job := none
  frameWhole := false
  faultCount := 0
  readyPending := false
  lastFault := none
  rate := 0#2
  txFrame := none
  timer := none
  contentionWait := false
  settling := false

/-- The machine right after RESET_N (R24, R46, R67, R83, R97, R136, R152, R155, R163, R170, R171, R179). -/
def State.reset : State where
  table :=
    { xs := Vector.replicate 32 none
      winList := []
      listAList := []
      listBList := []
      intList := []
      complA := []
      complB := []
      waitList := [] }
  store := []
  dir :=
    { entries := Vector.replicate 30 Entry.reset
      census := []
      recovery := []
      changes := 0#32
      rediscovery := none }
  line := Line.reset
  pointer := .listB
  sweep := { due := false, timer := none }
  chanA := Channel.reset
  chanB := Channel.reset
  portLast := .B
  window := { hold := .empty, timer := none, fault := none, overflow := false }
  events := { queue := [], lastServed := 29 }
  irq := { edge := 0#32, enable := 0#32 }
  regs := Regs.reset
  views :=
    { line := Vector.replicate 2 0#32
      dir := Vector.replicate 2 0#32
      xt := Vector.replicate 2 0#32
      windowFault := Vector.replicate 2 0#32
      eventHead := Vector.replicate 4 0#32
      listA := Vector.replicate 3 0#32
      listB := Vector.replicate 3 0#32 }
  bus := { answer := none, data := [], status := none }
  freeCount := 0
  pending := []

end Sys2Proof.Machine
end

