-- ==== Sys2Proof/Machine/Ops.lean ====
section
/-! DEFINITION. The named operations over the blocks of the state: the Payload Store, the exchange records and their
lists, the directory's entries and lists, the channels, the causes. Every meaning goes through these. -/

namespace Sys2Proof.Machine

/-! ## Station addresses and station masks -/

/-- The link address of a station, 1 to 30. -/
def addrOf (n : Stn) : Nat := n.val + 1

/-- The 5-bit station field of a station. -/
def stnField (n : Stn) : BitVec 5 := BitVec.ofNat 5 (addrOf n)

/-- The station a 5-bit field names; 0 and 31 name none (R173, R154). -/
def stnOfField (f : BitVec 5) : Option Stn :=
  if h : 1 ≤ f.toNat ∧ f.toNat ≤ 30 then some ⟨f.toNat - 1, by omega⟩ else none

/-- The station field of a destination: 31 for a broadcast (R52). -/
def destField : Dest → BitVec 5
  | .station n => stnField n
  | .broadcast => 31#5

/-- All stations in ascending address order. -/
def allStns : List Stn := List.finRange 30

/-- The bits 1 to 30 that a station mask holds (R172). -/
def stationBits : Word := 0x7FFFFFFE#32

/-- Station n stands in a mask at bit n (R172). -/
def maskHas (m : Word) (n : Stn) : Bool := m.getLsbD (addrOf n)

/-- The mask of one station. -/
def maskOf (n : Stn) : Word := 1#32 <<< addrOf n

/-- A mask with one station added. -/
def maskAdd (m : Word) (n : Stn) : Word := m ||| maskOf n

/-! ## The Payload Store (R11, R14): a canonical list of address and byte -/

namespace Memory

/-- The byte at an address. A byte that is not listed reads as 0 (log entry 3). -/
def read : List Host.Cell → Nat → Byte
  | [], _ => 0#8
  | (k, b) :: m, a => if k = a then b else read m a

/-- Write one byte. Writing 0 removes the entry, so that equal stores are equal data. -/
def write : List Host.Cell → Nat → Byte → List Host.Cell
  | [], a, b => if b = 0#8 then [] else [(a, b)]
  | (k, c) :: m, a, b =>
    if a < k then (if b = 0#8 then (k, c) :: m else (a, b) :: (k, c) :: m)
    else if a = k then (if b = 0#8 then m else (a, b) :: m)
    else (k, c) :: write m a b

/-- Addresses strictly rising from `lo` on, and no entry equal to what an unlisted address reads as. -/
def wfFrom : Nat → List Host.Cell → Bool
  | _, [] => true
  | lo, (k, b) :: m => decide (lo ≤ k) && (b != 0#8) && wfFrom (k + 1) m

/-- The canonical form. -/
def wf (m : List Host.Cell) : Bool := wfFrom 0 m

end Memory

/-- The store address of payload byte `i` of an exchange holding the units `us`: the first unit holds bytes 0 to 31, the
second 32 to 63, and so on (R11). -/
def unitAddr (us : List UnitNo) (i : Nat) : Option Nat :=
  (us[i / Config.unitBytes]?).map fun u => u.val * Config.unitBytes + i % Config.unitBytes

/-- Place bytes into the units `us` from payload byte `i` on (R14). -/
def writeUnits (us : List UnitNo) : Nat → List Byte → List Host.Cell → List Host.Cell
  | _, [], m => m
  | i, b :: bs, m =>
    match unitAddr us i with
    | some a => writeUnits us (i + 1) bs (Memory.write m a b)
    | none => writeUnits us (i + 1) bs m

/-- Payload byte `i` of the units `us`. -/
def readUnit (us : List UnitNo) (m : List Host.Cell) (i : Nat) : Byte :=
  match unitAddr us i with
  | some a => Memory.read m a
  | none => 0#8

/-- The first `n` payload bytes of the units `us`. -/
def readUnits (us : List UnitNo) (n : Nat) (m : List Host.Cell) : List Byte :=
  (List.range n).map (readUnit us m)

/-! ## Exchange records -/

/-- All tags in ascending order. -/
def allTags : List Tag := List.finRange 32

/-- The exchange in a record, or none when the record is FREE (R1). -/
def State.xchg (s : State) (t : Tag) : Option Exchange := s.table.xs[t]

/-- Put an exchange into a record, or make the record FREE. -/
def State.setXchg (s : State) (t : Tag) (x : Option Exchange) : State :=
  { s with table.xs := s.table.xs.set t x }

/-- Apply a function to every non-FREE record. -/
def mapXs (f : Tag → Exchange → Option Exchange) (xs : Vector (Option Exchange) 32) : Vector (Option Exchange) 32 :=
  xs.mapFinIdx fun i o h => o.bind (f ⟨i, h⟩)

/-- Change every non-FREE record of the table in place. -/
def State.mapX (s : State) (f : Tag → Exchange → Exchange) : State :=
  { s with table.xs := mapXs (fun t x => some (f t x)) s.table.xs }

/-- The number of non-FREE records with a property. -/
def State.countX (s : State) (p : Exchange → Bool) : Nat :=
  allTags.countP fun t => (s.xchg t).any p

/-- Some non-FREE record other than `t` has the property. -/
def State.otherX (s : State) (t : Tag) (p : Exchange → Bool) : Bool :=
  allTags.any fun t' => (t' != t) && (s.xchg t').any p

/-- Some non-FREE record has the property. -/
def State.anyX (s : State) (p : Exchange → Bool) : Bool :=
  allTags.any fun t => (s.xchg t).any p

/-- An exchange that is neither COMPLETE nor DRAINING: it is not finished (R7). -/
def Exchange.live (x : Exchange) : Bool := x.state != .complete && x.state != .draining

/-- The non-idempotent kinds (R53). -/
def Kind.nonIdem : Kind → Bool
  | .write | .signal | .fetchEvent => true
  | .read | .bcastWrite | .census | .purge | .stationReset => false

/-- A WRITE, SIGNAL or FETCH_EVENT to the station with its unanswered mark set, finished or not (R87, R129). -/
def Exchange.unansweredAt (x : Exchange) (n : Stn) : Bool := x.kind.nonIdem && x.unanswered && x.dest == .station n

/-- An unfinished exchange in the COLLECT or ABANDON phase, which its station's deferred count counts (R25). -/
def Exchange.isDeferred (x : Exchange) : Bool := x.live && x.phase != .issue

/-- Some exchange to the station is in a state other than FREE, COMPLETE or DRAINING (R42). -/
def State.inFlightTo (s : State) (n : Stn) : Bool :=
  s.anyX fun x => x.live && x.dest == .station n

/-! ## Creation lists, completion lists and the payload wait list -/

/-- The creation list of an owner (R4). -/
def Table.creation (tb : Table) : Owner → List Tag
  | .window => tb.winList
  | .list .A => tb.listAList
  | .list .B => tb.listBList
  | .internal => tb.intList

/-- Replace the creation list of an owner. -/
def Table.setCreation (tb : Table) (o : Owner) (l : List Tag) : Table :=
  match o with
  | .window => { tb with winList := l }
  | .list .A => { tb with listAList := l }
  | .list .B => { tb with listBList := l }
  | .internal => { tb with intList := l }

/-- The completion list of a channel (R15). -/
def Table.compl (tb : Table) : Chan → List Tag
  | .A => tb.complA
  | .B => tb.complB

/-- Replace the completion list of a channel. -/
def Table.setCompl (tb : Table) (c : Chan) (l : List Tag) : Table :=
  match c with
  | .A => { tb with complA := l }
  | .B => { tb with complB := l }

/-- A channel withdraws its entry from the payload wait list (R13). -/
def State.withdraw (s : State) (c : Chan) : State :=
  { s with table.waitList := s.table.waitList.filter fun e => e.1 != c }

/-! ## Payload units and creation -/

/-- The units of an owner's partition, from the first to before the last bound (R11). -/
def partition : Owner → Nat × Nat
  | .window => (0, 8)
  | .internal => (8, 12)
  | .list _ => (12, 64)

/-- A unit is held when some non-FREE record lists it (R11). -/
def State.unitHeld (s : State) (u : UnitNo) : Bool := s.anyX fun x => x.units.contains u

/-- The free units of an owner's partition, ascending (R11). -/
def State.freeUnits (s : State) (o : Owner) : List UnitNo :=
  (List.finRange 64).filter fun u => decide ((partition o).1 ≤ u.val) && decide (u.val < (partition o).2) && !s.unitHeld u

/-- The units an exchange needs: ceil(length / 32) for WRITE, READ and BCAST_WRITE, 1 for CENSUS and FETCH_EVENT, none
for the others (R11). -/
def unitsNeeded (k : Kind) (len : Option Nat) : Nat :=
  match k with
  | .write | .read | .bcastWrite => (len.getD 0 + 31) / 32
  | .census | .fetchEvent => 1
  | .signal | .purge | .stationReset => 0

/-- The quota check of a creation (R3); INTERNAL is checked for each part separately. -/
def State.quotaOk (s : State) (o : Owner) (k : Kind) : Bool :=
  match o with
  | .window => decide (s.countX (fun x => x.owner == .window) < Config.windowQuota)
  | .list c => decide (s.countX (fun x => x.owner == .list c) < Config.listQuota)
  | .internal =>
    match k with
    | .census => !s.anyX fun x => x.kind == .census
    | .purge | .stationReset => !s.anyX fun x => x.kind == .purge || x.kind == .stationReset
    | .fetchEvent => decide (s.countX (fun x => x.kind == .fetchEvent) < Config.fetchQuota)
    | .write | .read | .signal | .bcastWrite => false

/-- The lowest-numbered FREE record (R2). -/
def State.lowestFree (s : State) : Option Tag := allTags.find? fun t => (s.xchg t).isNone

/-- What an owner asks for when it creates an exchange (R2). -/
structure Request where
  owner : Owner
  kind : Kind
  dest : Dest
  regAddr : Option (BitVec 16)
  length : Option Nat
  signalOp : Option Byte
  fence : Bool
  deriving DecidableEq, Repr

/-- FILLING for a list WRITE or BCAST_WRITE, WAITING for every other exchange (R2). -/
def Request.startState (r : Request) : XState :=
  match r.owner, r.kind with
  | .list _, .write | .list _, .bcastWrite => .filling
  | _, _ => .waiting

/-- The record as creation fills it in (R2). -/
def Request.exchange (r : Request) (us : List UnitNo) : Exchange where
  owner := r.owner
  kind := r.kind
  dest := r.dest
  regAddr := r.regAddr
  length := r.length
  signalOp := r.signalOp
  units := us
  phase := .issue
  state := r.startState
  attempts := 0
  busyCount := 0
  seqUsed := none
  unanswered := false
  fence := r.fence
  expired := false
  fillEnd := none
  carried := none
  backoff := none
  deadline := none
  epochSeen := none
  result := none

/-- Create an exchange (R2, R3, R4, R11): the lowest FREE record, the lowest free units of the owner's partition, the
tail of the owner's creation list. None when the owner is at its quota, and then nothing changes. -/
def State.create (s : State) (r : Request) : Option (Tag × State) :=
  if s.quotaOk r.owner r.kind then
    match s.lowestFree with
    | none => none
    | some t =>
      let need := unitsNeeded r.kind r.length
      let us := (s.freeUnits r.owner).take need
      if us.length = need then
        let s1 := s.setXchg t (some (r.exchange us))
        some (t, { s1 with table := s1.table.setCreation r.owner (s1.table.creation r.owner ++ [t]) })
      else none
  else none

/-- Retire an exchange: the record goes FREE, its units with it, and its tag leaves the creation list of its owner and
the completion list (R22). -/
def State.free (s : State) (t : Tag) : State :=
  match s.xchg t with
  | none => s
  | some x =>
    let s1 := s.setXchg t none
    let tb := s1.table.setCreation x.owner ((s1.table.creation x.owner).filter (· != t))
    match x.owner with
    | .list c => { s1 with table := tb.setCompl c ((tb.compl c).filter (· != t)) }
    | .window | .internal => { s1 with table := tb }

/-! ## Moves of one record (R5, R7, R15) -/

/-- Entry to the ABANDON phase, WAITING, with the status the exchange will report (R5). -/
def Exchange.toAbandon (x : Exchange) (c : Carried) : Exchange :=
  { x with
    phase := .abandon, state := .waiting, attempts := 0, backoff := none, deadline := none, expired := false,
    carried := some c }

/-- Entry to the COLLECT phase in state PARKED, with the deadline loaded (R5, R106). -/
def Exchange.toCollect (x : Exchange) (bt : Nat) : Exchange :=
  { x with phase := .collect, state := .parked, attempts := 0, deadline := some (.running bt) }

/-- What an exchange completes with (R15). -/
structure Completion where
  status : Status
  detail : Option Detail
  replyLength : Nat
  repeated : Bool
  deriving DecidableEq, Repr

/-- A completion by status alone. -/
def Completion.plain (st : Status) : Completion := { status := st, detail := none, replyLength := 0, repeated := false }

/-- The exchange ends with the uncertain flag: a non-idempotent kind with its unanswered mark set (R17). -/
def Exchange.uncertain (x : Exchange) : Bool := x.kind.nonIdem && x.unanswered

/-- Entry to COMPLETE (R15): timers, expired mark, carried status and fill end mark go, and the result is written. -/
def Exchange.finish (x : Exchange) (c : Completion) : Exchange :=
  { x with
    state := .complete, backoff := none, deadline := none, expired := false, carried := none, fillEnd := none,
    result := some
      { status := c.status, detail := c.detail, replyLength := c.replyLength, repeated := c.repeated,
        uncertain := x.uncertain, epochSeen := x.epochSeen, attempts := x.attempts } }

/-- Put a fill end mark; the first event to reach the exchange gives its status (R18). -/
def Exchange.markFill (x : Exchange) (m : FillMark) : Exchange :=
  if x.state = .filling ∧ x.fillEnd = none then { x with fillEnd := some m } else x

/-- The status a fill end mark stands for (R18). -/
def FillMark.status : FillMark → Status
  | .linkReset => .linkReset
  | .stationLost => .stationLost
  | .cancelled => .cancelled

/-! ## Directory entries and lists -/

/-- A station's entry. -/
def State.entry (s : State) (n : Stn) : Entry := s.dir.entries[n]

/-- Replace a station's entry. -/
def State.setEntry (s : State) (n : Stn) (e : Entry) : State :=
  { s with dir.entries := s.dir.entries.set n e }

/-- Change a station's entry. -/
def State.modEntry (s : State) (n : Stn) (f : Entry → Entry) : State := s.setEntry n (f (s.entry n))

/-- Change every entry. -/
def State.mapEntries (s : State) (f : Stn → Entry → Entry) : State :=
  { s with dir.entries := s.dir.entries.mapFinIdx fun i e h => f ⟨i, h⟩ e }

/-- A station joins the change summary (R44). -/
def State.noteChange (s : State) (n : Stn) : State := { s with dir.changes := maskAdd s.dir.changes n }

/-- A state change of R27: the new state, and the station joins the change summary. -/
def State.moveTo (s : State) (n : Stn) (st : StnState) : State :=
  (s.modEntry n fun e => { e with state := st }).noteChange n

/-- A station joins the tail of the census list; one in the list keeps its place, and a DISABLED one does not join
(R28). -/
def State.joinCensus (s : State) (n : Stn) : State :=
  if (s.entry n).state = .disabled ∨ n ∈ s.dir.census then s
  else { s with dir.census := s.dir.census ++ [n] }

/-- Several stations join in order. -/
def State.joinCensusAll (s : State) (ns : List Stn) : State := ns.foldl State.joinCensus s

/-- A station goes back to the head of the census list, unless it is in it or DISABLED (R33). -/
def State.censusToHead (s : State) (n : Stn) : State :=
  if (s.entry n).state = .disabled ∨ n ∈ s.dir.census then s
  else { s with dir.census := n :: s.dir.census }

/-- The station's recovery record, if it has one (R35). -/
def State.recoveryOf (s : State) (n : Stn) : Option RecAction := (s.dir.recovery.find? fun r => r.1 == n).map (·.2)

/-- A PURGE record joins the tail, unless the station has a record already (R35). -/
def State.placePurge (s : State) (n : Stn) : State :=
  if (s.recoveryOf n).isSome then s else { s with dir.recovery := s.dir.recovery ++ [(n, .purge)] }

/-- A RESET record takes the place of a PURGE record, changes nothing where there is a RESET record, and joins the tail
otherwise (R35). -/
def State.placeReset (s : State) (n : Stn) : State :=
  if (s.recoveryOf n).isSome then
    { s with dir.recovery := s.dir.recovery.map fun r => if r.1 = n then (n, .reset) else r }
  else { s with dir.recovery := s.dir.recovery ++ [(n, .reset)] }

/-- The station's record leaves the recovery list (R39, R42). -/
def State.dropRecovery (s : State) (n : Stn) : State :=
  { s with dir.recovery := s.dir.recovery.filter fun r => r.1 != n }

/-- Set the purge-needed mark; where the station is PRESENT, SUSPECT or HELD, a PURGE record joins. A mark already set is
left as it is (R38), and then no record joins, also where the station has none (R114; log entry 37). -/
def State.setPurge (s : State) (n : Stn) : State :=
  if (s.entry n).purgeNeeded then s
  else
    let s1 := s.modEntry n fun e => { e with purgeNeeded := true }
    match (s.entry n).state with
    | .present | .suspect | .held => s1.placePurge n
    | .vacant | .recovering | .silent | .resync | .disabled => s1

/-- An unknown outcome at a station: the sequence-uncertain mark, and the census list (R126). -/
def State.noteUnknown (s : State) (n : Stn) : State :=
  (s.modEntry n fun e => { e with seqUncertain := true }).joinCensus n

/-- The number of the station's exchanges in the COLLECT or ABANDON phase that are not finished (R25, R108). -/
def State.deferredOf (s : State) (n : Stn) : Nat := s.countX fun x => x.isDeferred && x.dest == .station n

/-- The directory keeps every deferred count in step with the table (R25, R108; log entry 23). -/
def State.recount (s : State) : State := s.mapEntries fun n e => { e with deferred := s.deferredOf n }

/-! ## Channels, causes, answers and timers -/

/-- A channel. -/
def State.chan (s : State) : Chan → Channel
  | .A => s.chanA
  | .B => s.chanB

/-- Replace a channel. -/
def State.setChan (s : State) (c : Chan) (ch : Channel) : State :=
  match c with
  | .A => { s with chanA := ch }
  | .B => { s with chanB := ch }

/-- Change a channel. -/
def State.modChan (s : State) (c : Chan) (f : Channel → Channel) : State := s.setChan c (f (s.chan c))

/-- Raise an edge cause: it becomes pending or stays pending (R167). -/
def State.raise (s : State) (cause : Word) : State := { s with irq.edge := s.irq.edge ||| cause }

/-- Answer a target-port access (R154, R171). -/
def State.answer (s : State) (a : Answer) : State := { s with bus.answer := some a }

/-- A value taken into a parameter's range (R172). -/
def clamp (lo hi v : Nat) : Nat := max lo (min hi v)

/-- A timer loaded from a KBT interval: it stops when the value is 0 (R34, R98). -/
def loadKbt (v : Nat) : Option Nat := if v = 0 then none else some (v * Config.kbt)

end Sys2Proof.Machine
end

