-- ==== Sys2Proof/Machine/Flags.lean ====
section
/-! DEFINITION. The codes and flag words of chapter 11: bit fields, status and detail codes, the descriptor status word,
interrupt causes and pins, command verdicts. -/

namespace Sys2Proof.Machine

/-- A number placed in the field of `width` bits that starts at bit `pos`. -/
def field (pos width v : Nat) : Word := BitVec.ofNat 32 (v % 2 ^ width) <<< pos

/-- A flag placed at a bit. -/
def flag (pos : Nat) (b : Bool) : Word := if b then 1#32 <<< pos else 0#32

/-- The fields of a word put together. -/
def word (l : List Word) : Word := l.foldl (· ||| ·) 0#32

/-! ## Interrupt causes (R167, R172) -/

/-- LIST_x_NOTE: bit 0 for A, bit 2 for B. -/
def causeNote : Chan → Word
  | .A => 0x1#32
  | .B => 0x4#32

/-- LIST_x_HALT: bit 1 for A, bit 3 for B. -/
def causeHalt : Chan → Word
  | .A => 0x2#32
  | .B => 0x8#32

/-- WINDOW_FAULT: bit 4. -/
def causeWindowFault : Word := 0x10#32

/-- LINE_FAULT: bit 5. -/
def causeLineFault : Word := 0x20#32

/-- CENSUS_DONE: bit 6. -/
def causeCensusDone : Word := 0x40#32

/-- LINK_READY: bit 7. -/
def causeLinkReady : Word := 0x80#32

/-- The eight edge causes. -/
def edgeCauses : Word := 0xFF#32

/-- All ten causes. -/
def allCauses : Word := 0x3FF#32

/-- EVENTS holds while the queue holds at least EVENT_THRESHOLD entries (R167). -/
def State.eventsCondition (s : State) : Bool := decide (s.regs.eventThreshold ≤ s.events.queue.length)

/-- STATIONS holds while the change summary is not empty (R167). -/
def State.stationsCondition (s : State) : Bool := s.dir.changes != 0#32

/-- The pending set: the edge causes held, and the two condition causes exactly while their conditions hold (R167). -/
def State.pendingCauses (s : State) : Word :=
  s.irq.edge ||| flag 8 s.eventsCondition ||| flag 9 s.stationsCondition

/-- IRQ_N is asserted, low, exactly while some cause is both pending and enabled (R169). -/
def State.irqAsserted (s : State) : Bool := (s.pendingCauses &&& s.irq.enable) != 0#32

/-- LINK_DE: the driver is enabled only in WAKE, SENDING and BREAK (R67), and not while the unit has stopped driving on
contention (R75). -/
def State.linkDE (s : State) : Bool :=
  match s.line.state with
  | .wake | .sending => !s.line.contentionWait
  | .break => true
  | .off | .idle | .await | .receiving | .guard | .slots => false

/-! ## Status, reason and fault codes (R177) -/

/-- Status codes. -/
def Status.code : Status → Nat
  | .ok => 0
  | .short => 1
  | .refused => 2
  | .busyExhausted => 3
  | .retryExhausted => 4
  | .protocol => 5
  | .stationLost => 6
  | .stationRestarted => 7
  | .deferExpired => 8
  | .cancelled => 9
  | .linkReset => 10
  | .notPresent => 11
  | .invalid => 12
  | .discarded => 14

/-- A status other than OK or SHORT (R148, R159). -/
def Status.isFailure : Status → Bool
  | .ok | .short => false
  | .refused | .busyExhausted | .retryExhausted | .protocol | .stationLost | .stationRestarted | .deferExpired
  | .cancelled | .linkReset | .notPresent | .invalid | .discarded => true

/-- Reason codes (R176). -/
def Reason.code : Reason → Nat
  | .badAddress => 1
  | .badLength => 2
  | .readOnly => 3
  | .unsupported => 4
  | .stationFault => 5

/-- The reason a REFUSE carries; any other code is taken as STATION_FAULT (R54). -/
def reasonOfCode (n : Nat) : Reason :=
  match n with
  | 1 => .badAddress
  | 2 => .badLength
  | 3 => .readOnly
  | 4 => .unsupported
  | _ => .stationFault

/-- Fault kind codes. -/
def FaultKind.code : FaultKind → Nat
  | .timeout => 8
  | .crc => 9
  | .framing => 10
  | .contention => 11
  | .wrongStation => 12
  | .overrun => 13
  | .unexpected => 14

/-- Reason and fault kind share one code field; 0 is none. -/
def detailCode : Option Detail → Nat
  | none => 0
  | some (.reason r) => r.code
  | some (.fault k) => k.code

/-- The status word of a result (R143, R177). -/
def statusWord (r : Result) : Word :=
  word
    [flag 31 true, field 27 4 r.status.code, field 23 4 (detailCode r.detail), field 19 4 r.attempts,
     flag 18 r.repeated, flag 17 r.uncertain, flag 16 r.epochSeen.isSome,
     field 12 4 (r.epochSeen.getD 0#4).toNat, field 0 9 r.replyLength]

/-- The status word of a descriptor without an exchange (R143). -/
def plainStatusWord (st : Status) : Word :=
  statusWord
    { status := st, detail := none, replyLength := 0, repeated := false, uncertain := false, epochSeen := none,
      attempts := 0 }

/-! ## The command port (R173) -/

/-- The verdict of a command: accepted, or a refusal with its code. -/
inductive CmdVerdict where
  | accepted
  | unknown
  | badArgument
  | badState
  | busy
  | empty
  deriving DecidableEq, Repr

/-- The refusal code, 0 for none. -/
def CmdVerdict.code : CmdVerdict → Nat
  | .accepted => 0
  | .unknown => 1
  | .badArgument => 2
  | .badState => 3
  | .busy => 4
  | .empty => 5

/-- The channel bit of COMMAND. -/
def chanBit : Chan → Bool
  | .A => false
  | .B => true

/-- COMMAND_STATUS for a verdict on a write of COMMAND with this code and these fields. -/
def commandStatusWord (v : CmdVerdict) (code : Nat) (f : CmdFields) : Word :=
  word
    [flag 0 (v != .accepted), field 1 3 v.code, field 8 8 code, field 16 5 f.station.toNat, flag 24 (chanBit f.chan)]

/-- The command port takes a write of COMMAND: it is answered DONE, and COMMAND_STATUS shows the verdict. -/
def State.command (s : State) (v : CmdVerdict) (code : Nat) (f : CmdFields) : State :=
  { s with regs.commandStatus := commandStatusWord v code f, bus.answer := some .done }

end Sys2Proof.Machine
end

