-- ==== Sys2Proof/Machine/Operands.lean ====
section
/-! DEFINITION. Operand and format decoding: the CRC and the request frames the unit sends, the reply frames it reads,
bid slots, descriptors, window offsets and register values. -/

namespace Sys2Proof.Machine

/-! ## The check value (R51) -/

/-- One bit into the check register: generator x^16 + x^12 + x^5 + 1. -/
def crcBit (r : BitVec 16) (b : Bool) : BitVec 16 :=
  if r.getLsbD 15 != b then (r <<< 1) ^^^ 0x1021#16 else r <<< 1

/-- One byte into the check register, most significant bit first. -/
def crcByte (r : BitVec 16) (b : Byte) : BitVec 16 :=
  [7, 6, 5, 4, 3, 2, 1, 0].foldl (fun r i => crcBit r (b.getLsbD i)) r

/-- The check value of the bytes: the register starts at FFFFh and is not inverted. -/
def crc16 (bs : List Byte) : BitVec 16 := bs.foldl crcByte 0xFFFF#16

/-- The two CRC bytes, high-order byte first. -/
def crcBytes (bs : List Byte) : List Byte :=
  [(crc16 bs).extractLsb' 8 8, (crc16 bs).extractLsb' 0 8]

/-! ## Requests (R52, R53, R175) -/

/-- The request an exchange sends, by its kind and phase (R5). -/
def requestKind (x : Exchange) : ReqKind :=
  match x.kind, x.phase with
  | .read, .issue => .read
  | .read, .collect => .collect
  | .read, .abandon => .abandon
  | .write, _ => .write
  | .signal, _ => .signal
  | .bcastWrite, _ => .bcastWrite
  | .census, _ => .census
  | .fetchEvent, _ => .fetchEvent
  | .purge, _ => .purge
  | .stationReset, _ => .stationReset

/-- Request kind codes; the three control ops share CONTROL. -/
def ReqKind.code : ReqKind → Byte
  | .write => 0x11#8
  | .read => 0x12#8
  | .signal => 0x13#8
  | .collect => 0x14#8
  | .abandon | .purge | .stationReset => 0x15#8
  | .census => 0x16#8
  | .fetchEvent => 0x17#8
  | .bcastWrite => 0x18#8
  | .sweep => 0x19#8

/-- The count field: length - 1, the signal op, the control op, or 0 (R52). For a CONTROL ABANDON the manual gives both the
length - 1 of its READ and the control op; the unit sends the control op (log entry 32). -/
def requestCount (q : ReqKind) (x : Exchange) : Byte :=
  match q with
  | .write | .read | .bcastWrite | .collect => BitVec.ofNat 8 (x.length.getD 1 - 1)
  | .abandon => 0x01#8
  | .signal => x.signalOp.getD 0#8
  | .purge => 0x02#8
  | .stationReset => 0x03#8
  | .census | .fetchEvent | .sweep => 0#8

/-- The register address field (R52). -/
def requestAddr (q : ReqKind) (x : Exchange) : BitVec 16 :=
  match q with
  | .write | .read | .signal | .bcastWrite | .collect | .abandon => x.regAddr.getD 0#16
  | .purge | .stationReset | .census | .fetchEvent | .sweep => 0#16

/-- The sequence bit is carried by WRITE, SIGNAL and FETCH_EVENT alone (R52). -/
def requestSeq (q : ReqKind) (x : Exchange) : Bool :=
  match q with
  | .write | .signal | .fetchEvent => x.seqUsed.getD false
  | .read | .collect | .abandon | .purge | .stationReset | .census | .bcastWrite | .sweep => false

/-- END closes a BCAST_WRITE and a SWEEP, HAND every other request (R53). -/
def closingMark : ReqKind → Mark
  | .bcastWrite | .sweep => .fin
  | .write | .read | .signal | .collect | .abandon | .purge | .stationReset | .census | .fetchEvent => .hand

/-- The payload of a request: the length bytes of a WRITE or BCAST_WRITE (R14, R52). -/
def requestPayload (q : ReqKind) (x : Exchange) (m : List Host.Cell) : List Byte :=
  match q with
  | .write | .bcastWrite => readUnits x.units (x.length.getD 0) m
  | .read | .signal | .collect | .abandon | .purge | .stationReset | .census | .fetchEvent | .sweep => []

/-- Header byte 1 of a request: station in bits 4:0, sequence bit in bit 5 (R175). -/
def stationByte (st : BitVec 5) (seq : Bool) : Byte :=
  st.setWidth 8 ||| (if seq then 0x20#8 else 0#8)

/-- The six header bytes (R175). -/
def requestHeader (code : Byte) (st : BitVec 5) (seq : Bool) (t : Tag) (count : Byte) (addr : BitVec 16) : List Byte :=
  [code, stationByte st seq, BitVec.ofNat 8 t.val, count, addr.extractLsb' 0 8, addr.extractLsb' 8 8]

/-- The frame of an attempt (R50, R69). -/
def requestFrame (t : Tag) (x : Exchange) (m : List Host.Cell) : Frame :=
  let q := requestKind x
  let body :=
    requestHeader q.code (destField x.dest) (requestSeq q x) t (requestCount q x) (requestAddr q x)
      ++ requestPayload q x m
  { bytes := body ++ crcBytes body, closing := closingMark q }

/-- The SWEEP frame: station 31, tag 0, no payload, closed with END (R69). -/
def sweepFrame : Frame :=
  let body := requestHeader ReqKind.sweep.code 31#5 false 0 0#8 0#16
  { bytes := body ++ crcBytes body, closing := .fin }

/-! ## Replies (R54, R55, R176) -/

/-- Reply kinds. -/
inductive ReplyKind where
  | accept
  | data
  | defer
  | busy
  | refuse
  | notReady
  | unknownTag
  | ident
  | event
  | noEvent
  deriving DecidableEq, Repr

/-- The reply kind of a code, none for a code not in the table. -/
def replyKindOf (b : Byte) : Option ReplyKind :=
  if b = 0x21#8 then some .accept
  else if b = 0x22#8 then some .data
  else if b = 0x23#8 then some .defer
  else if b = 0x24#8 then some .busy
  else if b = 0x25#8 then some .refuse
  else if b = 0x26#8 then some .notReady
  else if b = 0x27#8 then some .unknownTag
  else if b = 0x28#8 then some .ident
  else if b = 0x29#8 then some .event
  else if b = 0x2A#8 then some .noEvent
  else none

/-- What the directory reads of every sound reply: its epoch and its attention flags (R72). -/
structure ReplyHead where
  epoch : BitVec 4
  attReady : Bool
  attEvent : Bool
  deriving DecidableEq, Repr

/-- An accepted reply as the unit reports it (R72). -/
structure Reply where
  kind : ReplyKind
  head : ReplyHead
  repeated : Bool
  reason : Reason
  payload : List Byte
  deriving DecidableEq, Repr

/-- The outcome of an attempt as the unit reports it (R71, R72, R75). LINK_RESET is reported within the LINK_RESET
command (R80). `sound` is a sound reply faulted OVERRUN or UNEXPECTED; `lost` is TIMEOUT, CRC, FRAMING, WRONG_STATION or
CONTENTION; `sent` is the outcome of a BCAST_WRITE. -/
inductive Verdict where
  | reply (r : Reply)
  | sound (k : FaultKind) (h : ReplyHead)
  | lost (k : FaultKind)
  | sent
  deriving DecidableEq, Repr

/-- What the unit makes of a frame that ended with an END mark. -/
inductive Judgement where
  /-- the END mark stood where a byte was expected: an early FRAMING fault (R71; log entry 14) -/
  | early
  | outcome (v : Verdict)
  deriving DecidableEq, Repr

/-- The payload size a reply header implies (R54). -/
def impliedPayload (kind count : Byte) : Nat :=
  match replyKindOf kind with
  | some .data | some .ident | some .event => count.toNat + 1
  | some .accept | some .defer | some .busy | some .refuse | some .notReady | some .unknownTag | some .noEvent
  | none => 0

/-- The replies allowed for each request (R56). -/
def allowedReply (q : ReqKind) (k : ReplyKind) : Bool :=
  match q with
  | .write | .signal => [ReplyKind.accept, .busy, .refuse].contains k
  | .read => [ReplyKind.data, .defer, .busy, .refuse].contains k
  | .collect => [ReplyKind.data, .notReady, .unknownTag].contains k
  | .abandon => [ReplyKind.accept, .unknownTag].contains k
  | .purge | .stationReset => k == .accept
  | .census => k == .ident
  | .fetchEvent => [ReplyKind.event, .noEvent, .busy].contains k
  | .bcastWrite | .sweep => false

/-- The payload sizes R56 allows for IDENT and EVENT. -/
def payloadSizeOk (k : ReplyKind) (n : Nat) : Bool :=
  match k with
  | .ident => n == 4
  | .event => decide (2 ≤ n) && decide (n ≤ 14)
  | .accept | .data | .defer | .busy | .refuse | .notReady | .unknownTag | .noEvent => true

/-- The content checks of R71 on a reply that passed the reception checks: OVERRUN for a DATA longer than the length of
the READ (log entry 15), then UNEXPECTED for the cases of R56, then the reply is accepted. -/
def judgeContent (t : Tag) (x : Exchange) (kind st tagB ep count : Byte) (payload : List Byte) : Verdict :=
  let q := requestKind x
  let h : ReplyHead :=
    { epoch := ep.extractLsb' 0 4, attReady := tagB.getLsbD 5, attEvent := tagB.getLsbD 6 }
  if kind = 0x22#8 ∧ x.kind = .read ∧ x.length.getD 0 < count.toNat + 1 then .sound .overrun h
  else
    match replyKindOf kind with
    | none => .sound .unexpected h
    | some k =>
      if allowedReply q k && (tagB.extractLsb' 0 5 == BitVec.ofNat 5 t.val) && (st.getLsbD 5 == requestSeq q x)
          && payloadSizeOk k payload.length then
        .reply
          { kind := k, head := h, repeated := x.kind.nonIdem && st.getLsbD 6,
            reason := reasonOfCode (ep.extractLsb' 4 4).toNat, payload := payload }
      else .sound .unexpected h

/-- The checks of R71 in their order on the bytes between START and END: framing, CRC, station, then the content
checks. -/
def judgeReply (t : Tag) (x : Exchange) (bytes : List Byte) : Judgement :=
  match bytes with
  | kind :: st :: tagB :: ep :: count :: rest =>
    let n := impliedPayload kind count
    if rest.length < n + 2 then .early
    else if n + 2 < rest.length then .outcome (.lost .framing)
    else
      let payload := rest.take n
      if crcBytes (kind :: st :: tagB :: ep :: count :: payload) ≠ rest.drop n then .outcome (.lost .crc)
      else if st.extractLsb' 0 5 ≠ destField x.dest then .outcome (.lost .wrongStation)
      else .outcome (judgeContent t x kind st tagB ep count payload)
  | _ => .early

/-! ## Bid slots (R74, R174) -/

/-- Slot outcomes. -/
inductive SlotOutcome where
  | empty
  | ready
  | event
  | both
  | garbled
  deriving DecidableEq, Repr

/-- The patterns of the three bid codes (R174). -/
def bidReady : List LineSym := [.one, .zero, .one, .one]

def bidEvent : List LineSym := [.one, .one, .zero, .one]

def bidBoth : List LineSym := [.one, .zero, .zero, .one]

/-- How the unit reads a slot: a code counts when it begins within the first BT and the line is quiet for the rest. -/
def readSlot : SlotSeen → SlotOutcome
  | .quiet => .empty
  | .driven inFirst pattern quietAfter =>
    if inFirst && quietAfter then
      if pattern = bidReady then .ready
      else if pattern = bidEvent then .event
      else if pattern = bidBoth then .both
      else .garbled
    else .garbled

/-- A slot outcome that carries a READY sign; GARBLED is taken as BOTH (R101). -/
def SlotOutcome.hasReady : SlotOutcome → Bool
  | .ready | .both | .garbled => true
  | .empty | .event => false

/-- A slot outcome that carries an EVENT sign. -/
def SlotOutcome.hasEvent : SlotOutcome → Bool
  | .event | .both | .garbled => true
  | .empty | .ready => false

/-! ## Descriptors (R134, R177) -/

/-- The kind field of a descriptor. -/
def descKindOf (w : BitVec 3) : DescKind :=
  if w = 1#3 then .write
  else if w = 2#3 then .read
  else if w = 3#3 then .signal
  else if w = 4#3 then .bcastWrite
  else if w = 5#3 then .nop
  else .bad

/-- An address with its five low bits taken as 0. -/
def align32 (a : Word) : Word := a &&& 0xFFFFFFE0#32

/-- A descriptor from words 0 to 4 as fetched from `addr` (R177). -/
def decodeDesc (addr w0 w1 w2 w3 w4 : Word) : Desc where
  addr := addr
  kind := descKindOf (w0.extractLsb' 0 3)
  station := w0.extractLsb' 8 5
  fence := w0.getLsbD 16
  irq := w0.getLsbD 17
  stopOnFail := w0.getLsbD 18
  last := w0.getLsbD 19
  regAddr := w1.extractLsb' 0 16
  signalOp := w1.extractLsb' 16 8
  length := (w2.extractLsb' 0 8).toNat + 1
  buffer := w3
  next := align32 w4

/-- The INVALID cases of R135. -/
def Desc.isInvalid (d : Desc) : Bool :=
  match d.kind with
  | .bad => true
  | .nop => false
  | .write | .read => d.station == 0#5 || d.station == 31#5 || d.buffer.toNat % 4 != 0
  | .signal => d.station == 0#5 || d.station == 31#5
  | .bcastWrite => d.station != 31#5 || d.buffer.toNat % 4 != 0

/-- The exchange kind of a descriptor, none for a NOP or a bad kind. -/
def DescKind.kind : DescKind → Option Kind
  | .write => some .write
  | .read => some .read
  | .signal => some .signal
  | .bcastWrite => some .bcastWrite
  | .nop | .bad => none

/-- The destination of a descriptor. -/
def Desc.dest (d : Desc) : Dest :=
  match stnOfField d.station with
  | some n => .station n
  | none => .broadcast

/-- What the channel asks the table for (R140). -/
def Desc.request (d : Desc) (c : Chan) (k : Kind) : Request where
  owner := .list c
  kind := k
  dest := d.dest
  regAddr := some d.regAddr
  length := match k with
    | .signal => none
    | .write | .read | .bcastWrite | .census | .fetchEvent | .purge | .stationReset => some d.length
  signalOp := match k with
    | .signal => some d.signalOp
    | .write | .read | .bcastWrite | .census | .fetchEvent | .purge | .stationReset => none
  fence := d.fence

/-- The units a descriptor needs (R140). -/
def Desc.units (d : Desc) : Nat :=
  match d.kind.kind with
  | some k => unitsNeeded k (some d.length)
  | none => 0

/-! ## The station window (R154) -/

/-- The station field of an offset: the offset divided by 4096. -/
def windowStation (offset : BitVec 17) : BitVec 5 := offset.extractLsb' 12 5

/-- The register field of an offset: the remainder on division by 4096. -/
def windowReg (offset : BitVec 17) : BitVec 16 := (offset.extractLsb' 0 12).setWidth 16

/-- A 32-bit access with all four byte enables; its offset is a multiple of 4. -/
def windowWhole (offset : BitVec 17) (enables : BitVec 4) : Bool := (enables == 15#4) && (offset.toNat % 4 == 0)

/-- The states in which a station is open to the window and to the lists (R26, R154). -/
def StnState.isOpen : StnState → Bool
  | .vacant | .silent | .disabled => false
  | .present | .suspect | .held | .recovering | .resync => true

/-- The four bytes of a store in address order. -/
def bytesOf (d : Bytes4) : List Byte := [d.b0, d.b1, d.b2, d.b3]

/-- Up to four bytes in address order, the rest 0 (R159). -/
def bytes4 (l : List Byte) : Bytes4 where
  b0 := l.getD 0 0#8
  b1 := l.getD 1 0#8
  b2 := l.getD 2 0#8
  b3 := l.getD 3 0#8

end Sys2Proof.Machine
end

