-- ==== Sys2Proof/Machine/Completion.lean ====
section
/-! DEFINITION. Completion of exchanges and what their owners do about it (R15, R17 to R22, R157, R159), and the stopping,
cancelling and halting of a channel (R20, R148, R149, R151). -/

namespace Sys2Proof.Machine

/-! ## The window fault record (R161) -/

/-- Enter a failure: into the empty record, raising WINDOW_FAULT, or set the overflow flag. -/
def State.enterWindowFault (s : State) (f : WinFault) : State :=
  match s.window.fault with
  | none => ({ s with window.fault := some f }).raise causeWindowFault
  | some _ => { s with window.overflow := true }

/-! ## Completing a set of exchanges in one step -/

/-- Which exchanges complete, and with what. -/
abbrev Sel := Tag → Exchange → Option Completion

/-- The record after the completions: untouched, or COMPLETE. -/
def afterSel (sel : Sel) (t : Tag) (x : Exchange) : Exchange :=
  match sel t x with
  | none => x
  | some c => x.finish c

/-- The tags of a list whose exchange is selected, in the list's order. -/
def State.hits (s : State) (sel : Sel) (l : List Tag) : List Tag :=
  l.filter fun t => (s.xchg t).any fun x => (sel t x).isSome

/-- The stations of the selected exchanges that end with the uncertain flag (R17), in creation order, owner by owner. The
manual does not say in which order the stations of one channel's cancellation join the census list (log entry 31). -/
def State.uncertainStns (s : State) (sel : Sel) : List Stn :=
  let l := s.table.winList ++ s.table.listAList ++ s.table.listBList ++ s.table.intList
  l.filterMap fun t =>
    match s.xchg t with
    | none => none
    | some x =>
      if (sel t x).isSome && x.uncertain then
        match x.dest with
        | .station n => some n
        | .broadcast => none
      else none

/-- The records of a channel queue whose exchange has completed are finished (R136). -/
def finishRecs (ts : List Tag) (q : List QRec) : List QRec :=
  q.map fun r =>
    match r.tag with
    | some t => if ts.contains t && !r.written && !r.faulted then { r with finished := true } else r
    | none => r

/-- Every selected exchange completes (R15), and its record in a channel queue is finished (R136). What the owners do with
the completions of a step is `State.handOver`. -/
def State.completeBatch (s : State) (sel : Sel) : State :=
  { s.mapX (afterSel sel) with
    chanA.queue := finishRecs (s.hits sel s.table.listAList) s.chanA.queue
    chanB.queue := finishRecs (s.hits sel s.table.listBList) s.chanB.queue }

/-- The completions, and then the directory learns of each unknown outcome (R17, R126). -/
def State.complete (s : State) (sel : Sel) : State :=
  (s.uncertainStns sel).foldl State.noteUnknown (s.completeBatch sel)

/-! ## The owners take the completions of a step (R15, R22, R157, R159, R161) -/

/-- The exchange in the record is COMPLETE and was not in `before`: this step has completed it. -/
def State.newlyDone (s before : State) (t : Tag) : Bool :=
  (s.xchg t).any (·.state == .complete) && !(before.xchg t).any (·.state == .complete)

/-- What the window does with a result: a failed write or read is entered in the fault record (R157, R159), and a read
makes the hold READY and starts the hold timer (R159). -/
def State.windowTake (s : State) (t : Tag) (x : Exchange) (n : Stn) (r : Result) : State :=
  let reg := x.regAddr.getD 0#16
  let entry (d : Direction) : WinFault :=
    { station := n, reg := reg, dir := d, status := r.status, detail := r.detail, uncertain := r.uncertain }
  match x.kind with
  | .read =>
    let s1 := { s with window.hold := .ready n reg t, window.timer := some (s.regs.windowHold * Config.gapUnit) }
    if r.status.isFailure then s1.enterWindowFault (entry .read) else s1
  | .write => if r.status = .ok then s else s.enterWindowFault (entry .write)
  | .signal | .bcastWrite | .census | .fetchEvent | .purge | .stationReset => s

/-- The window takes one of its completed exchanges. -/
def State.windowTakeTag (s : State) (t : Tag) : State :=
  match s.xchg t with
  | none => s
  | some x =>
    match x.dest, x.result with
    | .station n, some r => s.windowTake t x n r
    | .station _, none | .broadcast, _ => s

/-- An exchange its owner retires at once on completion: a window write, and every INTERNAL exchange (R22). -/
def Exchange.retiredAtOnce (x : Exchange) : Bool :=
  match x.owner with
  | .internal => true
  | .window => x.kind == .write
  | .list _ => false

/-- The step has completed an exchange that its owner retires at once. -/
def State.retiresNow (s before : State) (t : Tag) : Bool :=
  s.newlyDone before t && (s.xchg t).any Exchange.retiredAtOnce

/-- The owners take what the step that began in `before` has completed: the tags of a channel's exchanges join the tail of
its completion list, and the window's results are taken, both in creation order whichever rule of the step completed them
(R15, R161), and then what R22 retires at once goes FREE. What the directory and the event unit do with an INTERNAL
result is stated with them. -/
def State.handOver (s before : State) : State :=
  let s1 := (s.table.winList.filter (s.newlyDone before)).foldl State.windowTakeTag s
  { s1 with
    table.xs := mapXs (fun t x => if s.retiresNow before t then none else some x) s.table.xs
    table.winList := s.table.winList.filter fun t => !s.retiresNow before t
    table.intList := s.table.intList.filter fun t => !s.retiresNow before t
    table.complA := s.table.complA ++ s.table.listAList.filter (s.newlyDone before)
    table.complB := s.table.complB ++ s.table.listBList.filter (s.newlyDone before) }

/-- The end of a step that can complete exchanges: the owners take them, and the deferred counts follow (R15, R108). -/
def State.endStep (s before : State) : State := (s.handOver before).recount

/-! ## Stopping, cancelling and halting a channel -/

/-- The channel leaves RUNNING: the pending descriptor is dropped, the wait entry withdrawn, and a fetch under way will
be dropped when it ends (R137). -/
def State.leaveRunning (s : State) (c : Chan) : State :=
  (s.withdraw c).modChan c fun ch =>
    { ch with
      pendingDesc := none
      portOp := match ch.portOp with
        | some (.fetch _) => some (.fetch true)
        | other => other }

/-- A NOP that has not finished finishes at once with status CANCELLED (R142). -/
def cancelNops (q : List QRec) : List QRec :=
  q.map fun r => if r.tag = none ∧ !r.finished ∧ !r.faulted then { r with finished := true, status := some .cancelled } else r

/-- The exchanges both columns of R20 complete CANCELLED: ISSUE phase, WAITING or BACKOFF. -/
def cancelSel (c : Chan) : Sel := fun _ x =>
  if x.owner = .list c ∧ x.phase = .issue ∧ (x.state = .waiting ∨ x.state = .backoff) then some (Completion.plain .cancelled)
  else none

/-- The stations of READs that complete CANCELLED with an attempts count above 0 and a capacity of 1 to 3: a DEFER may
have gone unheard (R20, R38). -/
def State.cancelledReadStns (s : State) (c : Chan) : List Stn :=
  (s.table.creation (.list c)).filterMap fun t =>
    match s.xchg t with
    | none => none
    | some x =>
      match x.dest with
      | .broadcast => none
      | .station n =>
        if (cancelSel c t x).isSome && x.kind == .read && decide (0 < x.attempts) && decide (1 ≤ (s.entry n).capacity)
        then some n else none

/-- The ISSUE rows of R20, which the two columns share. -/
def State.cancelIssue (s : State) (c : Chan) : State :=
  let s1 := (s.cancelledReadStns c).foldl State.setPurge (s.complete (cancelSel c))
  s1.mapX fun _ x => if x.owner = .list c then x.markFill .cancelled else x

/-- The COLLECT rows of the LIST_ABORT column of R20. -/
def abortCollect (c : Chan) (x : Exchange) : Exchange :=
  if x.owner = .list c ∧ x.phase = .collect then
    match x.state with
    | .parked | .waiting | .backoff => x.toAbandon { status := .cancelled, fault := none }
    | .onLine => { x with expired := true }
    | .filling | .complete | .draining => x
  else x

/-- The cancellation returns to none when the channel has no exchange left (R148, R20; log entry 16). -/
def State.settleCancel (s : State) (c : Chan) : State :=
  if s.anyX (fun x => x.owner == .list c) then s else s.modChan c fun ch => { ch with cancel := .none }

/-- Nothing of the channel is left in flight: no non-FREE exchange, no port operation, every record written or faulted
(R149). -/
def State.nothingInFlight (s : State) (c : Chan) : Bool :=
  (!s.anyX fun x => x.owner == .list c) && (s.chan c).portOp.isNone
    && (s.chan c).queue.all fun r => r.written || r.faulted

/-- A STOPPING channel with nothing in flight empties its queue, enters HALTED and raises LIST_x_HALT (R149). -/
def State.haltIfDone (s : State) (c : Chan) : State :=
  if (s.chan c).state = .stopping ∧ s.nothingInFlight c then
    (s.modChan c fun ch => { ch with state := .halted, queue := [], cancel := .none }).raise (causeHalt c)
  else s

/-- An ABORTING channel with nothing in flight empties its queue and enters IDLE (R151). -/
def State.endAbortIfDone (s : State) (c : Chan) : State :=
  if (s.chan c).state = .aborting ∧ s.nothingInFlight c then
    s.modChan c fun ch => { ch with state := .idle, queue := [], haltCause := none, cancel := .none }
  else s

/-- Entry to STOPPING (R148): the state and the halt cause, RUNNING is left, NOPs finish, the cancellation STOP acts on
the channel's exchanges, and a channel with nothing in flight halts in the same step (R149). A fenced NOP that has not
finished by then finishes CANCELLED, also where this step has completed the last exchange it awaited (log entry 40). -/
def State.enterStopping (s : State) (c : Chan) (cause : HaltCause) : State :=
  let s1 :=
    (s.leaveRunning c).modChan c fun ch =>
      { ch with state := .stopping, haltCause := some cause, cancel := .stop, queue := cancelNops ch.queue }
  ((s1.cancelIssue c).settleCancel c).haltIfDone c

/-- RUNNING or PAUSED: the states in which a failure stops the channel (R148). -/
def ChanState.isLive : ChanState → Bool
  | .running | .paused => true
  | .idle | .stopping | .halted | .aborting => false

/-- The status a finished record ended in: its own, or its exchange's result (R136, R148). -/
def State.recStatus (s : State) (r : QRec) : Option Status :=
  match r.tag with
  | none => r.status
  | some t => (s.xchg t).bind fun x => x.result.map (·.status)

/-- Some record is a STOP_ON_FAIL failure: finished, not yet written, and ended in a failing status (R148). -/
def State.hasFailure (s : State) (c : Chan) : Bool :=
  (s.chan c).queue.any fun r =>
    r.stopOnFail && r.finished && !r.written && !r.faulted && (s.recStatus r).any Status.isFailure

/-- A STOP_ON_FAIL failure in RUNNING or PAUSED makes the channel STOPPING with cause FAILED (R148). -/
def State.stopOnFailure (s : State) (c : Chan) : State :=
  if (s.chan c).state.isLive && s.hasFailure c then s.enterStopping c .failed else s

/-- Both channels react to the completions of a step. -/
def State.stopOnFailures (s : State) : State := (s.stopOnFailure .A).stopOnFailure .B

/-! ## A station declared SILENT, or taken as restarted -/

/-- The exchanges a move to SILENT completes: every unfinished one to the station that is not FILLING and not a CENSUS
(R19). -/
def lostSel (n : Stn) : Sel := fun _ x =>
  if x.dest = .station n ∧ x.live ∧ x.state ≠ .filling ∧ x.kind ≠ .census then some (Completion.plain .stationLost)
  else none

/-- The station is declared SILENT (R39): its state, the completions STATION_LOST of R19 with the fill end marks, and
its flags, hold timer and recovery record. -/
def State.declareSilent (s : State) (n : Stn) : State :=
  let s1 :=
    ((s.moveTo n .silent).modEntry n fun e =>
      { e with eventPending := false, purgeNeeded := false, keptReady := false, holdTimer := none }).dropRecovery n
  let s2 := s1.complete (lostSel n)
  let s3 := s2.mapX fun _ x => if x.dest = .station n then x.markFill .stationLost else x
  s3.stopOnFailures

/-- The exchanges a restart completes: unfinished, in the COLLECT or ABANDON phase, other than the one the reply belongs
to (R19, R128). -/
def restartSel (n : Stn) (own : Tag) : Sel := fun t x =>
  if x.dest = .station n ∧ x.isDeferred ∧ t ≠ own then some (Completion.plain .stationRestarted) else none

end Sys2Proof.Machine
end

