-- ==== Sys2Proof/Machine/ListOps.lean ====
section
/-! DEFINITION. The list engine's shared operations: taking a descriptor in, granting its units, choosing a port operation,
retiring records, and memory faults (chapter 8). -/

namespace Sys2Proof.Machine

/-- A queue record for a descriptor (R136). -/
def Desc.record (d : Desc) (tag : Option Tag) (status : Option Status) (finished : Bool) : QRec where
  addr := d.addr
  next := if d.last then none else some d.next
  irq := d.irq
  stopOnFail := d.stopOnFail
  tag := tag
  status := status
  finished := finished
  written := false
  faulted := false
  buffer := d.buffer

/-- A descriptor is taken in (R136, R139): its record joins the tail of the queue; NEXT_ADDRESS goes on, or, with LAST,
stays and the end-of-list mark is set. -/
def State.takeIn (s : State) (c : Chan) (d : Desc) (r : QRec) : State :=
  s.modChan c fun ch =>
    { ch with
      queue := ch.queue ++ [r], pendingDesc := none,
      next := if d.last then d.addr else d.next,
      endMark := ch.endMark || d.last }

/-- Creation of a descriptor's exchange (R140). The quota check passes while the channel keeps its queue below 10
records; were it refused, the channel would hold the descriptor (R2). -/
def State.createFor (s : State) (c : Chan) (d : Desc) (k : Kind) : State :=
  match s.create (d.request c k) with
  | some (t, s1) => s1.takeIn c d (d.record (some t) none false)
  | none => s.modChan c fun ch => { ch with pendingDesc := some d }

/-- The station of a descriptor takes no new exchange: VACANT, SILENT or DISABLED (R26, R140). -/
def State.notPresent (s : State) (d : Desc) : Bool :=
  match d.dest with
  | .station n => !(s.entry n).state.isOpen
  | .broadcast => false

/-- The grant (R140): the exchange is created, or the descriptor is taken in NOT_PRESENT and its units return. -/
def State.grant (s : State) (c : Chan) (d : Desc) : State :=
  match d.kind.kind with
  | none => s
  | some k =>
    if s.notPresent d then (s.takeIn c d (d.record none (some .notPresent) true)).stopOnFailure c
    else s.createFor c d k

/-- The channel asks for the units of its descriptor (R13, R140): granted at once, or its entry joins the wait list. -/
def State.askUnits (s : State) (c : Chan) (d : Desc) : State :=
  let k := d.units
  if k = 0 ∨ (s.table.waitList = [] ∧ k ≤ (s.freeUnits (.list c)).length) then s.grant c d
  else
    let s1 := s.modChan c fun ch => { ch with pendingDesc := some d }
    { s1 with table.waitList := s1.table.waitList ++ [(c, k)] }

/-- A NOP that has not finished (R142). -/
def QRec.openNop (r : QRec) : Bool := r.tag.isNone && !r.finished && !r.faulted

/-- A record whose status word an intake status write is due to write (R138). -/
def QRec.statusDue (r : QRec) : Bool := r.tag.isNone && r.finished && !r.written && !r.faulted

/-- The channel's FILLING exchange, whose fill is due (R141). -/
def State.fillingTag (s : State) (c : Chan) : Option Tag :=
  (s.table.creation (.list c)).find? fun t => (s.xchg t).any fun x => x.state == .filling

/-- A RUNNING channel may fetch its next descriptor (R139). -/
def Channel.mayFetch (ch : Channel) : Bool :=
  ch.state == .running && !ch.endMark && decide (ch.queue.length < Config.listQuota) && ch.pendingDesc.isNone
    && !ch.queue.any QRec.openNop

/-- The operation a channel with none under way starts next: the drain of the head of its completion list, else the
intake operation now due (R138). -/
def State.nextOp (s : State) (c : Chan) : Option PortOp :=
  match s.table.compl c with
  | t :: _ => some (.drain t)
  | [] =>
    match s.fillingTag c with
    | some t => some (.fill t)
    | none =>
      if (s.chan c).queue.any QRec.statusDue then some .statusWrite
      else if (s.chan c).mayFetch then some (.fetch false)
      else none

/-- The operation starts. A drain takes its tag from the completion list and the exchange becomes DRAINING (R143). -/
def State.startOp (s : State) (c : Chan) (op : PortOp) : State :=
  let s1 := { (s.modChan c fun ch => { ch with portOp := some op }) with portLast := c }
  match op with
  | .drain t =>
    let s2 := { s1 with table := s1.table.setCompl c ((s1.table.compl c).filter (· != t)) }
    match s2.xchg t with
    | some x => s2.setXchg t (some { x with state := .draining })
    | none => s2
  | .fetch _ | .fill _ | .statusWrite => s1

/-- What a run of retirements leaves: the channel, whether a retired record had IRQ, and whether it had LAST. -/
structure Retired where
  chan : Channel
  noted : Bool
  last : Bool
  deriving DecidableEq, Repr

/-- Records retire from the head while the head is written (R144). -/
def retireFrom (ch : Channel) : List QRec → Retired
  | [] => { chan := { ch with queue := [] }, noted := false, last := false }
  | r :: rs =>
    if r.written then
      let out := retireFrom { ch with retired := ch.retired + 1#32, head := r.next.getD r.addr } rs
      { chan := out.chan, noted := out.noted || r.irq, last := out.last || r.next.isNone }
    else { chan := { ch with queue := r :: rs }, noted := false, last := false }

/-- The channel retires what it can, raises LIST_x_NOTE, and goes IDLE when LAST has retired in RUNNING or PAUSED
(R144). -/
def State.retire (s : State) (c : Chan) : State :=
  let out := retireFrom (s.chan c) (s.chan c).queue
  let ch := if out.last && (s.chan c).state.isLive then { out.chan with state := .idle, cancel := .none } else out.chan
  let s1 := s.setChan c ch
  if out.noted then s1.raise (causeNote c) else s1

/-- The record of a tag that is not yet written or faulted. -/
def Channel.recOf (ch : Channel) (t : Tag) : Option QRec :=
  ch.queue.find? fun r => r.tag == some t && !r.written && !r.faulted

/-- The first record whose status write is due. -/
def Channel.dueRec (ch : Channel) : Option QRec := ch.queue.find? QRec.statusDue

/-- Change the records with a property. -/
def Channel.mapQ (ch : Channel) (p : QRec → Bool) (f : QRec → QRec) : Channel :=
  { ch with queue := ch.queue.map fun r => if p r then f r else r }

/-- Change the first record of a queue with a property. -/
def mapFirst (p : QRec → Bool) (f : QRec → QRec) : List QRec → List QRec
  | [] => []
  | r :: rs => if p r then f r :: rs else r :: mapFirst p f rs

/-- Change the record whose status write is under way: the first that is due. -/
def Channel.mapDue (ch : Channel) (f : QRec → QRec) : Channel := { ch with queue := mapFirst QRec.statusDue f ch.queue }

/-- The record of a tag, as a property. -/
def QRec.isOf (t : Tag) (r : QRec) : Bool := r.tag == some t && !r.written && !r.faulted

/-- The address of a descriptor's status word (R177). -/
def statusAddr (desc : Word) : Word := desc + 0x14#32

/-- The byte writes of a drain: the reply length's bytes of a READ completed OK or SHORT (R143). -/
def drainData (x : Exchange) (res : Result) (buffer : Word) (m : List Host.Cell) : List (Word × Byte) :=
  if x.kind = .read ∧ !res.status.isFailure then
    (List.range res.replyLength).map fun i => (buffer + BitVec.ofNat 32 i, readUnit x.units m i)
  else []

/-- The first memory fault since LIST_START is recorded (R150). -/
def Channel.noteMemFault (ch : Channel) (op : FaultOp) (desc address : Word) : Channel :=
  match ch.memFault with
  | none => { ch with memFault := some { op := op, desc := desc, address := address } }
  | some _ => ch

/-- What a memory fault does to the channel's state (R149, R150). -/
def State.memFaultStops (s : State) (c : Chan) : State :=
  match (s.chan c).state with
  | .running | .paused => s.enterStopping c .memoryFault
  | .stopping => s.modChan c fun ch => { ch with haltCause := some .memoryFault }
  | .idle | .halted | .aborting => s

end Sys2Proof.Machine
end

