-- ==== Sys2Proof/Machine/Creations.lean ====
section
/-! DEFINITION. The creations the part makes of itself: census, recovery, event fetch, payload grant (R29, R36, R140,
R164). -/

namespace Sys2Proof.Machine

/-- A request of the directory or the event unit. -/
def internalRequest (k : Kind) (n : Stn) : Request where
  owner := .internal
  kind := k
  dest := .station n
  regAddr := none
  length := none
  signalOp := none
  fence := false

/-- A census-ready station (R29). -/
def State.censusReady (s : State) (n : Stn) : Bool :=
  match (s.entry n).state with
  | .vacant | .silent | .present | .suspect => true
  | .recovering => (s.entry n).holdTimer.isNone
  | .held | .resync | .disabled => false

/-- CENSUS_CREATION (R29): with the line not OFF and no CENSUS record in use, the first census-ready station leaves the
list and its census is created. -/
def execCensusCreation (s : State) : Host.Outcome State Fault Refusal :=
  if s.line.state = .off then .next s
  else
    match s.dir.census.find? s.censusReady with
    | none => .next s
    | some n =>
      match s.create (internalRequest .census n) with
      | none => .next s
      | some (_, s1) => .next { s1.recount with dir.census := s1.dir.census.filter (· != n) }

/-- The recovery record's station admits it (R36). -/
def State.recoveryAdmitted (s : State) (r : Stn × RecAction) : Bool :=
  match r.2, (s.entry r.1).state with
  | .purge, .resync | .purge, .present | .purge, .suspect => (s.entry r.1).deferred == 0
  | .reset, .present | .reset, .suspect | .reset, .resync | .reset, .recovering => true
  | _, _ => false

/-- The exchange kind of a recovery action. -/
def RecAction.kind : RecAction → Kind
  | .purge => .purge
  | .reset => .stationReset

/-- RECOVERY_CREATION (R36): with the line not OFF and the recovery slot free, the first admitted record leaves the list
and its exchange is created. -/
def execRecoveryCreation (s : State) : Host.Outcome State Fault Refusal :=
  if s.line.state = .off then .next s
  else
    match s.dir.recovery.find? s.recoveryAdmitted with
    | none => .next s
    | some r =>
      match s.create (internalRequest r.2.kind r.1) with
      | none => .next s
      | some (_, s1) => .next { s1.recount with dir.recovery := s1.dir.recovery.filter fun r' => r'.1 != r.1 }

/-- The station's event may be fetched now (R164). -/
def State.fetchable (s : State) (n : Stn) : Bool :=
  let e := s.entry n
  let fetches := s.countX fun x => x.kind == .fetchEvent
  e.eventPending && (e.state == .present || e.state == .suspect)
    && !(s.anyX fun x => x.kind == .fetchEvent && x.dest == .station n)
    && decide (fetches < Config.fetchQuota)
    && decide (s.events.queue.length + fetches < Config.eventPlaces)

/-- The stations in address order after the last-served one, going from 30 round to 1 (R164). -/
def stnsAfter (n : Stn) : List Stn := (allStns.filter fun m => decide (n < m)) ++ allStns.filter fun m => decide (m ≤ n)

/-- One look of the Event Unit: the next station that qualifies is served (R164). -/
def State.fetchOne (s : State) : State :=
  match (stnsAfter s.events.lastServed).find? s.fetchable with
  | none => s
  | some n =>
    match s.create (internalRequest .fetchEvent n) with
    | none => s
    | some (_, s1) => { s1 with events.lastServed := n }

/-- FETCH_EVENT_CREATION (R164): a second station that still qualifies is served in the same step. -/
def execFetchEventCreation (s : State) : Host.Outcome State Fault Refusal := .next s.fetchOne.fetchOne.recount

/-- PAYLOAD_GRANT (R13, R140): the head of the payload wait list is granted its units when enough are free, leaves the
list, and its descriptor's exchange is created or it is taken in NOT_PRESENT. -/
def execPayloadGrant (s : State) : Host.Outcome State Fault Refusal :=
  match s.table.waitList with
  | [] => .next s
  | (c, k) :: rest =>
    if k ≤ (s.freeUnits (.list c)).length then
      let s1 := { s with table.waitList := rest }
      match (s.chan c).pendingDesc with
      | some d => .next ((s1.grant c d).endStep s)
      | none => .next s1
    else .next s

end Sys2Proof.Machine
end

