-- ==== Sys2Proof/Machine/EventCommands.lean ====
section
/-! DEFINITION. The event queue commands, WINDOW_CLEAR_FAULT and a COMMAND write with an unknown code (R166, R161, R173). -/

namespace Sys2Proof.Machine

/-- EVENT_POP (R166): removes the head entry; refused EMPTY when there is none. -/
def execEventPop (f : CmdFields) (s : State) : Host.Outcome State Fault Refusal :=
  match s.events.queue with
  | [] => .next (s.command .empty 0x18 f)
  | _ :: q => .next (({ s with events.queue := q }).command .accepted 0x18 f)

/-- EVENT_FLUSH (R166): removes every entry. -/
def execEventFlush (f : CmdFields) (s : State) : Host.Outcome State Fault Refusal :=
  .next (({ s with events.queue := [] }).command .accepted 0x19 f)

/-- WINDOW_CLEAR_FAULT (R161): empties the record and clears the overflow flag. -/
def execWindowClearFault (f : CmdFields) (s : State) : Host.Outcome State Fault Refusal :=
  .next (({ s with window.fault := none, window.overflow := false }).command .accepted 0x1D f)

/-- UNKNOWN_COMMAND (R173): refused UNKNOWN; nothing changes but COMMAND_STATUS. -/
def execUnknownCommand (code : BitVec 8) (f : CmdFields) (s : State) : Host.Outcome State Fault Refusal :=
  .next (s.command .unknown code.toNat f)

end Sys2Proof.Machine
end

