-- ==== Sys2Proof/Machine/LineOps.lean ====
section
/-! DEFINITION. The moves of the line record that several commands share: entering GUARD, BREAK and IDLE, and last
fault. -/

namespace Sys2Proof.Machine

/-- GUARD is entered: the unit reads GUARD_TIME, and the job has ended (R73). -/
def State.enterGuard (s : State) : State :=
  { s with
    line.state := .guard, line.job := none, line.txFrame := none, line.timer := some s.regs.guardTime,
    line.settling := false, line.contentionWait := false, line.breakKind := none, line.breakCause := none }

/-- BREAK is entered: kind and cause, and the line-fault count becomes 0 (R76). -/
def State.enterBreak (s : State) (k : BreakKind) (cause : BreakCause) : State :=
  { s with
    line.state := .break, line.job := none, line.txFrame := none, line.breakKind := some k,
    line.breakCause := some cause, line.faultCount := 0,
    line.timer := some (match k with | .short => Config.shortBreak | .long => Config.longBreak),
    line.settling := false, line.contentionWait := false }

/-- IDLE is entered: LINK_READY is raised if ready pending is set (R73). -/
def State.enterIdle (s : State) : State :=
  let s1 := { s with line.state := .idle, line.timer := none, line.readyPending := false }
  if s.line.readyPending then s1.raise causeLinkReady else s1

/-- Record a fault outcome as last fault (R72, R82). -/
def State.noteFault (s : State) (k : FaultKind) (d : Dest) (t : Tag) : State :=
  { s with line.lastFault := some { kind := k, station := destField d, tag := t } }

end Sys2Proof.Machine
end

