-- ==== Sys2Proof/Machine/Outcome.lean ====
section
/-! DEFINITION. What an attempt outcome does (R9, R104, R109 to R133, R165): the move of the exchange, and the steps of the
directory in the order of R117. -/

namespace Sys2Proof.Machine

/-! ## Step 1: the exchange (R9, R106, R109, R110, R113, R114, R116, R118 to R122) -/

/-- What an outcome makes of the exchange: completion, with a flag that says whether the station's purge-needed mark is
called for (R107, R114, R38), or the record it moves to. -/
inductive Move where
  | complete (c : Completion) (purge : Bool)
  | stays (x : Exchange)
  deriving DecidableEq, Repr

/-- The move of an exchange that completes with a fault kind. -/
def faultCompletion (st : Status) (k : FaultKind) : Completion :=
  { status := st, detail := some (.fault k), replyLength := 0, repeated := false }

/-- Completion with the carried status (R16, R113, R114). -/
def carriedCompletion (x : Exchange) : Completion :=
  match x.carried with
  | some c => { status := c.status, detail := c.fault.map .fault, replyLength := 0, repeated := false }
  | none => Completion.plain .deferExpired

/-- Entry to BACKOFF with the gap in BT (R118, R119). -/
def Exchange.toBackoff (x : Exchange) (bt : Nat) : Exchange := { x with state := .backoff, backoff := some bt }

/-- The status of a DATA reply of m bytes: OK for the full length, SHORT for fewer (R106, R109). -/
def dataCompletion (x : Exchange) (r : Reply) : Completion :=
  { status := if r.payload.length = x.length.getD 0 then .ok else .short, detail := none,
    replyLength := r.payload.length, repeated := r.repeated }

/-- The carried status an expired mark gives: CANCELLED when the channel has been aborted, else DEFER_EXPIRED (R112). -/
def expiredCarried (aborted : Bool) : Carried :=
  { status := if aborted then .cancelled else .deferExpired, fault := none }

/-- BUSY (R9, R119): the busy count rises, attempts become 0, then BACKOFF or BUSY_EXHAUSTED. -/
def busyMove (regs : Regs) (x : Exchange) : Move × Exchange :=
  let x1 := { x with busyCount := x.busyCount + 1, attempts := 0 }
  if x1.busyCount < regs.busyLimit then (.stays (x1.toBackoff (regs.busyGap * Config.gapUnit)), x1)
  else (.complete (Completion.plain .busyExhausted) false, x1)

/-- A retried fault in the ISSUE phase when the retries are used up (R122). -/
def exhaustedIssue (capacity : Nat) (x : Exchange) (k : FaultKind) : Move :=
  if x.kind = .read ∧ 1 ≤ capacity then .stays (x.toAbandon { status := .retryExhausted, fault := some k })
  else .complete (faultCompletion .retryExhausted k) false

/-- A retried fault in any phase (R109, R110, R113, R114, R118, R122). -/
def lostMove (regs : Regs) (capacity : Nat) (aborted : Bool) (x : Exchange) (k : FaultKind) : Move :=
  if x.phase = .collect ∧ x.expired then .stays (x.toAbandon (expiredCarried aborted))
  else if x.attempts < regs.retryLimit + 1 then
    .stays (x.toBackoff (regs.retryGap * x.attempts * Config.gapUnit))
  else
    match x.phase with
    | .issue => exhaustedIssue capacity x k
    | .collect => .stays (x.toAbandon { status := .retryExhausted, fault := some k })
    | .abandon => .complete (carriedCompletion x) true

/-- OVERRUN or UNEXPECTED in any phase (R109, R113, R114, R120), with the purge-needed cases of R38. -/
def soundFaultMove (capacity : Nat) (aborted : Bool) (x : Exchange) (k : FaultKind) : Move :=
  match x.phase with
  | .issue =>
    .complete (faultCompletion .protocol k) (x.kind == .read && decide (1 ≤ capacity) && decide (1 < x.attempts))
  | .collect =>
    if x.expired then .stays (x.toAbandon (expiredCarried aborted))
    else .complete (faultCompletion .protocol k) (decide (1 ≤ capacity))
  | .abandon => .complete (carriedCompletion x) true

/-- An accepted reply (R106, R107, R109, R113, R116, R119, R120): the move, and the record before it. A REFUSE or a last BUSY
leaves the repeat flag of the result no (log entry 39). -/
def replyMove (regs : Regs) (capacity : Nat) (aborted : Bool) (x : Exchange) (r : Reply) : Move × Exchange :=
  match r.kind with
  | .busy => busyMove regs x
  | .refuse =>
    (.complete { status := .refused, detail := some (.reason r.reason), replyLength := 0, repeated := false } false, x)
  | .data => (.complete (dataCompletion x r) false, x)
  | .defer =>
    if 1 ≤ capacity then (.stays (x.toCollect (regs.deferDeadline * Config.kbt)), x)
    else (.complete (Completion.plain .protocol) true, x)
  | .notReady =>
    if x.expired then (.stays (x.toAbandon (expiredCarried aborted)), x)
    else (.stays { x with state := .parked, attempts := 0 }, x)
  | .unknownTag =>
    if x.phase = .abandon then (.complete (carriedCompletion x) false, x)
    else if x.expired then (.stays (x.toAbandon (expiredCarried aborted)), x)
    else (.complete (Completion.plain .protocol) false, x)
  | .accept =>
    if x.phase = .abandon then (.complete (carriedCompletion x) false, x)
    else (.complete { status := .ok, detail := none, replyLength := 0, repeated := r.repeated } false, x)
  | .ident | .event =>
    (.complete { status := .ok, detail := none, replyLength := r.payload.length, repeated := r.repeated } false, x)
  | .noEvent => (.complete { status := .ok, detail := none, replyLength := 0, repeated := r.repeated } false, x)

/-- The replies that clear the unanswered mark: ACCEPT, BUSY or REFUSE for WRITE and SIGNAL, EVENT, NO_EVENT or BUSY for
FETCH_EVENT (R8). -/
def clearsUnanswered (k : Kind) (r : ReplyKind) : Bool :=
  match k with
  | .write | .signal => [ReplyKind.accept, .busy, .refuse].contains r
  | .fetchEvent => [ReplyKind.event, .noEvent, .busy].contains r
  | .read | .bcastWrite | .census | .purge | .stationReset => false

/-- The record with the epoch seen and the unanswered mark as the outcome leaves them (R8, R9). -/
def heard (x : Exchange) (v : Verdict) : Exchange :=
  match v with
  | .reply r =>
    { x with epochSeen := some r.head.epoch, unanswered := x.unanswered && !clearsUnanswered x.kind r.kind }
  | .sound _ h => { x with epochSeen := some h.epoch }
  | .lost _ | .sent => x

/-- The move an outcome chooses, and the record as it stands at the move (R9). -/
def outcomeMove (regs : Regs) (capacity : Nat) (aborted : Bool) (x : Exchange) (v : Verdict) : Move × Exchange :=
  match v with
  | .reply r => replyMove regs capacity aborted x r
  | .sound k _ => (soundFaultMove capacity aborted x k, x)
  | .lost k => (lostMove regs capacity aborted x k, x)
  | .sent => (.complete (Completion.plain .ok) false, x)

/-- The cancellation of the channel reaches the exchange once more at the end of its attempt (R20): an ISSUE exchange in
BACKOFF completes CANCELLED, with the purge-needed case of R38, and under an abort one in the COLLECT phase goes to the
ABANDON phase. -/
def cancelMove (cancel : Cancel) (capacity : Nat) (m : Move × Exchange) : Move × Exchange :=
  match m with
  | (.complete c p, x) => (.complete c p, x)
  | (.stays y, x) =>
    if cancel ≠ .none ∧ y.phase = .issue ∧ y.state = .backoff then
      (.complete (Completion.plain .cancelled) (y.kind == .read && decide (0 < y.attempts) && decide (1 ≤ capacity)), y)
    else if cancel = .abort ∧ y.phase = .collect then
      (.stays (y.toAbandon { status := .cancelled, fault := none }), y)
    else (.stays y, x)

/-- The cancellation in force for an owner: a channel's, none for the others. -/
def State.cancelOf (s : State) : Owner → Cancel
  | .list c => (s.chan c).cancel
  | .window | .internal => .none

/-- The recorded deferral capacity of a destination. -/
def State.capacityOf (s : State) : Dest → Nat
  | .station n => (s.entry n).capacity
  | .broadcast => 0

/-- The move of the exchange `x`, taken together (R9, R20). -/
def State.moveOf (s : State) (x : Exchange) (v : Verdict) : Move × Exchange :=
  let cancel := s.cancelOf x.owner
  let cap := s.capacityOf x.dest
  cancelMove cancel cap (outcomeMove s.regs cap (cancel == .abort) (heard x v) v)

/-- The payload of an accepted reply goes into the exchange's units from byte 0 (R14, R72). -/
def State.keepPayload (s : State) (x : Exchange) (v : Verdict) : State :=
  match v with
  | .reply r => { s with store := writeUnits x.units 0 r.payload s.store }
  | .sound _ _ | .lost _ | .sent => s

/-- Step 1 of R117: the record is moved or completed, and the channels react to a completion. R148 does not say where in
the steps of R117 a STOP_ON_FAIL failure stops its channel: here it is at the completion itself (log entry 33). -/
def State.applyMove (s : State) (t : Tag) (m : Move × Exchange) : State :=
  match m with
  | (.stays y, _) => s.setXchg t (some y)
  | (.complete c _, y) =>
    ((s.setXchg t (some y)).complete fun t' _ => if t' = t then some c else none).stopOnFailures

/-! ## Steps 2 to 7: the directory -/

/-- The epoch and attention flags of a sound reply (R71). -/
def Verdict.head : Verdict → Option ReplyHead
  | .reply r => some r.head
  | .sound _ h => some h
  | .lost _ | .sent => none

/-- The reply confirms a non-idempotent request (R125). -/
def confirms (k : Kind) (v : Verdict) : Bool :=
  match v with
  | .reply r =>
    match k with
    | .write | .signal => r.kind == .accept
    | .fetchEvent => r.kind == .event || r.kind == .noEvent
    | .read | .bcastWrite | .census | .purge | .stationReset => false
  | .sound _ _ | .lost _ | .sent => false

/-- The reply shows a restart: the recorded epoch is present and differs (R127). -/
def State.showsRestart (s : State) (n : Stn) (v : Verdict) : Bool :=
  match v.head, (s.entry n).epoch with
  | some h, some e => h.epoch != e
  | _, _ => false

/-- The bit used of the exchange of case 2 (R129). An exchange that the outcome has just completed still counts, whoever
owns it. By R87 at most one record meets the case; in a state where more do, an unfinished one comes first, then the
reply's own, `own` (log entry 35). -/
def State.unsettledBit (s : State) (n : Stn) (own : Tag) : Option Bool :=
  let bit (p : Exchange → Bool) (t : Tag) : Option Bool :=
    (s.xchg t).bind fun x => if p x && x.unansweredAt n then x.seqUsed else none
  (allTags.findSome? (bit Exchange.live)).or ((bit (fun _ => true) own).or (allTags.findSome? (bit fun _ => true)))

/-- Step 2: a restart (R128, R129): the station's other deferred exchanges end, the epoch and the sequence bit are set,
and the station joins the change summary. `x` is the reply's own exchange as the attempt had it. The channels react to the
STATION_RESTARTED completions before the bit is chosen (log entry 33). -/
def State.takeRestart (s : State) (n : Stn) (own : Tag) (x : Exchange) (v : Verdict) : State :=
  if s.showsRestart n v then
    let s1 := (s.complete (restartSel n own)).stopOnFailures
    let bit :=
      if confirms x.kind v then !(x.seqUsed.getD false)
      else (s1.unsettledBit n own).getD false
    (s1.modEntry n fun e => { e with epoch := v.head.map (·.epoch), seqBit := bit }).noteChange n
  else s

/-- The identity an IDENT payload gives: class, revision, capacity with a value above 3 taken as 3, expected bit (R31,
R176). -/
structure Identity where
  cls : Byte
  revision : Byte
  capacity : Nat
  bit : Bool
  deriving DecidableEq, Repr

/-- Read an IDENT payload. -/
def identityOf (p : List Byte) : Identity where
  cls := p.getD 0 0#8
  revision := p.getD 1 0#8
  capacity := min 3 (p.getD 2 0#8).toNat
  bit := (p.getD 3 0#8).getLsbD 0

/-- The entry takes the identity, the expected bit, and last census OK (R31, R32). -/
def Entry.adopt (e : Entry) (i : Identity) : Entry :=
  { e with
    cls := some i.cls, revision := some i.revision, capacity := i.capacity, seqBit := i.bit, seqUncertain := false,
    lastCensus := some { status := .ok, stationFault := false } }

/-- A station comes in (R31). -/
def State.comesIn (s : State) (n : Stn) (ep : BitVec 4) (i : Identity) : State :=
  let e := s.entry n
  let s1 := s.modEntry n fun e => { e.adopt i with epoch := some ep }
  match e.state with
  | .recovering => (s1.modEntry n fun e => { e with keptReady := false }).moveTo n .present
  | .vacant =>
    if e.wasPresent then (s1.moveTo n .resync).placePurge n
    else (s1.modEntry n fun e => { e with wasPresent := true }).moveTo n .present
  | .present | .suspect | .held | .silent | .resync | .disabled => (s1.moveTo n .resync).placePurge n

/-- The IDENT of a station that is in (R32): adopted whole after a restart; otherwise checked against the entry, a
station fault where the bit or the identity does not agree. -/
def State.checkIdent (s : State) (n : Stn) (restarted : Bool) (i : Identity) : State :=
  let e := s.entry n
  let same := e.cls == some i.cls && e.revision == some i.revision && e.capacity == i.capacity
  if restarted then s.modEntry n fun e => e.adopt i
  else if same && (e.seqUncertain || e.seqBit == i.bit) then
    s.modEntry n fun e =>
      { e with seqBit := i.bit, seqUncertain := false, lastCensus := some { status := .ok, stationFault := false } }
  else
    (s.modEntry n fun e =>
      { e with
        seqBit := i.bit, seqUncertain := false, lastCensus := some { status := .protocol, stationFault := true } }).noteChange n

/-- The directory acts on an IDENT by the station's state (R31, R32). -/
def State.takeIdent (s : State) (n : Stn) (restarted : Bool) (ep : BitVec 4) (i : Identity) : State :=
  match (s.entry n).state with
  | .vacant | .silent | .recovering => s.comesIn n ep i
  | .present | .suspect | .held | .resync | .disabled => s.checkIdent n restarted i

/-- A census that completed without an IDENT, other than by a link reset (R33): last census, and a station whose
sequence-uncertain mark is set joins the list again in whatever state it is (R28, R126; log entry 34). That a RECOVERING
station becomes SILENT is `ownSilent`. -/
def State.censusFailed (s : State) (n : Stn) (st : CensusStatus) : State :=
  let s1 := s.modEntry n fun e => { e with lastCensus := some { status := st, stationFault := false } }
  if (s.entry n).seqUncertain then s1.joinCensus n else s1

/-- An accepted STATION_RESET (R131): RECOVERING with the hold timer loaded, the station's deferred exchanges end, bit 0,
no epoch, no purge needed. -/
def State.stationResetAccepted (s : State) (n : Stn) (own : Tag) : State :=
  let s1 := (s.complete (restartSel n own)).stopOnFailures
  (s1.modEntry n fun e =>
    { e with
      holdTimer := some (s.regs.resetHold * Config.kbt), seqBit := false, epoch := none, purgeNeeded := false }).moveTo n
    .recovering

/-- An accepted PURGE (R37): the mark is cleared, and a RESYNC station becomes PRESENT. -/
def State.purgeAccepted (s : State) (n : Stn) : State :=
  let s1 := s.modEntry n fun e => { e with purgeNeeded := false }
  if (s.entry n).state = .resync then s1.moveTo n .present else s1

/-- A FETCH_EVENT answered EVENT or NO_EVENT (R165): the entry is pushed, and the flag cleared. -/
def State.eventFetched (s : State) (n : Stn) (r : Reply) : State :=
  let s1 := s.modEntry n fun e => { e with eventPending := false }
  match r.kind with
  | .event =>
    let code : BitVec 16 := (r.payload.getD 1 0#8) ++ (r.payload.getD 0 0#8)
    { s1 with
      events.queue :=
        s1.events.queue ++ [{ station := n, epoch := r.head.epoch, code := code, detail := r.payload.drop 2 }] }
  | .noEvent | .accept | .data | .defer | .busy | .refuse | .notReady | .unknownTag | .ident => s1

/-- The part of the directory or the event unit that created an INTERNAL exchange acts on its completion (R31 to R33, R37,
R131, R165), after the epoch comparison (R117; log entry 11). -/
def State.ownerActs (s : State) (n : Stn) (own : Tag) (x : Exchange) (restarted : Bool) (m : Move) (v : Verdict) : State :=
  match m with
  | .stays _ => s
  | .complete c _ =>
    match x.kind, v with
    | .census, .reply r => s.takeIdent n restarted r.head.epoch (identityOf r.payload)
    | .census, _ => s.censusFailed n (if c.status = .retryExhausted then .retryExhausted else .protocol)
    | .purge, .reply _ => s.purgeAccepted n
    | .stationReset, .reply _ => s.stationResetAccepted n own
    | .fetchEvent, .reply r => if c.status = .ok then s.eventFetched n r else s
    | _, _ => s

/-- The exchange's own rule declares the station SILENT: a PURGE or STATION_RESET that did not end in ACCEPT (R37, R133),
a census of a RECOVERING station without an IDENT (R33). -/
def State.ownSilent (s : State) (n : Stn) (x : Exchange) (m : Move) (v : Verdict) : Bool :=
  match m, v with
  | .stays _, _ => false
  | .complete _ _, .reply _ => false
  | .complete _ _, _ =>
    match x.kind with
    | .purge | .stationReset => true
    | .census => (s.entry n).state == .recovering
    | .write | .read | .signal | .bcastWrite | .fetchEvent => false

/-- The outcome counts against the station: TIMEOUT, CRC, FRAMING, WRONG_STATION (R123). -/
def Verdict.counts : Verdict → Bool
  | .lost .timeout | .lost .crc | .lost .framing | .lost .wrongStation => true
  | .lost .contention | .lost .overrun | .lost .unexpected | .reply _ | .sound _ _ | .sent => false

/-- Step 3: the consecutive failures (R123) and the thresholds (R124), the move to SILENT apart: a sound reply sets the
count to 0 and returns a SUSPECT station to PRESENT; a counted failure raises it, and may make a PRESENT station
SUSPECT. -/
def State.countOutcome (s : State) (n : Stn) (v : Verdict) : State :=
  if v.head.isSome then
    let s1 := s.modEntry n fun e => { e with failures := 0 }
    if (s.entry n).state = .suspect then s1.moveTo n .present else s1
  else if v.counts then
    let k := min 15 ((s.entry n).failures + 1)
    let s1 := s.modEntry n fun e => { e with failures := k }
    if (s.entry n).state = .present ∧ k < s.regs.silentThreshold ∧ s.regs.suspectThreshold ≤ k then s1.moveTo n .suspect
    else s1
  else s

/-- A counted failure has brought a PRESENT, SUSPECT or HELD station to SILENT_THRESHOLD (R124); judged on the state that
`countOutcome` leaves. -/
def State.thresholdSilent (s : State) (n : Stn) (v : Verdict) : Bool :=
  let e := s.entry n
  v.counts && (e.state == .present || e.state == .suspect || e.state == .held)
    && decide (s.regs.silentThreshold ≤ e.failures)

/-- Step 4: the sequence bit after a confirming reply, unless the restart has set it (R117, R125). -/
def State.setSeqBit (s : State) (n : Stn) (x : Exchange) (restarted : Bool) (v : Verdict) : State :=
  if confirms x.kind v && !restarted then s.modEntry n fun e => { e with seqBit := !(x.seqUsed.getD false) } else s

/-- The move calls for the purge-needed mark (R38, R107, R114). -/
def Move.purges : Move → Bool
  | .complete _ p => p
  | .stays _ => false

/-- A READY sign from a station (R102): the PARKED exchanges of a known station become WAITING, the reply's own apart
(R104); a HELD or RECOVERING station keeps the mark. -/
def State.readySign (s : State) (n : Stn) (own : Option Tag) : State :=
  match (s.entry n).state with
  | .present | .suspect | .resync =>
    s.mapX fun t x =>
      if x.dest = .station n ∧ x.state = .parked ∧ some t ≠ own then { x with state := .waiting } else x
  | .held | .recovering => s.modEntry n fun e => { e with keptReady := true }
  | .vacant | .silent | .disabled => s

/-- An EVENT sign from a station (R103). -/
def State.eventSign (s : State) (n : Stn) : State :=
  match (s.entry n).state with
  | .present | .suspect | .resync | .held | .recovering => s.modEntry n fun e => { e with eventPending := true }
  | .vacant | .silent | .disabled => s

/-- Step 7: the attention flags of a sound reply are taken as signs (R104). -/
def State.takeAttention (s : State) (n : Stn) (own : Tag) (v : Verdict) : State :=
  match v.head with
  | none => s
  | some h =>
    let s1 := if h.attReady then s.readySign n (some own) else s
    if h.attEvent then s1.eventSign n else s1

/-- A census has been retired: CENSUS_DONE when the census list is then empty (R33). -/
def State.censusDone (s : State) (x : Exchange) (m : Move) : State :=
  match m with
  | .complete _ _ => if x.kind = .census ∧ s.dir.census = [] then s.raise causeCensusDone else s
  | .stays _ => s

/-- Steps 2 to 7 of R117 for an exchange to a station. `x` is the exchange as the attempt had it, `m` its move. -/
def State.directoryActs (s : State) (n : Stn) (own : Tag) (x : Exchange) (m : Move) (v : Verdict) : State :=
  let restarted := s.showsRestart n v
  let s2 := s.takeRestart n own x v
  let selfSilent := s2.ownSilent n x m v
  let s3 := (s2.ownerActs n own x restarted m v).countOutcome n v
  let silent := selfSilent || s3.thresholdSilent n v
  let s4 := s3.setSeqBit n x restarted v
  let s5 := if m.purges then s4.setPurge n else s4
  let s6 := if silent then s5.declareSilent n else s5
  (s6.takeAttention n own v).censusDone x m

/-- The table and the directory act on one outcome in one step (R9, R117). It acts on an ON_LINE exchange alone. -/
def State.applyVerdict (s : State) (t : Tag) (v : Verdict) : State :=
  match s.xchg t with
  | none => s
  | some x =>
    if x.state = .onLine then
      let m := s.moveOf x v
      let s1 := (s.keepPayload x v).applyMove t m
      match x.dest with
      | .station n => (s1.directoryActs n t x m.1 v).endStep s
      | .broadcast => s1.endStep s
    else s

end Sys2Proof.Machine
end

