-- ==== Sys2Proof/Machine/Scheduler.lean ====
section
/-! DEFINITION. The Line Scheduler: the eligibility conditions, one definition a rule (R85 to R92), and the choice of the
next job (R93 to R95). -/

namespace Sys2Proof.Machine

/-- The exchange has not left the ISSUE phase (R86): in ISSUE and not finished. -/
def Exchange.inIssue (x : Exchange) : Bool := x.phase == .issue && x.live

/-- ON_LINE or BACKOFF in the ISSUE phase (R87, R88, R90). -/
def Exchange.issueActive (x : Exchange) : Bool :=
  x.phase == .issue && (x.state == .onLine || x.state == .backoff)

/-- A non-idempotent exchange to the station that is ON_LINE or in BACKOFF in the ISSUE phase (R87, R88). -/
def Exchange.nonIdemActiveAt (x : Exchange) (n : Stn) : Bool := x.kind.nonIdem && x.dest == .station n && x.issueActive

/-- A READ in doubt (R89; log entry 7). -/
def Exchange.inDoubt (x : Exchange) : Bool :=
  x.kind == .read && x.phase == .issue && x.live && x.state != .onLine && decide (0 < x.attempts)

/-- The exchanges of the same owner that are earlier than the one with tag `t` have the property (R4). -/
def State.earlierAll (s : State) (o : Owner) (t : Tag) (p : Exchange → Bool) : Bool :=
  ((s.table.creation o).takeWhile (· != t)).all fun t' => (s.xchg t').all p

/-- R85: the station's state admits the exchange. A broadcast consults no entry. -/
def State.admits (s : State) (x : Exchange) : Bool :=
  match x.dest with
  | .broadcast => true
  | .station n =>
    match (s.entry n).state with
    | .present | .suspect => true
    | .held | .disabled => false
    | .recovering => x.kind == .census && (s.entry n).holdTimer.isNone
    | .resync => x.kind == .purge || x.kind == .stationReset
    | .vacant | .silent => x.kind == .census

/-- R86, stream order: an ISSUE exchange of WINDOW or a channel waits for every earlier exchange of its owner to the same
station, and every earlier BCAST_WRITE, to leave the ISSUE phase. -/
def State.streamOk (s : State) (t : Tag) (x : Exchange) : Bool :=
  x.owner == .internal || x.phase != .issue ||
    s.earlierAll x.owner t fun y => !(y.inIssue && (y.dest == x.dest || y.dest == .broadcast))

/-- R87: one non-idempotent request in doubt for each station. A record with its unanswered mark set holds the others back
in every state, a COMPLETE or DRAINING one until it is free. -/
def State.nonIdemOk (s : State) (t : Tag) (x : Exchange) : Bool :=
  match x.dest with
  | .broadcast => true
  | .station n =>
    !(x.kind.nonIdem && x.phase == .issue) ||
      (!(s.otherX t fun y => y.nonIdemActiveAt n)
        && !(s.otherX t fun y => y.unansweredAt n)
        && !(s.entry n).seqUncertain)

/-- R88: a CENSUS waits until no non-idempotent exchange to its station is unsettled, and for a marked one at most until it
completes (log entry 7); not so for a RECOVERING station. -/
def State.censusOk (s : State) (t : Tag) (x : Exchange) : Bool :=
  match x.dest with
  | .broadcast => true
  | .station n =>
    x.kind != .census || (s.entry n).state == .recovering ||
      (!(s.otherX t fun y => y.nonIdemActiveAt n)
        && !(s.otherX t fun y => y.unansweredAt n && y.live))

/-- R89: a READ in the ISSUE phase waits for the purge-needed mark, and at a station that can defer for room below its
capacity and for other READs in doubt. -/
def State.readOk (s : State) (t : Tag) (x : Exchange) : Bool :=
  match x.dest with
  | .broadcast => true
  | .station n =>
    !(x.kind == .read && x.phase == .issue) ||
      (!(s.entry n).purgeNeeded
        && ((s.entry n).capacity == 0
          || (decide ((s.entry n).deferred < (s.entry n).capacity)
            && !(s.otherX t fun y => y.inDoubt && y.dest == .station n))))

/-- R90: one ISSUE attempt at a time to a SUSPECT station. -/
def State.suspectOk (s : State) (t : Tag) (x : Exchange) : Bool :=
  match x.dest with
  | .broadcast => true
  | .station n =>
    (s.entry n).state != .suspect || x.phase != .issue
      || !(s.otherX t fun y => y.dest == .station n && y.issueActive)

/-- R91: a fenced exchange waits until every earlier exchange of its owner is COMPLETE or DRAINING. -/
def State.fenceOk (s : State) (t : Tag) (x : Exchange) : Bool :=
  !x.fence || s.earlierAll x.owner t fun y => !y.live

/-- R92: a BCAST_WRITE waits until every earlier exchange of its owner has left the ISSUE phase. -/
def State.bcastOk (s : State) (t : Tag) (x : Exchange) : Bool :=
  x.kind != .bcastWrite || s.earlierAll x.owner t fun y => !y.inIssue

/-- The exchange with tag `t` is WAITING and passes every condition that concerns it (5.2). -/
def State.eligible (s : State) (t : Tag) : Bool :=
  match s.xchg t with
  | none => false
  | some x =>
    x.state == .waiting && s.admits x && s.streamOk t x && s.nonIdemOk t x && s.censusOk t x && s.readOk t x
      && s.suspectOk t x && s.fenceOk t x && s.bcastOk t x

/-- The class of an exchange (R93); class 3 is the due sweep. -/
def Exchange.jobClass (x : Exchange) : Nat :=
  match x.phase with
  | .abandon => 1
  | .collect => 2
  | .issue =>
    match x.kind with
    | .purge | .stationReset => 1
    | .census | .fetchEvent => 4
    | .write | .read | .signal | .bcastWrite => 5

/-- An eligible exchange of this class. -/
def State.eligibleIn (s : State) (cls : Nat) (t : Tag) : Bool :=
  s.eligible t && (s.xchg t).any fun x => x.jobClass == cls

/-- The owner of a requester. -/
def Requester.owner : Requester → Owner
  | .window => .window
  | .listA => .list .A
  | .listB => .list .B

/-- The oldest eligible class-5 exchange of an owner (R94). -/
def State.oldest (s : State) (q : Requester) : Option Tag :=
  (s.table.creation q.owner).find? (s.eligibleIn 5)

/-- The search order after the owner that the pointer names (R94). -/
def Requester.after : Requester → List Requester
  | .window => [.listA, .listB, .window]
  | .listA => [.listB, .window, .listA]
  | .listB => [.window, .listA, .listB]

/-- The first owner of a list that has an eligible exchange, with its oldest. -/
def State.firstOwner (s : State) : List Requester → Option (Requester × Tag)
  | [] => none
  | q :: qs =>
    match s.oldest q with
    | some t => some (q, t)
    | none => s.firstOwner qs

/-- The round robin of class 5 with WINDOW_FIRST: the tag chosen, and the pointer afterwards (R94). -/
def State.chooseOwner (s : State) : Option (Tag × Requester) :=
  match (if s.regs.windowFirst then s.oldest .window else none) with
  | some t => some (t, s.pointer)
  | none => (s.firstOwner s.pointer.after).map fun qt => (qt.2, qt.1)

/-- A job chosen: an exchange with the pointer afterwards, or the sweep. -/
inductive Choice where
  | exchange (t : Tag) (pointer : Requester)
  | sweep
  deriving DecidableEq, Repr

/-- The first job of the first class that holds any (R93): classes 1 and 2 by lowest tag, the due sweep, class 4 by
INTERNAL creation order, class 5 as R94 chooses. -/
def State.choose (s : State) : Option Choice :=
  match allTags.find? (s.eligibleIn 1) with
  | some t => some (.exchange t s.pointer)
  | none =>
    match allTags.find? (s.eligibleIn 2) with
    | some t => some (.exchange t s.pointer)
    | none =>
      if s.sweep.due then some .sweep
      else
        match s.table.intList.find? (s.eligibleIn 4) with
        | some t => some (.exchange t s.pointer)
        | none => s.chooseOwner.map fun tp => .exchange tp.1 tp.2

end Sys2Proof.Machine
end

