-- ==== Sys2Proof/Machine/LineEvents.lean ====
section
/-! DEFINITION. The line's steps: the job offer, frames sent, replies, faults, contention, slots, breaks, guard and wake
(R69 to R78, R96, R100 to R105). An event that the line's state cannot meet has no effect (log entry 1). -/

namespace Sys2Proof.Machine

/-! ## The job offer (R8, R69, R95, R96) -/

/-- The record at the start of an attempt (R8): ON_LINE, attempts risen, and for a non-idempotent kind the station's
sequence bit copied. -/
def State.startAttempt (s : State) (x : Exchange) : Exchange :=
  { x with
    state := .onLine, attempts := x.attempts + 1,
    seqUsed := match x.dest with
      | .station n => if x.kind.nonIdem then some (s.entry n).seqBit else x.seqUsed
      | .broadcast => x.seqUsed }

/-- The unit takes an attempt (R69). -/
def State.takeAttempt (s : State) (t : Tag) (x : Exchange) : State :=
  let y := s.startAttempt x
  { s.setXchg t (some y) with
    line.state := .sending, line.job := some (.attempt t y.phase (requestKind y)), line.frameWhole := false,
    line.txFrame := some (requestFrame t y s.store) }

/-- The unit takes the sweep, and the sweep-due flag is cleared (R95). -/
def State.takeSweep (s : State) : State :=
  { s with
    line.state := .sending, line.job := some .sweep, line.frameWhole := false, line.txFrame := some sweepFrame,
    sweep.due := false }

/-- JOB_OFFER (R84, R96): with the line IDLE the first eligible job is taken; with none the line stays IDLE. -/
def execJobOffer (s : State) : Host.Outcome State Fault Refusal :=
  if s.line.state = .idle then
    match s.choose with
    | none => .next s
    | some .sweep => .next s.takeSweep
    | some (.exchange t p) =>
      match s.xchg t with
      | some x => .next { (s.takeAttempt t x).recount with pointer := p }
      | none => .next s
  else .next s

/-! ## The end of a frame -/

/-- REQUEST_FRAME_SENT (R69, R70, R8): the HAND mark has gone out; the frame-whole mark and, for a non-idempotent request,
the unanswered mark are set, and AWAIT begins with the reply window loaded. -/
def execRequestFrameSent (s : State) : Host.Outcome State Fault Refusal :=
  match s.line.state, s.line.job with
  | .sending, some (.attempt t _ q) =>
    if closingMark q = .hand then
      let s1 :=
        s.mapX fun t' x => if t' = t ∧ x.kind.nonIdem ∧ x.phase = .issue then { x with unanswered := true } else x
      .next
        { s1.recount with
          line.state := .await, line.frameWhole := true, line.txFrame := none, line.timer := some s.regs.replyWindow }
    else .next s
  | _, _ => .next s

/-- BCAST_WRITE_SENT (R69, R121): the outcome sent, the exchange completes OK, and GUARD is entered. -/
def execBcastWriteSent (s : State) : Host.Outcome State Fault Refusal :=
  match s.line.state, s.line.job with
  | .sending, some (.attempt t _ .bcastWrite) =>
    .next { (s.applyVerdict t .sent).enterGuard with line.frameWhole := true }
  | _, _ => .next s

/-- SWEEP_FRAME_SENT (R69, R74): SLOTS is entered. -/
def execSweepFrameSent (s : State) : Host.Outcome State Fault Refusal :=
  match s.line.state, s.line.job with
  | .sending, some .sweep =>
    .next { s with line.state := .slots, line.frameWhole := true, line.txFrame := none }
  | _, _ => .next s

/-! ## Replies -/

/-- REPLY_START (R70): RECEIVING is entered and the reply window stops. -/
def execReplyStart (s : State) : Host.Outcome State Fault Refusal :=
  if s.line.state = .await then .next { s with line.state := .receiving, line.timer := none } else .next s

/-- The fault kind of an outcome. -/
def Verdict.fault : Verdict → Option FaultKind
  | .reply _ | .sent => none
  | .sound k _ => some k
  | .lost k => some k

/-- The destination and tag of the current job (R75, R82): station 31 and tag 0 for a sweep. -/
def State.jobTarget (s : State) : Dest × Tag :=
  match s.line.job with
  | some (.attempt t _ _) =>
    match s.xchg t with
    | some x => (x.dest, t)
    | none => (.broadcast, t)
  | some .sweep | none => (.broadcast, 0)

/-- Last fault is written at every fault outcome (R82). -/
def State.recordFault (s : State) (v : Verdict) : State :=
  match v.fault with
  | some k => s.noteFault k s.jobTarget.1 s.jobTarget.2
  | none => s

/-- The line-fault count an outcome leaves (R77). -/
def faultCountAfter (k : Nat) (v : Verdict) : Nat :=
  match v with
  | .lost .crc | .lost .framing => k + 1
  | .reply _ | .sound _ _ | .lost .wrongStation => 0
  | .lost .timeout | .lost .contention | .lost .overrun | .lost .unexpected | .sent => k

/-- A rise has brought the line-fault count to its limit (R77). -/
def State.lineFaultReached (s : State) (v : Verdict) : Bool :=
  (v == .lost .crc || v == .lost .framing) && decide (s.regs.lineFaultLimit ≤ s.line.faultCount + 1)

/-- The outcome of the current attempt is reported to the table and the directory, and recorded as last fault (R72). -/
def State.report (s : State) (t : Tag) (v : Verdict) : State := (s.recordFault v).applyVerdict t v

/-- The line after a reply that has ended (R72, R77): the count, and GUARD, or at the limit LINE_FAULT and a short break
with cause LINE_FAULT. -/
def State.lineAfterReply (s : State) (v : Verdict) : State :=
  if s.lineFaultReached v then (s.raise causeLineFault).enterBreak .short .lineFault
  else { s.enterGuard with line.faultCount := faultCountAfter s.line.faultCount v }

/-- REPLY_WINDOW_EXPIRY (R70): TIMEOUT, and GUARD. -/
def execReplyWindowExpiry (s : State) : Host.Outcome State Fault Refusal :=
  match s.line.state, s.line.job with
  | .await, some (.attempt t _ _) => .next (s.report t (.lost .timeout)).enterGuard
  | _, _ => .next s

/-- REPLY_RECEIVED (R71, R72): the checks decide the outcome, which is reported, and the line settles. An END mark where a
byte was expected is an early FRAMING fault (log entry 14). -/
def execReplyReceived (bytes : List Byte) (s : State) : Host.Outcome State Fault Refusal :=
  match s.line.state, s.line.settling, s.line.job with
  | .receiving, false, some (.attempt t _ _) =>
    match s.xchg t with
    | none => .next s
    | some x =>
      match judgeReply t x bytes with
      | .early => .next { s with line.settling := true }
      | .outcome v => .next ((s.report t v).lineAfterReply v)
  | _, _, _ => .next s

/-- EARLY_FRAMING_FAULT (R71): FRAMING is decided, and the unit waits for the line to settle. -/
def execEarlyFramingFault (s : State) : Host.Outcome State Fault Refusal :=
  if s.line.state = .receiving then .next { s with line.settling := true } else .next s

/-- LINE_SETTLED (R72): the line has been quiet for 4 BT after an early FRAMING fault; the outcome is reported, and GUARD
or BREAK entered. -/
def execLineSettled (s : State) : Host.Outcome State Fault Refusal :=
  match s.line.state, s.line.settling, s.line.job with
  | .receiving, true, some (.attempt t _ _) =>
    .next ((s.report t (.lost .framing)).lineAfterReply (.lost .framing))
  | _, _, _ => .next s

/-- STUCK_LINE_TIMEOUT (R72): FRAMING is reported, LINE_FAULT raised where the rise reaches the limit, and a short break
with cause STUCK_LINE begins. -/
def execStuckLineTimeout (s : State) : Host.Outcome State Fault Refusal :=
  match s.line.state, s.line.settling, s.line.job with
  | .receiving, true, some (.attempt t _ _) =>
    let s1 := s.report t (.lost .framing)
    let s2 := if s.lineFaultReached (.lost .framing) then s1.raise causeLineFault else s1
    .next (s2.enterBreak .short .stuckLine)
  | _, _, _ => .next s

/-! ## Contention -/

/-- What contention does to the current job (R75, R100): an attempt ends with CONTENTION, and a sweep is lost and due
again. -/
def State.contentionOn (s : State) (j : Job) : State :=
  match j with
  | .attempt t _ _ => s.report t (.lost .contention)
  | .sweep => { s.recordFault (.lost .contention) with sweep.due := true }

/-- CONTENTION (R75): in WAKE or SENDING the unit stops driving, reports, and waits for quiet; the line state stays, with
no current job. -/
def execContention (s : State) : Host.Outcome State Fault Refusal :=
  match s.line.state, s.line.contentionWait, s.line.job with
  | .wake, false, none => .next { s with line.contentionWait := true, line.timer := none }
  | .sending, false, some j =>
    .next { s.contentionOn j with line.contentionWait := true, line.job := none, line.txFrame := none }
  | _, _, _ => .next s

/-- CONTENTION_WAIT_END (R75): a short break with cause CONTENTION. -/
def execContentionWaitEnd (s : State) : Host.Outcome State Fault Refusal :=
  if s.line.contentionWait then .next (s.enterBreak .short .contention) else .next s

/-! ## Slots, breaks, guard and wake -/

/-- A census request from a slot: a VACANT station in CENSUS_MASK, or a SILENT station (R101, R105). -/
def State.slotCensus (s : State) (n : Stn) : State :=
  match (s.entry n).state with
  | .vacant => if maskHas s.regs.censusMask n then s.joinCensus n else s
  | .silent => s.joinCensus n
  | .present | .suspect | .held | .recovering | .resync | .disabled => s

/-- One slot is acted on by its station's state (R101 to R103). -/
def State.takeSlot (s : State) (no : Stn × SlotOutcome) : State :=
  let s1 := if no.2.hasReady || no.2.hasEvent then s.slotCensus no.1 else s
  let s2 := if no.2.hasReady then s1.readySign no.1 none else s1
  if no.2.hasEvent then s2.eventSign no.1 else s2

/-- SLOTS_END (R74, R100): the 30 outcomes are acted on in address order, and GUARD is entered. -/
def execSlotsEnd (slots : List SlotSeen) (s : State) : Host.Outcome State Fault Refusal :=
  if s.line.state = .slots then
    .next (((allStns.zip (slots.map readSlot)).foldl State.takeSlot s).recount.enterGuard)
  else .next s

/-- BREAK_END (R76): GUARD is entered. -/
def execBreakEnd (s : State) : Host.Outcome State Fault Refusal :=
  if s.line.state = .break then .next s.enterGuard else .next s

/-- GUARD_END (R73): IDLE is entered. -/
def execGuardEnd (s : State) : Host.Outcome State Fault Refusal :=
  if s.line.state = .guard then .next s.enterIdle else .next s

/-- WAKE_END (R78): the wake pattern has gone out, and IDLE is entered. -/
def execWakeEnd (s : State) : Host.Outcome State Fault Refusal :=
  if s.line.state = .wake ∧ s.line.contentionWait = false then .next s.enterIdle else .next s

end Sys2Proof.Machine
end

