-- ==== Sys2Proof/Machine/LinkCommands.lean ====
section
/-! DEFINITION. The RESET_N input and the link commands (R179, R78, R79, R80, R99). -/

namespace Sys2Proof.Machine

/-- RESET_N (R179): every block takes its reset state; the commands still waiting stay, and the model's free-value counter
(log entry 21). -/
def execResetN (s : State) : Host.Outcome State Fault Refusal :=
  .next { State.reset with pending := s.pending, freeCount := s.freeCount }

/-- The VACANT stations of CENSUS_MASK, in address order (R28). -/
def State.autoCensusStns (s : State) : List Stn :=
  allStns.filter fun n => (s.entry n).state == .vacant && maskHas s.regs.censusMask n

/-- The effects of an accepted LINK_START (R78, R81, R83, R28, R34, R98). -/
def State.linkStarted (s : State) : State :=
  let s1 :=
    { s with
      line.state := .wake, line.rate := s.regs.rate, line.faultCount := 0, line.readyPending := true,
      line.timer := some Config.wakeLength,
      pointer := .listB, dir.rediscovery := loadKbt s.regs.rediscoverInterval,
      sweep.timer := loadKbt s.regs.sweepInterval }
  if s.regs.autoCensus then s1.joinCensusAll s.autoCensusStns else s1

/-- LINK_START (R78). -/
def execLinkStart (f : CmdFields) (s : State) : Host.Outcome State Fault Refusal :=
  if s.line.state = .off then .next (s.linkStarted.command .accepted 0x01 f)
  else .next (s.command .badState 0x01 f)

/-- The conditions of LINK_STOP (R79): IDLE, every record FREE, census and recovery lists empty. -/
def State.mayStop (s : State) : Bool :=
  s.line.state == .idle && (!s.anyX fun _ => true) && s.dir.census.isEmpty && s.dir.recovery.isEmpty

/-- Every entry that is not DISABLED is cleared as after RESET_N, and joins the change summary unless it was VACANT
(R48). -/
def State.clearDirectory (s : State) : State :=
  let changed := allStns.filter fun n => (s.entry n).state != .disabled && (s.entry n).state != .vacant
  changed.foldl State.noteChange
    (s.mapEntries fun _ e => if e.state = .disabled then e else Entry.reset)

/-- The effects of an accepted LINK_STOP (R79, R48, R97, R98). -/
def State.linkStopped (s : State) : State :=
  { s.clearDirectory with
    line.state := .off, line.faultCount := 0, line.readyPending := false, line.timer := none,
    dir.rediscovery := none, sweep := { due := false, timer := none } }

/-- LINK_STOP (R79). -/
def execLinkStop (f : CmdFields) (s : State) : Host.Outcome State Fault Refusal :=
  if s.mayStop then .next (s.linkStopped.recount.command .accepted 0x02 f)
  else .next (s.command .busy 0x02 f)

/-- The exchanges a link reset completes: every unfinished one but a FILLING one (R21). -/
def linkResetSel : Sel := fun _ x =>
  if x.live ∧ x.state ≠ .filling then some (Completion.plain .linkReset) else none

/-- The stations of the unfinished exchanges of a kind. -/
def State.endedStns (s : State) (k : Kind) : List Stn :=
  allTags.filterMap fun t =>
    match s.xchg t with
    | some x =>
      match x.dest with
      | .station n => if x.kind == k && x.live then some n else none
      | .broadcast => none
    | none => none

/-- Insert a station by its rank of this reset. -/
def rankInsert (c : Nat) (n : Stn) : List Stn → List Stn
  | [] => [n]
  | m :: l => if Config.joinRank c (addrOf n) ≤ Config.joinRank c (addrOf m) then n :: m :: l else m :: rankInsert c n l

/-- The order in which the stations of a reset's unknown outcomes join the census list: free (log entry 8). -/
def rankSort (c : Nat) : List Stn → List Stn
  | [] => []
  | n :: l => rankInsert c n (rankSort c l)

/-- The line at a link reset (R80, R76): the state, the job and the wait are ended, and the long break begins; the sweep is
discarded, the sweep-due flag cleared and the interval timer loaded (R97, R98). -/
def State.resetLine (s : State) : State :=
  { s.enterBreak .long .linkReset with
    line.readyPending := true, sweep := { due := false, timer := loadKbt s.regs.sweepInterval },
    freeCount := s.freeCount + 1 }

/-- An entry at a link reset (R47). -/
def Entry.linkReset (e : Entry) : Entry :=
  { e with
    deferred := 0, purgeNeeded := false, keptReady := false, failures := 0,
    state := match e.state with
      | .suspect | .resync => .present
      | other => other }

/-- The directory's entries, its PURGE records and the change summary at a link reset (R47). -/
def State.resetDirectory (s : State) : State :=
  let changed := allStns.filter fun n => (s.entry n).state == .suspect || (s.entry n).state == .resync
  let s1 := changed.foldl State.noteChange (s.mapEntries fun _ e => e.linkReset)
  { s1 with dir.recovery := s1.dir.recovery.filter fun r => r.2 != .purge }

/-- The census that the reset ends: last census LINK_RESET, and back to the head of the list (R33). -/
def State.censusReset (s : State) (n : Stn) : State :=
  (s.modEntry n fun e => { e with lastCensus := some { status := .linkReset, stationFault := false } }).censusToHead n

/-- The STATION_RESET that the reset ends goes back to the head of the recovery list, unless the station has a record
(R47, R133). -/
def State.resetToHead (s : State) (n : Stn) : State :=
  if (s.recoveryOf n).isSome then s else { s with dir.recovery := (n, .reset) :: s.dir.recovery }

/-- A channel at a link reset (R152): RUNNING and PAUSED enter STOPPING with cause LINK_RESET, the others are not
changed. -/
def State.resetChannel (s : State) (c : Chan) : State :=
  if (s.chan c).state.isLive then s.enterStopping c .linkReset else s

/-- The effects of an accepted LINK_RESET (R80, R21, R47, R152): the line; the table's completions and reset marks; the
directory; the census and the station reset that it ends; the unknown outcomes; the channels. A FETCH_EVENT that the reset
ends after its frame went out whole has an unknown outcome (R47), so an IDENT's expected bit is adopted before its event is
fetched again (log entry 36). -/
def State.linkWasReset (s : State) : State :=
  let s1 := s.resetLine
  let s2 := (s1.completeBatch linkResetSel).mapX fun _ x => x.markFill .linkReset
  let s3 := s2.resetDirectory
  let s4 := (s.endedStns .census).foldl State.censusReset s3
  let s5 := (s.endedStns .stationReset).foldl State.resetToHead s4
  let s6 := (rankSort s.freeCount (s.uncertainStns linkResetSel)).foldl State.noteUnknown s5
  ((s6.resetChannel .A).resetChannel .B).endStep s

/-- LINK_RESET (R80): refused BAD_STATE in OFF and BUSY in a long break. -/
def execLinkReset (f : CmdFields) (s : State) : Host.Outcome State Fault Refusal :=
  if s.line.state = .off then .next (s.command .badState 0x03 f)
  else if s.line.state = .break ∧ s.line.breakKind = some .long then .next (s.command .busy 0x03 f)
  else .next (s.linkWasReset.command .accepted 0x03 f)

/-- SWEEP_NOW (R99). -/
def execSweepNow (f : CmdFields) (s : State) : Host.Outcome State Fault Refusal :=
  if s.line.state = .off then .next (s.command .badState 0x05 f)
  else .next (({ s with sweep.due := true }).command .accepted 0x05 f)

end Sys2Proof.Machine
end

