-- ==== Sys2Proof/Machine/ListCommands.lean ====
section
/-! DEFINITION. The list commands (R145 to R147, R151). -/

namespace Sys2Proof.Machine

/-- LIST_START (R145): accepted in IDLE and HALTED. -/
def execListStart (f : CmdFields) (s : State) : Host.Outcome State Fault Refusal :=
  match (s.chan f.chan).state with
  | .idle | .halted =>
    .next
      ((s.modChan f.chan fun ch =>
        { ch with
          next := align32 ch.base, head := align32 ch.base, retired := 0#32, endMark := false, haltCause := none,
          memFault := none, cancel := .none, state := .running }).command .accepted 0x10 f)
  | .running | .paused | .stopping | .aborting => .next (s.command .badState 0x10 f)

/-- LIST_PAUSE (R146): accepted in RUNNING; the pending descriptor and the wait entry go (R137). -/
def execListPause (f : CmdFields) (s : State) : Host.Outcome State Fault Refusal :=
  if (s.chan f.chan).state = .running then
    .next (((s.leaveRunning f.chan).modChan f.chan fun ch => { ch with state := .paused }).command .accepted 0x11 f)
  else .next (s.command .badState 0x11 f)

/-- LIST_RESUME (R146): accepted in PAUSED. -/
def execListResume (f : CmdFields) (s : State) : Host.Outcome State Fault Refusal :=
  if (s.chan f.chan).state = .paused then
    .next ((s.modChan f.chan fun ch => { ch with state := .running }).command .accepted 0x12 f)
  else .next (s.command .badState 0x12 f)

/-- LIST_CONTINUE (R147): accepted in HALTED with cause FAILED or LINK_RESET and a clear end-of-list mark. -/
def execListContinue (f : CmdFields) (s : State) : Host.Outcome State Fault Refusal :=
  let ch := s.chan f.chan
  if ch.state = .halted ∧ (ch.haltCause = some .failed ∨ ch.haltCause = some .linkReset) ∧ ch.endMark = false then
    .next ((s.modChan f.chan fun ch => { ch with state := .running, haltCause := none }).command .accepted 0x13 f)
  else .next (s.command .badState 0x13 f)

/-- The effects of a LIST_ABORT accepted outside ABORTING (R151): ABORTING, RUNNING left, NOPs finished, the cancellation
ABORT acts as the LIST_ABORT column of R20 gives, and a channel with nothing in flight goes IDLE (log entry 9). With no
exchange left but a port operation under way it is ABORTING with cancellation none (log entry 16). -/
def State.aborted (s : State) (c : Chan) : State :=
  let s1 :=
    (s.leaveRunning c).modChan c fun ch =>
      { ch with state := .aborting, cancel := .abort, queue := cancelNops ch.queue }
  let s2 := (s1.cancelIssue c).mapX fun _ x => abortCollect c x
  (s2.settleCancel c).endAbortIfDone c

/-- LIST_ABORT (R151): refused BAD_STATE in IDLE; accepted in ABORTING it changes nothing. -/
def execListAbort (f : CmdFields) (s : State) : Host.Outcome State Fault Refusal :=
  match (s.chan f.chan).state with
  | .idle => .next (s.command .badState 0x14 f)
  | .aborting => .next (s.command .accepted 0x14 f)
  | .running | .paused | .stopping | .halted => .next (((s.aborted f.chan).endStep s).command .accepted 0x14 f)

end Sys2Proof.Machine
end

