-- ==== Sys2Proof/Machine/PortEvents.lean ====
section
/-! DEFINITION. The master port's steps and the ends of a channel (R135, R138 to R144, R149 to R151). A step whose operation
the channel does not have under way has no effect (log entry 1). -/

namespace Sys2Proof.Machine

/-- The operation and the channel that the free port serves next (R138): where both are ready, the one not served last. -/
def State.portChoice (s : State) : Option (Chan × PortOp) :=
  if s.chanA.portOp.isSome || s.chanB.portOp.isSome then none
  else
    match s.nextOp .A, s.nextOp .B with
    | some a, some b => if s.portLast = .A then some (.B, b) else some (.A, a)
    | some a, none => some (.A, a)
    | none, some b => some (.B, b)
    | none, none => none

/-- PORT_OPERATION_START (R138). -/
def execPortOperationStart (s : State) : Host.Outcome State Fault Refusal :=
  match s.portChoice with
  | some (c, op) => .next (s.startOp c op).recount
  | none => .next s

/-- The channel's operation has ended. -/
def State.endOp (s : State) (c : Chan) : State := s.modChan c fun ch => { ch with portOp := none }

/-- A fetched descriptor is checked and acted on by its kind (R135, R139, R142). -/
def State.intake (s : State) (c : Chan) (d : Desc) : State :=
  if d.isInvalid then (s.takeIn c d (d.record none (some .invalid) true)).stopOnFailure c
  else
    match d.kind with
    | .nop => s.takeIn c d (d.record none (some .ok) (!d.fence))
    | .write | .read | .signal | .bcastWrite => s.askUnits c d
    | .bad => s

/-- DESCRIPTOR_FETCH_END (R137, R139): the descriptor is acted on, or dropped when the channel has left RUNNING. -/
def execDescriptorFetchEnd (c : Chan) (w0 w1 w2 w3 w4 : Word) (s : State) : Host.Outcome State Fault Refusal :=
  match (s.chan c).portOp with
  | some (.fetch discard) =>
    if discard then .next (s.endOp c)
    else .next (((s.endOp c).intake c (decodeDesc (s.chan c).next w0 w1 w2 w3 w4)).endStep s)
  | some (.fill _) | some (.drain _) | some .statusWrite | none => .next s

/-- The exchange at the end of its fill (R18): WAITING, or COMPLETE with the status of its fill end mark. -/
def State.fillDone (s : State) (c : Chan) (t : Tag) (x : Exchange) : State :=
  match x.fillEnd with
  | none => s.setXchg t (some { x with state := .waiting })
  | some m =>
    (s.complete fun t' _ => if t' = t then some (Completion.plain m.status) else none).stopOnFailure c

/-- FILL_END (R141): the bytes are in the exchange's units, and the table acts on its fill end mark. A fill brings as many
bytes as the exchange has; any other number is no end of this fill. -/
def execFillEnd (c : Chan) (bytes : List Byte) (s : State) : Host.Outcome State Fault Refusal :=
  match (s.chan c).portOp with
  | some (.fill t) =>
    match s.xchg t with
    | some x =>
      if x.state = .filling ∧ x.length = some bytes.length then
        let s1 := { s.endOp c with store := writeUnits x.units 0 bytes s.store }
        .next ((s1.fillDone c t x).endStep s)
      else .next s
    | none => .next s
  | some (.fetch _) | some (.drain _) | some .statusWrite | none => .next s

/-- DRAIN_END (R143, R144): the data and the status word have been written, the record is written, the exchange goes FREE,
and the channel retires what it can. -/
def execDrainEnd (c : Chan) (s : State) : Host.Outcome State Fault Refusal :=
  match (s.chan c).portOp with
  | some (.drain t) =>
    match s.xchg t, (s.chan c).recOf t with
    | some x, some r =>
      match x.result with
      | some res =>
        let s1 :=
          { s.endOp c with
            bus.data := drainData x res r.buffer s.store, bus.status := some (statusAddr r.addr, statusWord res) }
        let s2 := s1.modChan c fun ch => ch.mapQ (QRec.isOf t) fun r => { r with written := true }
        .next (((s2.free t).settleCancel c).retire c).recount
      | none => .next s
    | _, _ => .next s
  | some (.fetch _) | some (.fill _) | some .statusWrite | none => .next s

/-- INTAKE_STATUS_WRITE_END (R135, R143, R144): the status word of a descriptor without an exchange has been written. -/
def execIntakeStatusWriteEnd (c : Chan) (s : State) : Host.Outcome State Fault Refusal :=
  match (s.chan c).portOp with
  | some .statusWrite =>
    match (s.chan c).dueRec with
    | some r =>
      let s1 :=
        { s.endOp c with
          bus.data := [], bus.status := some (statusAddr r.addr, plainStatusWord (r.status.getD .ok)) }
      let s2 := s1.modChan c fun ch => ch.mapDue fun r => { r with written := true }
      .next (s2.retire c)
    | none => .next s
  | some (.fetch _) | some (.fill _) | some (.drain _) | none => .next s

/-- MEMORY_FAULT (R138, R150): by the operation it ends. A fill that the fault ends leaves the Payload Store as it was (log
entry 38). -/
def execMemoryFault (c : Chan) (address : Word) (s : State) : Host.Outcome State Fault Refusal :=
  let ch := s.chan c
  match ch.portOp with
  | none => .next s
  | some (.fetch true) => .next (s.endOp c)
  | some (.fetch false) =>
    .next
      ((((s.endOp c).modChan c fun ch => ch.noteMemFault .fetch ch.next address).memFaultStops c).endStep s)
  | some (.fill t) =>
    match ch.recOf t with
    | none => .next s
    | some r =>
      let s1 :=
        (s.endOp c).modChan c fun ch =>
          (ch.mapQ (QRec.isOf t) fun r => { r with tag := none, faulted := true }).noteMemFault .fill r.addr address
      .next ((((s1.free t).memFaultStops c).settleCancel c).endStep s)
  | some (.drain t) =>
    match ch.recOf t with
    | none => .next s
    | some r =>
      let s1 :=
        (s.endOp c).modChan c fun ch =>
          (ch.mapQ (QRec.isOf t) fun r => { r with faulted := true }).noteMemFault .drain r.addr address
      let s2 := { s1.free t with bus.data := [], bus.status := none }
      .next (((s2.memFaultStops c).settleCancel c).endStep s)
  | some .statusWrite =>
    match ch.dueRec with
    | none => .next s
    | some r =>
      let s1 :=
        (s.endOp c).modChan c fun ch =>
          (ch.mapDue fun r => { r with faulted := true }).noteMemFault .drain r.addr address
      let s2 := { s1 with bus.data := [], bus.status := none }
      .next ((s2.memFaultStops c).endStep s)

/-- NOP_FENCE_FINISH (R142): a fenced NOP that has not finished finishes OK once every exchange of the channel is COMPLETE,
DRAINING or FREE; the channel takes nothing in behind it, so those are the exchanges created before it. -/
def execNopFenceFinish (c : Chan) (s : State) : Host.Outcome State Fault Refusal :=
  if s.anyX fun x => x.owner == .list c && x.live then .next s
  else .next (s.modChan c fun ch => ch.mapQ QRec.openNop fun r => { r with finished := true })

/-- CHANNEL_HALT (R149). -/
def execChannelHalt (c : Chan) (s : State) : Host.Outcome State Fault Refusal := .next (s.haltIfDone c)

/-- ABORT_END (R151). -/
def execAbortEnd (c : Chan) (s : State) : Host.Outcome State Fault Refusal := .next (s.endAbortIfDone c)

end Sys2Proof.Machine
end

