-- ==== Sys2Proof/Machine/Views.lean ====
section
/-! DEFINITION. What the register window reads: the words of the views (R178) and of the single registers (R171, R172). -/

namespace Sys2Proof.Machine

/-! ## Codes of the views (R178) -/

def StnState.code : StnState → Nat
  | .vacant => 0
  | .present => 1
  | .suspect => 2
  | .held => 3
  | .recovering => 4
  | .silent => 5
  | .resync => 6
  | .disabled => 7

def CensusStatus.code : CensusStatus → Nat
  | .ok => 0
  | .protocol => 1
  | .retryExhausted => 2
  | .linkReset => 3

def XState.code : XState → Nat
  | .filling => 1
  | .waiting => 2
  | .onLine => 3
  | .backoff => 4
  | .parked => 5
  | .complete => 6
  | .draining => 7

def Phase.code : Phase → Nat
  | .issue => 0
  | .collect => 1
  | .abandon => 2

def Owner.code : Owner → Nat
  | .window => 0
  | .list .A => 1
  | .list .B => 2
  | .internal => 3

def Kind.code : Kind → Nat
  | .write => 0
  | .read => 1
  | .signal => 2
  | .bcastWrite => 3
  | .census => 4
  | .fetchEvent => 5
  | .purge => 6
  | .stationReset => 7

def FillMark.code : FillMark → Nat
  | .linkReset => 1
  | .stationLost => 2
  | .cancelled => 3

def LineState.code : LineState → Nat
  | .off => 0
  | .wake => 1
  | .idle => 2
  | .sending => 3
  | .await => 4
  | .receiving => 5
  | .guard => 6
  | .slots => 7
  | .break => 8

def BreakCause.code : BreakCause → Nat
  | .contention => 0
  | .lineFault => 1
  | .stuckLine => 2
  | .linkReset => 3

def ChanState.code : ChanState → Nat
  | .idle => 0
  | .running => 1
  | .paused => 2
  | .stopping => 3
  | .halted => 4
  | .aborting => 5

def HaltCause.code : HaltCause → Nat
  | .failed => 1
  | .memoryFault => 2
  | .linkReset => 3

def Cancel.code : Cancel → Nat
  | .none => 0
  | .stop => 1
  | .abort => 2

def FaultOp.code : FaultOp → Nat
  | .fetch => 0
  | .fill => 1
  | .drain => 2

def RecAction.code : RecAction → Nat
  | .purge => 1
  | .reset => 2

/-! ## The views -/

/-- The station number of a destination as a view shows it. -/
def destNumber (d : Dest) : Nat := (destField d).toNat

/-- DIR_VIEW (R45, R178). -/
def State.dirView (s : State) (n : Stn) : Vector Word 2 :=
  let e := s.entry n
  #v[word
      [field 0 3 e.state.code, field 4 4 e.failures, field 8 2 e.capacity, field 10 2 e.deferred,
       field 12 4 (e.epoch.getD 0#4).toNat, flag 16 e.epoch.isSome, flag 17 e.seqBit, flag 18 e.seqUncertain,
       flag 19 e.purgeNeeded, flag 20 e.eventPending, flag 21 e.keptReady, flag 22 e.wasPresent,
       flag 23 e.holdTimer.isSome, flag 24 (s.dir.census.contains n),
       field 25 2 (((s.recoveryOf n).map RecAction.code).getD 0), flag 27 e.cls.isSome],
     word
      [field 0 8 (e.cls.getD 0#8).toNat, field 8 8 (e.revision.getD 0#8).toNat,
       field 16 3 ((e.lastCensus.map fun c => c.status.code).getD 0),
       flag 20 (e.lastCensus.any (·.stationFault)), flag 21 e.lastCensus.isSome]]

/-- XT_VIEW (R23, R178). A FREE record reads as zero. -/
def State.xtView (s : State) (t : Tag) : Vector Word 2 :=
  match s.xchg t with
  | none => Vector.replicate 2 0#32
  | some x =>
    #v[word
        [field 0 3 x.state.code, field 4 2 x.phase.code, field 6 2 x.owner.code, field 8 3 x.kind.code,
         field 12 5 (destNumber x.dest), field 17 4 x.attempts, flag 21 x.unanswered, flag 22 x.expired,
         field 23 2 ((x.fillEnd.map FillMark.code).getD 0)],
       word
        [field 0 8 x.busyCount, field 8 4 ((x.result.map fun r => r.status.code).getD 0),
         field 12 4 ((x.result.map fun r => detailCode r.detail).getD 0), flag 16 (x.result.any (·.uncertain)),
         flag 17 (x.result.any (·.repeated)), flag 18 x.result.isSome]]

/-- Up to four bytes as a word, the first in bits 7:0 (R178). -/
def wordOfBytes (l : List Byte) : Word :=
  (l.getD 3 0#8) ++ (l.getD 2 0#8) ++ (l.getD 1 0#8) ++ (l.getD 0 0#8)

/-- EVENT_HEAD (R166, R178). -/
def State.eventHead (s : State) : Vector Word 4 :=
  match s.events.queue with
  | [] => Vector.replicate 4 0#32
  | e :: _ =>
    #v[word
        [field 0 16 e.code.toNat, field 16 5 (addrOf e.station), field 21 4 e.epoch.toNat,
         field 25 4 e.detail.length, flag 31 true],
       wordOfBytes e.detail, wordOfBytes (e.detail.drop 4), wordOfBytes (e.detail.drop 8)]

/-- The tag of the current job's exchange. -/
def jobTag : Option Job → Nat
  | some (.attempt t _ _) => t.val
  | some .sweep | none => 0

/-- LINE_STATUS (R82, R178). -/
def State.lineStatus (s : State) : Vector Word 2 :=
  let l := s.line
  #v[word
      [field 0 4 l.state.code, flag 4 (l.breakKind == some .long), field 5 2 ((l.breakCause.map BreakCause.code).getD 0),
       flag 7 l.job.isSome, flag 8 (l.job == some .sweep), field 9 5 (jobTag l.job), field 14 3 l.faultCount,
       field 20 2 l.rate.toNat, field 22 2 s.regs.rate.toNat],
     word
      [field 0 4 ((l.lastFault.map fun f => f.kind.code).getD 0),
       field 4 5 ((l.lastFault.map fun f => f.station.toNat).getD 0),
       field 9 5 ((l.lastFault.map fun f => f.tag.val).getD 0), flag 16 l.lastFault.isSome]]

/-- LIST_x_STATE (R153, R178). -/
def State.listState (s : State) (c : Chan) : Vector Word 3 :=
  let ch := s.chan c
  #v[word
      [field 0 3 ch.state.code, field 3 2 ((ch.haltCause.map HaltCause.code).getD 0), field 5 2 ch.cancel.code,
       field 8 4 ch.queue.length, flag 12 ch.pendingDesc.isSome, flag 13 (s.table.waitList.any fun e => e.1 == c),
       flag 14 ch.endMark, flag 15 ch.memFault.isSome, field 16 2 ((ch.memFault.map fun f => f.op.code).getD 0)],
     (ch.memFault.map (·.desc)).getD 0#32,
     (ch.memFault.map (·.address)).getD 0#32]

/-- The hold of WINDOW_FAULT: state code, station, register address, tag. -/
def holdFields : Hold → Nat × Nat × Nat × Nat
  | .empty => (0, 0, 0, 0)
  | .inFlight n reg t => (1, addrOf n, reg.toNat, t.val)
  | .ready n reg t => (2, addrOf n, reg.toNat, t.val)

/-- WINDOW_FAULT (R155, R178). -/
def State.windowFaultView (s : State) : Vector Word 2 :=
  let w := s.window
  let h := holdFields w.hold
  #v[word
      [flag 0 w.fault.isSome, flag 1 w.overflow, field 2 5 ((w.fault.map fun f => addrOf f.station).getD 0),
       flag 7 (w.fault.any fun f => f.dir == .read), field 8 4 ((w.fault.map fun f => f.status.code).getD 0),
       field 12 4 ((w.fault.map fun f => detailCode f.detail).getD 0), flag 16 (w.fault.any (·.uncertain)),
       field 20 2 h.1, field 22 5 h.2.2.2, field 27 4 (s.countX fun x => x.owner == .window)],
     word [field 0 12 ((w.fault.map fun f => f.reg.toNat).getD 0), field 12 5 h.2.1, field 17 12 h.2.2.1]]

/-! ## The single registers -/

/-- LINK_CONFIG (R172). -/
def Regs.linkConfig (r : Regs) : Word := word [field 0 2 r.rate.toNat, flag 4 r.windowFirst, flag 5 r.autoCensus]

/-- RETRY_CONFIG. -/
def Regs.retryConfig (r : Regs) : Word := word [field 0 3 r.retryLimit, field 8 8 r.retryGap]

/-- BUSY_CONFIG. -/
def Regs.busyConfig (r : Regs) : Word := word [field 0 8 r.busyLimit, field 8 8 r.busyGap]

/-- FAULT_THRESHOLDS. -/
def Regs.faultThresholds (r : Regs) : Word :=
  word [field 0 4 r.suspectThreshold, field 8 4 r.silentThreshold, field 16 3 r.lineFaultLimit]

/-- EVENT_LEVEL: queue entries in 4:0, non-FREE FETCH_EVENT records in 9:8 (R172). -/
def State.eventLevel (s : State) : Word :=
  word [field 0 5 s.events.queue.length, field 8 2 (s.countX fun x => x.kind == .fetchEvent)]

/-- The single-word registers and the later words of the views' copies, by offset; an offset not in the map and a
write-only register read 0 (R171). -/
def State.readWord (s : State) (offset : Nat) : Word :=
  match offset with
  | 0x000 => Config.partId
  | 0x004 => s.regs.linkConfig
  | 0x008 => field 0 12 s.regs.replyWindow
  | 0x00C => field 0 6 s.regs.guardTime
  | 0x010 => s.regs.retryConfig
  | 0x014 => s.regs.busyConfig
  | 0x018 => s.regs.faultThresholds
  | 0x01C => field 0 8 s.regs.sweepInterval
  | 0x020 => field 0 8 s.regs.deferDeadline
  | 0x024 => field 0 8 s.regs.resetHold
  | 0x028 => field 0 8 s.regs.rediscoverInterval
  | 0x02C => field 0 8 s.regs.windowHold
  | 0x030 => s.regs.censusMask
  | 0x044 => s.regs.commandMask
  | 0x048 => s.regs.commandStatus
  | 0x050 => s.views.line[0]
  | 0x054 => s.views.line[1]
  | 0x060 => field 0 5 (addrOf s.regs.dirSelect)
  | 0x064 => s.views.dir[0]
  | 0x068 => s.views.dir[1]
  | 0x070 => field 0 5 s.regs.xtSelect.val
  | 0x074 => s.views.xt[0]
  | 0x078 => s.views.xt[1]
  | 0x080 => s.dir.changes
  | 0x090 => s.views.windowFault[0]
  | 0x094 => s.views.windowFault[1]
  | 0x0A0 => s.eventLevel
  | 0x0A4 => field 0 5 s.regs.eventThreshold
  | 0x0A8 => s.views.eventHead[0]
  | 0x0AC => s.views.eventHead[1]
  | 0x0B0 => s.views.eventHead[2]
  | 0x0B4 => s.views.eventHead[3]
  | 0x0C0 => s.pendingCauses
  | 0x0C4 => s.irq.enable
  | 0x100 => s.chanA.base
  | 0x104 => s.views.listA[0]
  | 0x108 => s.views.listA[1]
  | 0x10C => s.views.listA[2]
  | 0x110 => s.chanA.next
  | 0x114 => s.chanA.head
  | 0x118 => s.chanA.retired
  | 0x120 => s.chanB.base
  | 0x124 => s.views.listB[0]
  | 0x128 => s.views.listB[1]
  | 0x12C => s.views.listB[2]
  | 0x130 => s.chanB.next
  | 0x134 => s.chanB.head
  | 0x138 => s.chanB.retired
  | _ => 0#32

/-- A read of word 0 of a multi-word view takes a copy of the whole record (R171); every other read takes none. -/
def State.takeCopy (s : State) (offset : Nat) : State :=
  match offset with
  | 0x050 => { s with views.line := s.lineStatus }
  | 0x064 => { s with views.dir := s.dirView s.regs.dirSelect }
  | 0x074 => { s with views.xt := s.xtView s.regs.xtSelect }
  | 0x090 => { s with views.windowFault := s.windowFaultView }
  | 0x0A8 => { s with views.eventHead := s.eventHead }
  | 0x104 => { s with views.listA := s.listState .A }
  | 0x124 => { s with views.listB := s.listState .B }
  | _ => s

end Sys2Proof.Machine
end

