-- ==== Sys2Proof/Machine/RegisterWindow.lean ====
section
/-! DEFINITION. Register-window writes other than commands, and register-window reads (R34, R84, R98, R167 to R169, R171,
R172). Every access of this file is answered DONE but the last, which is answered ERROR. -/

namespace Sys2Proof.Machine

/-- CAUSE_ACK (R168): each edge cause named leaves the pending set; a condition cause is not touched. -/
def execCauseAck (mask : Word) (s : State) : Host.Outcome State Fault Refusal :=
  .next (({ s with irq.edge := s.irq.edge &&& ~~~(mask &&& edgeCauses) }).answer .done)

/-- CAUSE_ENABLE (R169): the whole enable set is replaced. -/
def execCauseEnable (mask : Word) (s : State) : Host.Outcome State Fault Refusal :=
  .next (({ s with irq.enable := mask &&& allCauses }).answer .done)

/-- SWEEP_INTERVAL_WRITE (R98, R172): a non-zero value written while the timer is stopped and the line is not OFF starts
the timer. -/
def execSweepIntervalWrite (v : Word) (s : State) : Host.Outcome State Fault Refusal :=
  let k := clamp 0 255 v.toNat
  let s1 := { s with regs.sweepInterval := k }
  let s2 := if s.sweep.timer = none ∧ s.line.state ≠ .off then { s1 with sweep.timer := loadKbt k } else s1
  .next (s2.answer .done)

/-- REDISCOVER_INTERVAL_WRITE (R34, R172). -/
def execRediscoverIntervalWrite (v : Word) (s : State) : Host.Outcome State Fault Refusal :=
  let k := clamp 0 255 v.toNat
  let s1 := { s with regs.rediscoverInterval := k }
  let s2 := if s.dir.rediscovery = none ∧ s.line.state ≠ .off then { s1 with dir.rediscovery := loadKbt k } else s1
  .next (s2.answer .done)

/-- EVENT_THRESHOLD_WRITE (R166, R167): clamped to 1 to 16; the EVENTS cause follows, since it is computed from the
threshold. -/
def execEventThresholdWrite (v : Word) (s : State) : Host.Outcome State Fault Refusal :=
  .next (({ s with regs.eventThreshold := clamp 1 16 v.toNat }).answer .done)

/-- LINK_CONFIG_WRITE (R81, R84, R172). -/
def execLinkConfigWrite (v : Word) (s : State) : Host.Outcome State Fault Refusal :=
  .next
    (({ s with
        regs.rate := v.extractLsb' 0 2, regs.windowFirst := v.getLsbD 4, regs.autoCensus := v.getLsbD 5 }).answer .done)

/-- A field of a register of several fields, taken from its own bits (R172). -/
def bitsOf (v : Word) (pos width : Nat) : Nat := (v.extractLsb' pos width).toNat

/-- The station DIR_SELECT takes: the whole value, 1 to 30 (R45). -/
def selectStn (v : Nat) : Stn := ⟨clamp 1 30 v - 1, by unfold clamp; omega⟩

/-- The tag XT_SELECT takes: the whole value, 0 to 31 (R23). -/
def selectTag (v : Nat) : Tag := ⟨clamp 0 31 v, by unfold clamp; omega⟩

/-- The registers after a write to one of those that have no row of their own (R172). LIST_x_BASE is the channel's, and an
offset that is not held is ignored (R171). -/
def Regs.written (r : Regs) (p : ParamReg) (v : Word) : Regs :=
  match p with
  | .replyWindow => { r with replyWindow := clamp 16 4095 v.toNat }
  | .guardTime => { r with guardTime := clamp 2 63 v.toNat }
  | .retryConfig => { r with retryLimit := bitsOf v 0 3, retryGap := clamp 1 255 (bitsOf v 8 8) }
  | .busyConfig => { r with busyLimit := clamp 1 255 (bitsOf v 0 8), busyGap := clamp 1 255 (bitsOf v 8 8) }
  | .faultThresholds =>
    { r with
      suspectThreshold := clamp 1 15 (bitsOf v 0 4), silentThreshold := clamp 1 15 (bitsOf v 8 4),
      lineFaultLimit := clamp 1 7 (bitsOf v 16 3) }
  | .deferDeadline => { r with deferDeadline := clamp 1 255 v.toNat }
  | .resetHold => { r with resetHold := clamp 1 255 v.toNat }
  | .windowHold => { r with windowHold := clamp 1 255 v.toNat }
  | .censusMask => { r with censusMask := v &&& stationBits }
  | .commandMask => { r with commandMask := v &&& stationBits }
  | .dirSelect => { r with dirSelect := selectStn v.toNat }
  | .xtSelect => { r with xtSelect := selectTag v.toNat }
  | .listBase _ | .unheld _ => r

/-- PARAMETER_WRITE (R172). -/
def execParameterWrite (p : ParamReg) (v : Word) (s : State) : Host.Outcome State Fault Refusal :=
  let s1 := { s with regs := s.regs.written p v }
  match p with
  | .listBase c => .next ((s1.modChan c fun ch => { ch with base := v }).answer .done)
  | .replyWindow | .guardTime | .retryConfig | .busyConfig | .faultThresholds | .deferDeadline | .resetHold
  | .windowHold | .censusMask | .commandMask | .dirSelect | .xtSelect | .unheld _ => .next (s1.answer .done)

/-- VIEW_SNAPSHOT (R171): a 32-bit read. Word 0 of a multi-word view takes a copy of the whole record first; the answer is
the word read. An offset that is no multiple of 4 is no 32-bit access, and is answered ERROR. -/
def execViewSnapshot (offset : BitVec 12) (s : State) : Host.Outcome State Fault Refusal :=
  if offset.toNat % 4 = 0 then
    let s1 := s.takeCopy offset.toNat
    .next (s1.answer (.doneWord (s1.readWord offset.toNat)))
  else .next (s.answer .error)

/-- REGISTER_ACCESS_ERROR (R171): answered ERROR; nothing changes. -/
def execRegisterAccessError (s : State) : Host.Outcome State Fault Refusal := .next (s.answer .error)

end Sys2Proof.Machine
end

