-- ==== Sys2Proof/Machine/StationCommands.lean ====
section
/-! DEFINITION. The station commands: CENSUS, hold, release, disable, enable, station reset, ACK_CHANGES (R30, R40 to R44,
R130). -/

namespace Sys2Proof.Machine

/-- The stations of a mask in ascending address order. -/
def maskStns (m : Word) : List Stn := allStns.filter (maskHas m)

/-- CENSUS (R30): an empty mask is refused BAD_ARGUMENT. -/
def execCensus (f : CmdFields) (s : State) : Host.Outcome State Fault Refusal :=
  if s.regs.commandMask &&& stationBits = 0#32 then .next (s.command .badArgument 0x04 f)
  else .next ((s.joinCensusAll (maskStns s.regs.commandMask)).command .accepted 0x04 f)

/-- STATION_HOLD (R40). -/
def execStationHold (f : CmdFields) (s : State) : Host.Outcome State Fault Refusal :=
  match stnOfField f.station with
  | none => .next (s.command .badArgument 0x08 f)
  | some n =>
    match (s.entry n).state with
    | .present | .suspect => .next ((s.moveTo n .held).command .accepted 0x08 f)
    | .vacant | .held | .recovering | .silent | .resync | .disabled => .next (s.command .badState 0x08 f)

/-- The effects of an accepted STATION_RELEASE (R41): SUSPECT or PRESENT by the failure count, and with the kept READY mark
the PARKED exchanges become WAITING and the mark is cleared. -/
def State.released (s : State) (n : Stn) : State :=
  let e := s.entry n
  let s1 := s.moveTo n (if s.regs.suspectThreshold ≤ e.failures then .suspect else .present)
  if e.keptReady then
    (s1.modEntry n fun e => { e with keptReady := false }).mapX fun _ x =>
      if x.dest = .station n ∧ x.state = .parked then { x with state := .waiting } else x
  else s1

/-- STATION_RELEASE (R41). -/
def execStationRelease (f : CmdFields) (s : State) : Host.Outcome State Fault Refusal :=
  match stnOfField f.station with
  | none => .next (s.command .badArgument 0x09 f)
  | some n =>
    if (s.entry n).state = .held then .next ((s.released n).recount.command .accepted 0x09 f)
    else .next (s.command .badState 0x09 f)

/-- The effects of an accepted STATION_DISABLE (R42). -/
def State.disabled (s : State) (n : Stn) : State :=
  let s1 :=
    ((s.moveTo n .disabled).modEntry n fun e =>
      { e with holdTimer := none, eventPending := false, purgeNeeded := false, keptReady := false, failures := 0 }).dropRecovery n
  { s1 with dir.census := s1.dir.census.filter (· != n) }

/-- STATION_DISABLE (R42): BAD_STATE when already DISABLED, BUSY while an exchange to the station is in flight. -/
def execStationDisable (f : CmdFields) (s : State) : Host.Outcome State Fault Refusal :=
  match stnOfField f.station with
  | none => .next (s.command .badArgument 0x0A f)
  | some n =>
    if (s.entry n).state = .disabled then .next (s.command .badState 0x0A f)
    else if s.inFlightTo n then .next (s.command .busy 0x0A f)
    else .next ((s.disabled n).command .accepted 0x0A f)

/-- The effects of an accepted STATION_ENABLE (R43): VACANT, the entry cleared but for the was-present mark, and with
auto-census on the station joins the census list. -/
def State.enabled (s : State) (n : Stn) : State :=
  let s1 := (s.modEntry n fun e => { Entry.reset with wasPresent := e.wasPresent }).noteChange n
  if s.regs.autoCensus then s1.joinCensus n else s1

/-- STATION_ENABLE (R43). -/
def execStationEnable (f : CmdFields) (s : State) : Host.Outcome State Fault Refusal :=
  match stnOfField f.station with
  | none => .next (s.command .badArgument 0x0B f)
  | some n =>
    if (s.entry n).state = .disabled then .next ((s.enabled n).recount.command .accepted 0x0B f)
    else .next (s.command .badState 0x0B f)

/-- STATION_RESET (R130): a RESET record joins the recovery list. -/
def execStationReset (f : CmdFields) (s : State) : Host.Outcome State Fault Refusal :=
  match stnOfField f.station with
  | none => .next (s.command .badArgument 0x0C f)
  | some n =>
    match (s.entry n).state with
    | .present | .suspect | .held | .resync | .recovering => .next ((s.placeReset n).command .accepted 0x0C f)
    | .vacant | .silent | .disabled => .next (s.command .badState 0x0C f)

/-- ACK_CHANGES (R44): the stations of COMMAND_MASK leave the change summary; any mask is accepted. -/
def execAckChanges (f : CmdFields) (s : State) : Host.Outcome State Fault Refusal :=
  .next (({ s with dir.changes := s.dir.changes &&& ~~~s.regs.commandMask }).command .accepted 0x1C f)

end Sys2Proof.Machine
end

