-- ==== Sys2Proof/Machine/StationWindow.lean ====
section
/-! DEFINITION. The station window: stores, loads and the expiry of the read hold (R154, R156, R158 to R160). -/

namespace Sys2Proof.Machine

/-- What the window asks the table for: 4 bytes, fence no (R156, R158). -/
def windowRequest (k : Kind) (n : Stn) (reg : BitVec 16) : Request where
  owner := .window
  kind := k
  dest := .station n
  regAddr := some reg
  length := some 4
  signalOp := none
  fence := false

/-- A posted write (R156): the exchange is created and the store's bytes are placed in its unit; RETRY at the quota. -/
def State.postWrite (s : State) (n : Stn) (reg : BitVec 16) (d : Bytes4) : State :=
  match s.create (windowRequest .write n reg) with
  | none => s.answer .retry
  | some (t, s1) =>
    let us := ((s1.xchg t).map (·.units)).getD []
    ({ s1 with store := writeUnits us 0 (bytesOf d) s1.store }).answer .done

/-- STATION_WINDOW_STORE: rows 1, 2, 4, 5 and 6 of R154. -/
def execStationWindowStore (offset : BitVec 17) (enables : BitVec 4) (d : Bytes4) (s : State) :
    Host.Outcome State Fault Refusal :=
  if windowWhole offset enables then
    match stnOfField (windowStation offset) with
    | none => .next (s.answer .error)
    | some n =>
      if (s.entry n).state.isOpen then .next (s.postWrite n (windowReg offset) d).recount
      else .next (s.answer .error)
  else .next (s.answer .error)

/-- The hold as a load of this station and register address matches it (R158): none, or whether it is READY and its tag. -/
def Hold.matching (h : Hold) (n : Stn) (reg : BitVec 16) : Option (Bool × Tag) :=
  match h with
  | .empty => none
  | .inFlight n' reg' t => if n' = n ∧ reg' = reg then some (false, t) else none
  | .ready n' reg' t => if n' = n ∧ reg' = reg then some (true, t) else none

/-- The answer to a claim from the held result (R159): the bytes of an OK or SHORT reply with the rest 0, else ERROR. -/
def State.claimAnswer (s : State) (t : Tag) : Answer :=
  match s.xchg t with
  | some x =>
    match x.result with
    | some r => if r.status.isFailure then .error else .doneBytes (bytes4 (readUnits x.units r.replyLength s.store))
    | none => .error
  | none => .error

/-- The hold is emptied and its exchange retired (R159, R160). -/
def State.dropHold (s : State) (t : Tag) : State :=
  { s.free t with window.hold := .empty, window.timer := none }

/-- A claim of the read hold (R159). -/
def State.claim (s : State) (ready : Bool) (t : Tag) : State :=
  if ready then (s.dropHold t).answer (s.claimAnswer t) else s.answer .retry

/-- A new delayed read (R158): the exchange is created and the hold becomes IN_FLIGHT; the answer is RETRY in every
case. -/
def State.startRead (s : State) (n : Stn) (reg : BitVec 16) : State :=
  match s.window.hold with
  | .inFlight _ _ _ | .ready _ _ _ => s.answer .retry
  | .empty =>
    match s.create (windowRequest .read n reg) with
    | none => s.answer .retry
    | some (t, s1) => ({ s1 with window.hold := .inFlight n reg t }).answer .retry

/-- STATION_WINDOW_LOAD: rows 1 to 4 and 7 to 9 of R154. -/
def execStationWindowLoad (offset : BitVec 17) (enables : BitVec 4) (s : State) : Host.Outcome State Fault Refusal :=
  if windowWhole offset enables then
    match stnOfField (windowStation offset) with
    | none => .next (s.answer .error)
    | some n =>
      let reg := windowReg offset
      match s.window.hold.matching n reg with
      | some (ready, t) => .next (s.claim ready t).recount
      | none =>
        if (s.entry n).state.isOpen then .next (s.startRead n reg).recount
        else .next (s.answer .error)
  else .next (s.answer .error)

/-- WINDOW_HOLD_EXPIRY (R160): the held READ is retired, the hold emptied, and DISCARDED entered in the fault record. No
effect where no hold timer runs. -/
def execWindowHoldExpiry (s : State) : Host.Outcome State Fault Refusal :=
  match s.window.hold, s.window.timer with
  | .ready n reg t, some _ =>
    .next
      ((s.dropHold t).enterWindowFault
        { station := n, reg := reg, dir := .read, status := .discarded, detail := none, uncertain := false }).recount
  | _, _ => .next s

end Sys2Proof.Machine
end

