-- ==== Sys2Proof/Machine/Timers.lean ====
section
/-! DEFINITION. The expiries of the backoff, deadline, hold, rediscovery and sweep interval timers (R34, R98, R111, R118,
R132). The expiry of a timer that does not run has no effect (log entry 1). -/

namespace Sys2Proof.Machine

/-- The carried status of a read given up on its deadline (R5). -/
def deadlineCarried : Carried := { status := .deferExpired, fault := none }

/-- BACKOFF_EXPIRY on a record (R111, R118): WAITING in the same phase, or the ABANDON phase when the deadline has run
out. -/
def Exchange.backoffEnds (x : Exchange) : Exchange :=
  if x.state = .backoff then
    if x.deadline = some .ranOut then x.toAbandon deadlineCarried
    else { x with state := .waiting, backoff := none }
  else x

/-- BACKOFF_EXPIRY (R118). -/
def execBackoffExpiry (t : Tag) (s : State) : Host.Outcome State Fault Refusal :=
  match s.xchg t with
  | none => .next s
  | some x => .next (s.setXchg t (some x.backoffEnds)).recount

/-- DEADLINE_EXPIRY on a record, by its state (R111): ABANDON from PARKED and WAITING; the expired mark in ON_LINE; run out
and kept in BACKOFF. A record without a running deadline is not reached. -/
def Exchange.deadlineEnds (x : Exchange) : Exchange :=
  match x.deadline with
  | none | some .ranOut => x
  | some (.running _) =>
    match x.state with
    | .parked | .waiting => x.toAbandon deadlineCarried
    | .onLine => { x with expired := true, deadline := some .ranOut }
    | .backoff => { x with deadline := some .ranOut }
    | .filling | .complete | .draining => x

/-- DEADLINE_EXPIRY (R111). -/
def execDeadlineExpiry (t : Tag) (s : State) : Host.Outcome State Fault Refusal :=
  match s.xchg t with
  | none => .next s
  | some x => .next (s.setXchg t (some x.deadlineEnds)).recount

/-- HOLD_TIMER_EXPIRY (R132): the hold timer of a RECOVERING station goes, and the station joins the census list. -/
def execHoldTimerExpiry (n : Stn) (s : State) : Host.Outcome State Fault Refusal :=
  match (s.entry n).holdTimer with
  | none => .next s
  | some _ =>
    if (s.entry n).state = .recovering then
      .next ((s.modEntry n fun e => { e with holdTimer := none }).joinCensus n)
    else .next s

/-- The SILENT stations in ascending address order. -/
def State.silentStns (s : State) : List Stn := allStns.filter fun n => (s.entry n).state == .silent

/-- REDISCOVERY_TIMER_EXPIRY (R34): every SILENT station joins the census list, and the timer is loaded again. -/
def execRediscoveryTimerExpiry (s : State) : Host.Outcome State Fault Refusal :=
  match s.dir.rediscovery with
  | none => .next s
  | some _ =>
    .next { s.joinCensusAll s.silentStns with dir.rediscovery := loadKbt s.regs.rediscoverInterval }

/-- SWEEP_INTERVAL_EXPIRY (R97, R98): the sweep-due flag is set, and the timer is loaded again. -/
def execSweepIntervalExpiry (s : State) : Host.Outcome State Fault Refusal :=
  match s.sweep.timer with
  | none => .next s
  | some _ => .next { s with sweep := { due := true, timer := loadKbt s.regs.sweepInterval } }

end Sys2Proof.Machine
end

