-- ==== Sys2Proof/Machine/Dispatch.lean ====
section
/-! DEFINITION. The one dispatch over commands: each arm calls its meaning. -/

namespace Sys2Proof.Machine

/-- The effect of a command on everything but the queue. -/
def exec (i : Instr) (s : State) : Host.Outcome State Fault Refusal :=
  match i with
  | .resetN => Sys2Proof.Machine.execResetN s
  | .linkStart f => Sys2Proof.Machine.execLinkStart f s
  | .linkStop f => Sys2Proof.Machine.execLinkStop f s
  | .linkReset f => Sys2Proof.Machine.execLinkReset f s
  | .census f => Sys2Proof.Machine.execCensus f s
  | .sweepNow f => Sys2Proof.Machine.execSweepNow f s
  | .stationHold f => Sys2Proof.Machine.execStationHold f s
  | .stationRelease f => Sys2Proof.Machine.execStationRelease f s
  | .stationDisable f => Sys2Proof.Machine.execStationDisable f s
  | .stationEnable f => Sys2Proof.Machine.execStationEnable f s
  | .stationReset f => Sys2Proof.Machine.execStationReset f s
  | .listStart f => Sys2Proof.Machine.execListStart f s
  | .listPause f => Sys2Proof.Machine.execListPause f s
  | .listResume f => Sys2Proof.Machine.execListResume f s
  | .listContinue f => Sys2Proof.Machine.execListContinue f s
  | .listAbort f => Sys2Proof.Machine.execListAbort f s
  | .eventPop f => Sys2Proof.Machine.execEventPop f s
  | .eventFlush f => Sys2Proof.Machine.execEventFlush f s
  | .ackChanges f => Sys2Proof.Machine.execAckChanges f s
  | .windowClearFault f => Sys2Proof.Machine.execWindowClearFault f s
  | .unknownCommand code f => Sys2Proof.Machine.execUnknownCommand code f s
  | .causeAck mask => Sys2Proof.Machine.execCauseAck mask s
  | .causeEnable mask => Sys2Proof.Machine.execCauseEnable mask s
  | .sweepIntervalWrite v => Sys2Proof.Machine.execSweepIntervalWrite v s
  | .rediscoverIntervalWrite v => Sys2Proof.Machine.execRediscoverIntervalWrite v s
  | .eventThresholdWrite v => Sys2Proof.Machine.execEventThresholdWrite v s
  | .linkConfigWrite v => Sys2Proof.Machine.execLinkConfigWrite v s
  | .parameterWrite r v => Sys2Proof.Machine.execParameterWrite r v s
  | .viewSnapshot offset => Sys2Proof.Machine.execViewSnapshot offset s
  | .registerAccessError => Sys2Proof.Machine.execRegisterAccessError s
  | .stationWindowStore offset enables data => Sys2Proof.Machine.execStationWindowStore offset enables data s
  | .stationWindowLoad offset enables => Sys2Proof.Machine.execStationWindowLoad offset enables s
  | .jobOffer => Sys2Proof.Machine.execJobOffer s
  | .requestFrameSent => Sys2Proof.Machine.execRequestFrameSent s
  | .bcastWriteSent => Sys2Proof.Machine.execBcastWriteSent s
  | .sweepFrameSent => Sys2Proof.Machine.execSweepFrameSent s
  | .replyStart => Sys2Proof.Machine.execReplyStart s
  | .replyWindowExpiry => Sys2Proof.Machine.execReplyWindowExpiry s
  | .replyReceived bytes => Sys2Proof.Machine.execReplyReceived bytes s
  | .earlyFramingFault => Sys2Proof.Machine.execEarlyFramingFault s
  | .lineSettled => Sys2Proof.Machine.execLineSettled s
  | .stuckLineTimeout => Sys2Proof.Machine.execStuckLineTimeout s
  | .contention => Sys2Proof.Machine.execContention s
  | .contentionWaitEnd => Sys2Proof.Machine.execContentionWaitEnd s
  | .slotsEnd slots => Sys2Proof.Machine.execSlotsEnd slots s
  | .breakEnd => Sys2Proof.Machine.execBreakEnd s
  | .guardEnd => Sys2Proof.Machine.execGuardEnd s
  | .wakeEnd => Sys2Proof.Machine.execWakeEnd s
  | .backoffExpiry t => Sys2Proof.Machine.execBackoffExpiry t s
  | .deadlineExpiry t => Sys2Proof.Machine.execDeadlineExpiry t s
  | .holdTimerExpiry n => Sys2Proof.Machine.execHoldTimerExpiry n s
  | .rediscoveryTimerExpiry => Sys2Proof.Machine.execRediscoveryTimerExpiry s
  | .sweepIntervalExpiry => Sys2Proof.Machine.execSweepIntervalExpiry s
  | .windowHoldExpiry => Sys2Proof.Machine.execWindowHoldExpiry s
  | .censusCreation => Sys2Proof.Machine.execCensusCreation s
  | .recoveryCreation => Sys2Proof.Machine.execRecoveryCreation s
  | .fetchEventCreation => Sys2Proof.Machine.execFetchEventCreation s
  | .payloadGrant => Sys2Proof.Machine.execPayloadGrant s
  | .portOperationStart => Sys2Proof.Machine.execPortOperationStart s
  | .descriptorFetchEnd c w0 w1 w2 w3 w4 => Sys2Proof.Machine.execDescriptorFetchEnd c w0 w1 w2 w3 w4 s
  | .fillEnd c bytes => Sys2Proof.Machine.execFillEnd c bytes s
  | .drainEnd c => Sys2Proof.Machine.execDrainEnd c s
  | .intakeStatusWriteEnd c => Sys2Proof.Machine.execIntakeStatusWriteEnd c s
  | .memoryFault c address => Sys2Proof.Machine.execMemoryFault c address s
  | .nopFenceFinish c => Sys2Proof.Machine.execNopFenceFinish c s
  | .channelHalt c => Sys2Proof.Machine.execChannelHalt c s
  | .abortEnd c => Sys2Proof.Machine.execAbortEnd c s

end Sys2Proof.Machine
end

