-- ==== Sys2Proof/Machine/Intake.lean ====
section
/-! DEFINITION. From an access of the register window to its row of the opcode table: the offset, the byte enables and the
word written (R171, R172, R173). -/

namespace Sys2Proof.Machine

/-- The command of a code, with the fields every write of COMMAND carries; a code not in the table is UNKNOWN_COMMAND
(R173). -/
def commandOf (code : BitVec 8) (f : CmdFields) : Instr :=
  match code.toNat with
  | 0x01 => .linkStart f
  | 0x02 => .linkStop f
  | 0x03 => .linkReset f
  | 0x04 => .census f
  | 0x05 => .sweepNow f
  | 0x08 => .stationHold f
  | 0x09 => .stationRelease f
  | 0x0A => .stationDisable f
  | 0x0B => .stationEnable f
  | 0x0C => .stationReset f
  | 0x10 => .listStart f
  | 0x11 => .listPause f
  | 0x12 => .listResume f
  | 0x13 => .listContinue f
  | 0x14 => .listAbort f
  | 0x18 => .eventPop f
  | 0x19 => .eventFlush f
  | 0x1C => .ackChanges f
  | 0x1D => .windowClearFault f
  | _ => .unknownCommand code f

/-- The station field (bits 12:8) and the channel bit (bit 16) of a word written to COMMAND (R173). -/
def commandFields (w : Word) : CmdFields where
  station := w.extractLsb' 8 5
  chan := if w.getLsbD 16 then .B else .A

/-- The command that a word written to COMMAND spells: the code is in bits 7:0 (R173). -/
def decodeCommand (w : Word) : Instr := commandOf (w.extractLsb' 0 8) (commandFields w)

/-- The registers of the map that take a write and have no row of their own (R171). -/
def paramAt (offset : BitVec 12) : ParamReg :=
  match offset.toNat with
  | 0x008 => .replyWindow
  | 0x00C => .guardTime
  | 0x010 => .retryConfig
  | 0x014 => .busyConfig
  | 0x018 => .faultThresholds
  | 0x020 => .deferDeadline
  | 0x024 => .resetHold
  | 0x02C => .windowHold
  | 0x030 => .censusMask
  | 0x044 => .commandMask
  | 0x060 => .dirSelect
  | 0x070 => .xtSelect
  | 0x100 => .listBase .A
  | 0x120 => .listBase .B
  | _ => .unheld offset

/-- A 32-bit access with all four byte enables; its offset is a multiple of 4 (R171). -/
def registerWhole (offset : BitVec 12) (enables : BitVec 4) : Bool := enables == 15#4 && offset.toNat % 4 == 0

/-- The row of a write to the register window (R171): any access that is not a whole one is answered ERROR. -/
def registerWrite (offset : BitVec 12) (enables : BitVec 4) (w : Word) : Instr :=
  if registerWhole offset enables then
    match offset.toNat with
    | 0x004 => .linkConfigWrite w
    | 0x01C => .sweepIntervalWrite w
    | 0x028 => .rediscoverIntervalWrite w
    | 0x040 => decodeCommand w
    | 0x0A4 => .eventThresholdWrite w
    | 0x0C4 => .causeEnable w
    | 0x0C8 => .causeAck w
    | _ => .parameterWrite (paramAt offset) w
  else .registerAccessError

/-- The row of a read of the register window (R171). -/
def registerRead (offset : BitVec 12) (enables : BitVec 4) : Instr :=
  if registerWhole offset enables then .viewSnapshot offset else .registerAccessError

end Sys2Proof.Machine
end

