-- ==== Sys2Proof/Machine/Symbols.lean ====
section
/-! DEFINITION. The symbols on the wire (R49, R50, R174): the patterns, the symbols of a byte and of a frame, what the unit
drives in each line state, and what its receiver makes of the symbols it sees (R70, R71, R75). -/

namespace Sys2Proof.Machine

/-! ## What is sent -/

/-- The levels of the two halves of a BT, `true` for high (R49, R174). -/
def halves : LineSym → List Bool
  | .one => [true, false]
  | .zero => [false, true]
  | .high => [true, true]
  | .low => [false, false]

/-- The symbol of a data bit. -/
def bitSym (b : Bool) : LineSym := if b then .one else .zero

/-- `n` BT of alternating data bits, starting with a 1 (R49, R78). -/
def alternating (n : Nat) : List LineSym := (List.range n).map fun i => if i % 2 = 0 then .one else .zero

/-- The preamble: 8 BT (R49). -/
def preamble : List LineSym := alternating 8

/-- The wake pattern: 512 BT, with no mark in it (R78). -/
def wakePattern : List LineSym := alternating Config.wakeLength

/-- The pattern of a mark (R174). -/
def Mark.pattern : Mark → List LineSym
  | .start => [.high, .low, .one, .zero]
  | .hand => [.low, .high, .zero, .one]
  | .fin => [.high, .high, .low, .low]

/-- The symbols of a break: the line low for its length (R76, R174). -/
def breakPattern : BreakKind → List LineSym
  | .short => List.replicate Config.shortBreak .low
  | .long => List.replicate Config.longBreak .low

/-- The 8 bits of a byte in the order of the wire, least significant first. -/
def byteBits (b : Byte) : List Bool := (List.range 8).map b.getLsbD

/-- A byte on the wire: a start bit of 0, the data bits, a stop bit of 1 (R50). -/
def byteSyms (b : Byte) : List LineSym := .zero :: (byteBits b).map bitSym ++ [.one]

/-- A frame on the wire: preamble, START, the bytes without a gap, the closing mark (R50). -/
def Frame.symbols (f : Frame) : List LineSym :=
  preamble ++ Mark.start.pattern ++ f.bytes.flatMap byteSyms ++ f.closing.pattern

/-- What the unit drives in its present line state, from the start of that state; nothing while its driver is disabled
(R67, R68, R69, R75, R76, R78). -/
def State.driven (s : State) : List LineSym :=
  if s.linkDE then
    match s.line.state with
    | .wake => wakePattern
    | .sending => (s.line.txFrame.map Frame.symbols).getD []
    | .break => (s.line.breakKind.map breakPattern).getD []
    | .off | .idle | .await | .receiving | .guard | .slots => []
  else []

/-- Contention (R75): the levels of the line, half BT by half BT, differ somewhere from the levels the unit drives in WAKE
or SENDING. -/
def State.contended (s : State) (levels : List Bool) : Bool :=
  (s.line.state == .wake || s.line.state == .sending) && !levels.isPrefixOf (s.driven.flatMap halves)

/-! ## What is received -/

/-- What the receiver has of a reply after its START mark: the bytes that are whole, the symbols of the byte or mark in
progress, and the BT of quiet since the last symbol. -/
structure Receiver where
  bytes : List Byte
  part : List LineSym
  quiet : Nat
  deriving DecidableEq, Repr

/-- The receiver after one BT: it goes on, the END mark is complete, or check 1 of R71 has failed early. -/
inductive Heard where
  | goesOn (r : Receiver)
  | ended (bytes : List Byte)
  | early
  deriving DecidableEq, Repr

/-- The byte whose bits these symbols are, least significant first. -/
def byteOf (l : List LineSym) : Byte :=
  l.foldr (fun y b => (b <<< 1) ||| (if y = .one then 1#8 else 0#8)) 0#8

/-- Every symbol is a data bit. -/
def dataOnly (l : List LineSym) : Bool := l.all fun y => y == .one || y == .zero

/-- The receiver takes a symbol (R50, R71, R174). The symbols in progress are the beginning of an END mark, or a byte: a
start bit of 0, data bits, and at the tenth BT a stop bit of 1. Any other H or L is a mark error. -/
def Receiver.takeSym (r : Receiver) (y : LineSym) : Heard :=
  let part := r.part ++ [y]
  if part = Mark.fin.pattern then .ended r.bytes
  else if part.isPrefixOf Mark.fin.pattern then .goesOn { r with part := part, quiet := 0 }
  else if part.head? = some .zero && dataOnly part then
    if part.length < 10 then .goesOn { r with part := part, quiet := 0 }
    else if y = .one then .goesOn { bytes := r.bytes ++ [byteOf ((part.drop 1).take 8)], part := [], quiet := 0 }
    else .early
  else .early

/-- The receiver takes one BT: a symbol, or quiet, which is read as no symbol and is a fault when it lasts more than 20 BT
(R71, R174). -/
def Receiver.takeBT (r : Receiver) : Option LineSym → Heard
  | some y => r.takeSym y
  | none => if 20 < r.quiet + 1 then .early else .goesOn { r with quiet := r.quiet + 1 }

/-- The receiver runs over the BT it sees until the frame has ended or failed. -/
def Receiver.run (r : Receiver) : List (Option LineSym) → Heard
  | [] => .goesOn r
  | o :: os =>
    match r.takeBT o with
    | .goesOn r' => r'.run os
    | .ended bytes => .ended bytes
    | .early => .early

/-- The row of the opcode table that the BT after a START mark bring about in RECEIVING: the end of a frame, an early
FRAMING fault, or none yet (R71, R72). -/
def receivedRow (bts : List (Option LineSym)) : Option Instr :=
  match ({ bytes := [], part := [], quiet := 0 } : Receiver).run bts with
  | .goesOn _ => none
  | .ended bytes => some (.replyReceived bytes)
  | .early => some .earlyFramingFault

/-- A START mark is complete in these BT. -/
def startComplete (bts : List (Option LineSym)) : Bool :=
  bts.tails.any fun l => (Mark.start.pattern.map some).isPrefixOf l

/-- The row that the BT since the HAND mark bring about in AWAIT: a START mark complete within the reply window, the first
2 BT of it not looked at, or the window's expiry, or none yet (R70). -/
def awaitRow (window : Nat) (bts : List (Option LineSym)) : Option Instr :=
  if startComplete ((bts.take window).drop 2) then some .replyStart
  else if window ≤ bts.length then some .replyWindowExpiry
  else none

end Sys2Proof.Machine
end

