-- ==== Sys2Proof/Safety.lean ====
section
/-! DEFINITION. What every step keeps: the invariants of the block as predicates on its state, and the relation that says
what a step leaves of an exchange. The statements for the provers are about these. -/

namespace Sys2Proof.Machine

/-! ## The Exchange Table -/

/-- Every creation list holds the tags of exactly its owner's non-FREE records, without duplicates (R4). -/
structure ListsAgree (s : State) : Prop where
  nodup : ∀ o, (s.table.creation o).Nodup
  mem : ∀ o tag, tag ∈ s.table.creation o ↔ ∃ x, s.xchg tag = some x ∧ x.owner = o

/-- The quotas of R3, the INTERNAL quota part by part, and which kinds are INTERNAL. -/
structure QuotasHold (s : State) : Prop where
  window : s.countX (fun x => x.owner == .window) ≤ 8
  list : ∀ c, s.countX (fun x => x.owner == .list c) ≤ 10
  census : s.countX (fun x => x.kind == .census) ≤ 1
  recovery : s.countX (fun x => x.kind == .purge || x.kind == .stationReset) ≤ 1
  fetch : s.countX (fun x => x.kind == .fetchEvent) ≤ 2
  internal : ∀ tag x, s.xchg tag = some x →
    (x.owner = .internal ↔ x.kind = .census ∨ x.kind = .purge ∨ x.kind = .stationReset ∨ x.kind = .fetchEvent)

/-- Payload units (R11): each exchange holds as many units as it needs, of its owner's partition, and no
unit is held twice. -/
structure UnitsDisjoint (s : State) : Prop where
  own : ∀ tag x u, s.xchg tag = some x → u ∈ x.units → (partition x.owner).1 ≤ u.val ∧ u.val < (partition x.owner).2
  need : ∀ tag x, s.xchg tag = some x → x.units.length = unitsNeeded x.kind x.length
  nodup : ∀ tag x, s.xchg tag = some x → x.units.Nodup
  apart : ∀ t₁ t₂ x y u, s.xchg t₁ = some x → s.xchg t₂ = some y → u ∈ x.units → u ∈ y.units → t₁ = t₂

/-- Each station's deferred count is the number of its unfinished exchanges in the COLLECT or ABANDON phase (R25,
R108). -/
def CountsAgree (s : State) : Prop := ∀ n, (s.entry n).deferred = s.deferredOf n

/-- A station whose deferrals have all ended: VACANT, SILENT, RECOVERING or DISABLED (R39, R42, R48, R131). -/
def StnState.noDeferrals : StnState → Bool
  | .vacant | .silent | .recovering | .disabled => true
  | .present | .suspect | .held | .resync => false

/-- No station has more deferrals than its capacity (R25, R89, R106); none stands at a station that is VACANT, SILENT,
RECOVERING or DISABLED; and a READ in the ISSUE phase is ON_LINE to no such station, and to one that can defer only with
room for it (R85, R89). -/
structure DeferralsFit (s : State) : Prop where
  capacity : ∀ n, (s.entry n).deferred ≤ (s.entry n).capacity
  closed : ∀ n, (s.entry n).state.noDeferrals = true → (s.entry n).deferred = 0
  room : ∀ n tag x, s.xchg tag = some x → x.dest = .station n → x.kind = .read → x.phase = .issue → x.state = .onLine →
    (s.entry n).state.noDeferrals = false ∧ ((s.entry n).capacity ≠ 0 → (s.entry n).deferred < (s.entry n).capacity)

/-- A fill, a drain and the completion list of a channel name exchanges of that channel that are FILLING, DRAINING and
COMPLETE (R6, R15, R138). -/
structure PortNamesItsOwn (s : State) : Prop where
  fill : ∀ c tag, (s.chan c).portOp = some (.fill tag) →
    ∃ x, s.xchg tag = some x ∧ x.owner = .list c ∧ x.state = .filling
  drain : ∀ c tag, (s.chan c).portOp = some (.drain tag) →
    ∃ x, s.xchg tag = some x ∧ x.owner = .list c ∧ x.state = .draining
  compl : ∀ c tag, tag ∈ s.table.compl c → ∃ x, s.xchg tag = some x ∧ x.owner = .list c ∧ x.state = .complete

/-- The exchange is the window's READ of this station and register address. -/
def Exchange.isWindowRead (x : Exchange) (n : Stn) (reg : BitVec 16) : Prop :=
  x.owner = .window ∧ x.kind = .read ∧ x.dest = .station n ∧ x.regAddr = some reg

/-- The window holds at most one READ, always the one the read hold names; it is unfinished while the hold is IN_FLIGHT
and COMPLETE while the hold is READY (R158, R159). -/
def HoldNamesItsRead (s : State) : Prop :=
  (match s.window.hold with
    | .empty => True
    | .inFlight n reg tag => ∃ x, s.xchg tag = some x ∧ x.isWindowRead n reg ∧ x.live = true
    | .ready n reg tag => ∃ x, s.xchg tag = some x ∧ x.isWindowRead n reg ∧ x.state = .complete) ∧
  ∀ tag x, s.xchg tag = some x → x.owner = .window → x.kind = .read →
    ∃ n reg, s.window.hold = .inFlight n reg tag ∨ s.window.hold = .ready n reg tag

/-- Phase, state and the fields that stand only in some of them agree (R1, R5, R6, R10, R15, R18, R112). -/
structure PhasesAgree (s : State) : Prop where
  filling : ∀ tag x, s.xchg tag = some x → x.state = .filling → x.phase = .issue
  parked : ∀ tag x, s.xchg tag = some x → x.state = .parked → x.phase = .collect
  read : ∀ tag x, s.xchg tag = some x → x.phase ≠ .issue → x.kind = .read
  backoff : ∀ tag x, s.xchg tag = some x → (x.backoff.isSome = true ↔ x.state = .backoff)
  deadline : ∀ tag x, s.xchg tag = some x → x.deadline.isSome = true → x.phase = .collect ∧ x.live = true
  carried : ∀ tag x, s.xchg tag = some x → (x.carried.isSome = true ↔ x.phase = .abandon ∧ x.live = true)
  expired : ∀ tag x, s.xchg tag = some x → x.expired = true → x.phase = .collect ∧ x.state = .onLine
  fillEnd : ∀ tag x, s.xchg tag = some x → x.fillEnd.isSome = true → x.state = .filling
  result : ∀ tag x, s.xchg tag = some x → (x.result.isSome = true ↔ x.live = false)

/-- What a step leaves of an exchange: all that its owner asked for, and the result of a finished one (R2, R7). -/
structure KeepsRequest (x y : Exchange) : Prop where
  owner : y.owner = x.owner
  kind : y.kind = x.kind
  dest : y.dest = x.dest
  regAddr : y.regAddr = x.regAddr
  length : y.length = x.length
  signalOp : y.signalOp = x.signalOp
  units : y.units = x.units
  fence : y.fence = x.fence
  finished : x.live = false → y.live = false ∧ y.result = x.result

/-! ## The line -/

/-- The line record is of a piece (R67, R68, R75, R76): break kind and cause stand exactly in BREAK, a job stands only in
the states that work on one, and the waits of R72 and R75 stand where those rules put them. -/
structure LineShape (s : State) : Prop where
  kind : s.line.breakKind.isSome = true ↔ s.line.state = .break
  cause : s.line.breakCause.isSome = true ↔ s.line.state = .break
  attempt : ∀ tag ph q, s.line.job = some (.attempt tag ph q) →
    s.line.state = .sending ∨ s.line.state = .await ∨ s.line.state = .receiving
  sweep : s.line.job = some .sweep → s.line.state = .sending ∨ s.line.state = .slots
  await : s.line.state = .await ∨ s.line.state = .receiving → ∃ tag ph q, s.line.job = some (.attempt tag ph q)
  slots : s.line.state = .slots → s.line.job = some .sweep
  sending : s.line.state = .sending → s.line.job = none → s.line.contentionWait = true
  wait : s.line.contentionWait = true → (s.line.state = .wake ∨ s.line.state = .sending) ∧ s.line.job = none
  settling : s.line.settling = true → s.line.state = .receiving

/-- An ON_LINE exchange is the current job's, so that there is at most one, and the line is SENDING, AWAIT or RECEIVING
(R6, R68). -/
def OneOnLine (s : State) : Prop :=
  ∀ tag x, s.xchg tag = some x → x.state = .onLine →
    (∃ ph q, s.line.job = some (.attempt tag ph q)) ∧
      (s.line.state = .sending ∨ s.line.state = .await ∨ s.line.state = .receiving)

/-- The command ends the current attempt, of the exchange `x` with this tag, with this verdict (R70, R71, R72, R75): the reply
window expires, the reply is judged at its END mark, an early FRAMING fault settles or meets a stuck line, or contention. -/
def State.endsAttempt (s : State) (i : Instr) (tag : Tag) (x : Exchange) (v : Verdict) : Prop :=
  (i = .replyWindowExpiry ∧ s.line.state = .await ∧ v = .lost .timeout) ∨
  (∃ bytes, i = .replyReceived bytes ∧ s.line.state = .receiving ∧ s.line.settling = false ∧
    judgeReply tag x bytes = .outcome v) ∨
  ((i = .lineSettled ∨ i = .stuckLineTimeout) ∧ s.line.state = .receiving ∧ s.line.settling = true ∧
    v = .lost .framing) ∨
  (i = .contention ∧ s.line.state = .sending ∧ s.line.contentionWait = false ∧ v = .lost .contention)

/-- The reply ends a WRITE of the window in a failure, with this status, reason or fault kind, and uncertain flag (R119, R120,
R126, R157). -/
def failsWrite (regs : Regs) (x : Exchange) (v : Verdict) (st : Status) (d : Option Detail) (uncertain : Bool) : Prop :=
  (∃ r, v = .reply r ∧ r.kind = .refuse ∧ st = .refused ∧ d = some (.reason r.reason) ∧ uncertain = false) ∨
  (∃ r, v = .reply r ∧ r.kind = .busy ∧ regs.busyLimit ≤ x.busyCount + 1 ∧ st = .busyExhausted ∧ d = none ∧
    uncertain = false) ∨
  ∃ k h, v = .sound k h ∧ st = .protocol ∧ d = some (.fault k) ∧ uncertain = x.unanswered

/-- A station state in which READY and EVENT signs act (R102, R103). -/
def StnState.takesSigns : StnState → Bool
  | .present | .suspect | .resync | .held | .recovering => true
  | .vacant | .silent | .disabled => false

/-- One non-idempotent request in doubt for each station (R87). The job of an attempt is its ON_LINE exchange; of the
WRITE, SIGNAL and FETCH_EVENT exchanges to a station at most one is ON_LINE or in BACKOFF or has its unanswered mark set;
and none is ON_LINE while the station's sequence-uncertain mark is set. -/
structure OneUnsettled (s : State) : Prop where
  job : ∀ tag ph q, s.line.job = some (.attempt tag ph q) → ∃ x, s.xchg tag = some x ∧ x.state = .onLine
  one : ∀ n t₁ t₂ x y, s.xchg t₁ = some x → s.xchg t₂ = some y → x.nonIdemActiveAt n = true ∨ x.unansweredAt n = true →
    y.nonIdemActiveAt n = true ∨ y.unansweredAt n = true → t₁ = t₂
  certain : ∀ n tag x, (s.entry n).seqUncertain = true → s.xchg tag = some x → x.kind.nonIdem = true →
    x.dest = .station n → x.state ≠ .onLine

/-! ## Lists, queue and ranges -/

/-- The census list has no station twice and no DISABLED one; the recovery list has one record for a station (R28,
R35). -/
structure DirectoryLists (s : State) : Prop where
  census : s.dir.census.Nodup
  disabled : ∀ n, n ∈ s.dir.census → (s.entry n).state ≠ .disabled
  recovery : (s.dir.recovery.map (·.1)).Nodup

/-- No exchange to a DISABLED station is in flight (R42). -/
def DisabledIsIdle (s : State) : Prop :=
  ∀ n tag x, (s.entry n).state = .disabled → s.xchg tag = some x → x.dest = .station n → x.live = false

/-- Every entry in the event queue and every FETCH_EVENT in flight has a place of the 16 (R163, R164). -/
def EventRoom (s : State) : Prop := s.events.queue.length + s.countX (fun x => x.kind == .fetchEvent) ≤ 16

/-- The registers hold values of their ranges (R172). -/
structure Regs.InRange (r : Regs) : Prop where
  replyWindow : 16 ≤ r.replyWindow ∧ r.replyWindow ≤ 4095
  guardTime : 2 ≤ r.guardTime ∧ r.guardTime ≤ 63
  retryLimit : r.retryLimit ≤ 7
  retryGap : 1 ≤ r.retryGap ∧ r.retryGap ≤ 255
  busyLimit : 1 ≤ r.busyLimit ∧ r.busyLimit ≤ 255
  busyGap : 1 ≤ r.busyGap ∧ r.busyGap ≤ 255
  suspectThreshold : 1 ≤ r.suspectThreshold ∧ r.suspectThreshold ≤ 15
  silentThreshold : 1 ≤ r.silentThreshold ∧ r.silentThreshold ≤ 15
  lineFaultLimit : 1 ≤ r.lineFaultLimit ∧ r.lineFaultLimit ≤ 7
  sweepInterval : r.sweepInterval ≤ 255
  deferDeadline : 1 ≤ r.deferDeadline ∧ r.deferDeadline ≤ 255
  resetHold : 1 ≤ r.resetHold ∧ r.resetHold ≤ 255
  rediscoverInterval : r.rediscoverInterval ≤ 255
  windowHold : 1 ≤ r.windowHold ∧ r.windowHold ≤ 255
  eventThreshold : 1 ≤ r.eventThreshold ∧ r.eventThreshold ≤ 16
  censusMask : r.censusMask &&& ~~~stationBits = 0#32
  commandMask : r.commandMask &&& ~~~stationBits = 0#32

/-- Counts, capacities and cause sets stay in the ranges the manual gives them (R25, R67, R77, R167, R169). -/
structure CountsInRange (s : State) : Prop where
  faultCount : s.line.faultCount ≤ 7
  failures : ∀ n, (s.entry n).failures ≤ 15
  capacity : ∀ n, (s.entry n).capacity ≤ 3
  edge : s.irq.edge &&& ~~~edgeCauses = 0#32
  enable : s.irq.enable &&& ~~~allCauses = 0#32

/-! ## What an eligible exchange has satisfied -/

/-- One exchange of an owner stands nearer the head of the creation list than another (R4). -/
def State.earlier (s : State) (o : Owner) (t' t : Tag) : Prop :=
  ∃ a b c, s.table.creation o = a ++ t' :: b ++ t :: c

end Sys2Proof.Machine
end

