-- ==== Sys2Proof/WellFormed.lean ====
section
/-! DEFINITION. Which terms of `Instr` stand for a step of the hardware: checks on a command's operands alone. -/

namespace Sys2Proof

/-- The command codes of the table of R173. -/
def commandCodes : List (BitVec 8) :=
  [0x01#8, 0x02#8, 0x03#8, 0x04#8, 0x05#8, 0x08#8, 0x09#8, 0x0A#8, 0x0B#8, 0x0C#8,
   0x10#8, 0x11#8, 0x12#8, 0x13#8, 0x14#8, 0x18#8, 0x19#8, 0x1C#8, 0x1D#8]

/-- The offsets of the registers that take a write (R171), COMMAND and CAUSE_ACK among them. -/
def writableOffsets : List (BitVec 12) :=
  [0x004#12, 0x008#12, 0x00C#12, 0x010#12, 0x014#12, 0x018#12, 0x01C#12, 0x020#12, 0x024#12, 0x028#12, 0x02C#12,
   0x030#12, 0x040#12, 0x044#12, 0x060#12, 0x070#12, 0x0A4#12, 0x0C4#12, 0x0C8#12, 0x100#12, 0x120#12]

/-- A register-window offset of a 32-bit access is a multiple of 4 (R171). -/
def alignedOffset (offset : BitVec 12) : Bool := offset.toNat % 4 == 0

/-- The operand checks. `unknownCommand` carries a code outside the table; an `unheld` write goes to an aligned offset
that takes no write; a read is aligned; a report has 30 slots; a fill brings 1 to 256 bytes. Every other term is
well formed by its type. -/
def wellFormed : Instr → Bool
  | .unknownCommand code _ => !commandCodes.contains code
  | .parameterWrite (.unheld offset) _ => alignedOffset offset && !writableOffsets.contains offset
  | .viewSnapshot offset => alignedOffset offset
  | .slotsEnd slots => slots.length == 30
  | .fillEnd _ bytes => decide (1 ≤ bytes.length) && decide (bytes.length ≤ 256)
  | _ => true

end Sys2Proof
end

