-- ==== Sys2Proof/Certificates/Slice0/Obligations.lean ====
section
/-! DEFINITION. The statements for the provers. -/

section

open Sys2Proof Sys2Proof.Machine

/-! ## A step, and the resets -/

/-- A step takes the front command and is `exec` of it on the rest of the queue. -/
def Obligations.StepRunsTheFrontCommand : Prop :=
  ∀ (c : Instr) (rest : List Instr) (s : State), s.pending = c :: rest → step s = exec c { s with pending := rest }

/-- On an empty queue a step changes nothing (the model's choice, log entry 2); every command answers a next state and
leaves the commands still waiting as they are. -/
def Obligations.EmptyQueueIdlesAndNothingStops : Prop :=
  (∀ s : State, s.pending = [] → step s = .next s) ∧
  (∀ (c : Instr) (s : State), ∃ t, exec c s = .next t ∧ t.pending = s.pending)

/-- R46: what RESET_N leaves in the directory and its registers. -/
def Obligations.ResetNClearsTheDirectory : Prop :=
  ∀ s : State, ∃ t, exec .resetN s = .next t ∧
    (∀ n, t.entry n =
      { state := .vacant, cls := none, revision := none, capacity := 0, epoch := none, seqBit := false,
        seqUncertain := false, purgeNeeded := false, deferred := 0, eventPending := false, keptReady := false,
        failures := 0, holdTimer := none, wasPresent := false, lastCensus := none }) ∧
    t.dir.census = [] ∧ t.dir.recovery = [] ∧ t.dir.changes = 0#32 ∧ t.dir.rediscovery = none ∧
    addrOf t.regs.dirSelect = 1 ∧ t.regs.autoCensus = true ∧ (∀ n, maskHas t.regs.censusMask n = true) ∧
    ∀ tag, t.xchg tag = none

/-- What RESET_N leaves in the other blocks, the rate in force and the copies of the views among them, and the register words
then (R24, R67, R83, R97, R136, R152, R155, R163,
R170,
R171, R172). That the commands still waiting and the free-value counter stay is the model's choice (log entry 21), and
that the store then reads as zero is too (log entry 3). -/
def Obligations.ResetNClearsTheOtherBlocks : Prop :=
  (∀ s : State, ∃ t, exec .resetN s = .next t ∧
     (∀ o, t.table.creation o = []) ∧ (∀ c, t.table.compl c = []) ∧ t.table.waitList = [] ∧
     (∀ a, Memory.read t.store a = 0#8) ∧
     t.line.state = .off ∧ t.line.breakKind = none ∧ t.line.breakCause = none ∧ t.line.job = none ∧
     t.line.frameWhole = false ∧ t.line.faultCount = 0 ∧ t.line.readyPending = false ∧ t.line.lastFault = none ∧
     t.line.rate = 0#2 ∧ t.line.txFrame = none ∧ t.line.timer = none ∧
     t.views =
       { line := #v[0#32, 0#32], dir := #v[0#32, 0#32], xt := #v[0#32, 0#32], windowFault := #v[0#32, 0#32]
         eventHead := #v[0#32, 0#32, 0#32, 0#32], listA := #v[0#32, 0#32, 0#32], listB := #v[0#32, 0#32, 0#32] } ∧
     t.linkDE = false ∧ t.pointer = .listB ∧ t.sweep.due = false ∧ t.sweep.timer = none ∧
     (∀ c, (t.chan c).state = .idle ∧ (t.chan c).haltCause = none ∧ (t.chan c).cancel = .none ∧ (t.chan c).base = 0#32 ∧
       (t.chan c).next = 0#32 ∧ (t.chan c).head = 0#32 ∧ (t.chan c).retired = 0#32 ∧ (t.chan c).endMark = false ∧
       (t.chan c).queue = [] ∧ (t.chan c).pendingDesc = none ∧ (t.chan c).portOp = none ∧ (t.chan c).memFault = none) ∧
     t.portLast = .B ∧ t.window.hold = .empty ∧ t.window.timer = none ∧ t.window.fault = none ∧
     t.window.overflow = false ∧ t.events.queue = [] ∧ addrOf t.events.lastServed = 30 ∧ t.pendingCauses = 0#32 ∧
     t.irq.enable = 0#32 ∧ t.irqAsserted = false ∧ t.freeCount = s.freeCount ∧ t.pending = s.pending) ∧
  (∀ s : State, ∃ t, exec .resetN s = .next t ∧
     t.readWord 0x000 = 0x00010030#32 ∧ t.readWord 0x004 = 0x20#32 ∧ t.readWord 0x008 = 256#32 ∧
     t.readWord 0x00C = 8#32 ∧ t.readWord 0x010 = 0x403#32 ∧ t.readWord 0x014 = 0x1010#32 ∧
     t.readWord 0x018 = 0x30804#32 ∧ t.readWord 0x01C = 0#32 ∧ t.readWord 0x020 = 64#32 ∧ t.readWord 0x024 = 32#32 ∧
     t.readWord 0x028 = 0#32 ∧ t.readWord 0x02C = 64#32 ∧ t.readWord 0x030 = 0x7FFFFFFE#32 ∧ t.readWord 0x044 = 0#32 ∧
     t.readWord 0x048 = 0#32 ∧ t.readWord 0x060 = 1#32 ∧ t.readWord 0x070 = 0#32 ∧ t.readWord 0x080 = 0#32 ∧
     t.readWord 0x0A0 = 0#32 ∧ t.readWord 0x0A4 = 1#32 ∧ t.readWord 0x0C0 = 0#32 ∧ t.readWord 0x0C4 = 0#32 ∧
     t.readWord 0x100 = 0#32 ∧ t.readWord 0x120 = 0#32)

/-! ## The command port -/

/-- What a write of COMMAND shows (R173): the answer DONE, and in COMMAND_STATUS the refused bit, the refusal code, the
command code, the station field and the channel bit. -/
def Obligations.CommandStatusShowsTheVerdict : Prop :=
  ∀ (s : State) (v : CmdVerdict) (code : BitVec 8) (f : CmdFields),
    s.command v code.toNat f = { s with regs.commandStatus := commandStatusWord v code.toNat f, bus.answer := some .done } ∧
    (commandStatusWord v code.toNat f).getLsbD 0 = (v != .accepted) ∧
    ((commandStatusWord v code.toNat f).extractLsb' 1 3).toNat = v.code ∧
    (commandStatusWord v code.toNat f).extractLsb' 8 8 = code ∧
    (commandStatusWord v code.toNat f).extractLsb' 16 5 = f.station ∧
    (commandStatusWord v code.toNat f).getLsbD 24 = (f.chan == .B)

/-- LINK_START (R78, R28, R34, R83, R98): the line, the pointer, the two interval timers, and with auto-census on the
VACANT stations of CENSUS_MASK at the tail of the census list in address order. -/
def Obligations.LinkStart : Prop :=
  ∀ (f : CmdFields) (s : State),
    (s.line.state = .off → exec (.linkStart f) s = .next
      (({ s with
          line := { s.line with state := .wake, rate := s.regs.rate, faultCount := 0, readyPending := true, timer := some 512 }
          pointer := .listB
          dir := { s.dir with
            rediscovery := if s.regs.rediscoverInterval = 0 then none else some (s.regs.rediscoverInterval * 1024)
            census := if s.regs.autoCensus then
                s.dir.census ++ allStns.filter fun n =>
                  (s.entry n).state == .vacant && maskHas s.regs.censusMask n && !s.dir.census.contains n
              else s.dir.census }
          sweep := { s.sweep with
            timer := if s.regs.sweepInterval = 0 then none else some (s.regs.sweepInterval * 1024) } } : State).command
        .accepted 0x01 f)) ∧
    (s.line.state ≠ .off → exec (.linkStart f) s = .next (s.command .badState 0x01 f))

/-- LINK_STOP (R79, R48, R97, R98): accepted with the line IDLE, the table empty and the census and recovery lists
empty; refused BUSY otherwise. -/
def Obligations.LinkStop : Prop :=
  ∀ (f : CmdFields) (s : State), CountsAgree s →
    let idle := s.line.state = .idle ∧ (∀ tag, s.xchg tag = none) ∧ s.dir.census = [] ∧ s.dir.recovery = []
    (idle → ∃ t, exec (.linkStop f) s = .next t ∧
      (∀ n, t.entry n = if (s.entry n).state = .disabled then s.entry n else Entry.reset) ∧
      (∀ n, maskHas t.dir.changes n =
        (maskHas s.dir.changes n || ((s.entry n).state != .disabled && (s.entry n).state != .vacant))) ∧
      t.dir.census = [] ∧ t.dir.recovery = [] ∧ t.dir.rediscovery = none ∧
      t = ({ s with
        dir := t.dir
        line := { s.line with state := .off, faultCount := 0, readyPending := false, timer := none }
        sweep := { due := false, timer := none } } : State).command .accepted 0x02 f) ∧
    (¬idle → exec (.linkStop f) s = .next (s.command .busy 0x02 f))

/-- SWEEP_NOW (R99). -/
def Obligations.SweepNow : Prop :=
  ∀ (f : CmdFields) (s : State),
    (s.line.state = .off → exec (.sweepNow f) s = .next (s.command .badState 0x05 f)) ∧
    (s.line.state ≠ .off → exec (.sweepNow f) s = .next
      (({ s with sweep := { s.sweep with due := true } } : State).command .accepted 0x05 f))

/-- LINK_RESET on the line: it is refused in OFF and in a long break; otherwise the line goes into the long break (R80,
R76), the sweep is discarded (R97, R98), and the parameters, last fault, the payload bytes, the event queue, the views'
copies and the enable set are kept.
LINK_RESET on the table (R21, R18): an exchange that is COMPLETE or DRAINING is not touched; a FILLING one gets the
reset mark unless an earlier mark stands; a channel's other exchanges, and the window's READ, complete LINK_RESET with
the uncertain flag of R17; the window's WRITE and the INTERNAL exchanges go FREE. -/
def Obligations.LinkResetLineAndRecords : Prop :=
  (∀ (f : CmdFields) (s : State),
     (s.line.state = .off → exec (.linkReset f) s = .next (s.command .badState 0x03 f)) ∧
     (s.line.state = .break → s.line.breakKind = some .long →
       exec (.linkReset f) s = .next (s.command .busy 0x03 f)) ∧
     (s.line.state ≠ .off → ¬(s.line.state = .break ∧ s.line.breakKind = some .long) →
       ∃ t, exec (.linkReset f) s = .next t ∧
         t.line = { s.line with
           state := .break, breakKind := some .long, breakCause := some .linkReset, job := none, faultCount := 0,
           readyPending := true, txFrame := none, timer := some 256, contentionWait := false, settling := false } ∧
         t.sweep =
           { due := false, timer := if s.regs.sweepInterval = 0 then none else some (s.regs.sweepInterval * 1024) } ∧
         t.store = s.store ∧ t.pointer = s.pointer ∧ t.portLast = s.portLast ∧ t.events = s.events ∧
         t.irq.enable = s.irq.enable ∧ t.views = s.views ∧ t.dir.rediscovery = s.dir.rediscovery ∧
         t.regs = { s.regs with commandStatus := commandStatusWord .accepted 0x03 f })) ∧
  (∀ (f : CmdFields) (s : State), s.line.state ≠ .off → ¬(s.line.state = .break ∧ s.line.breakKind = some .long) →
     ∃ t, exec (.linkReset f) s = .next t ∧
       (∀ tag, s.xchg tag = none → t.xchg tag = none) ∧
       ∀ tag x, s.xchg tag = some x →
         (x.state = .complete ∨ x.state = .draining → t.xchg tag = some x) ∧
         (x.state = .filling →
           t.xchg tag = some { x with fillEnd := if x.fillEnd = none then some .linkReset else x.fillEnd }) ∧
         (x.live = true → x.state ≠ .filling → x.owner = .internal ∨ (x.owner = .window ∧ x.kind = .write) →
           t.xchg tag = none) ∧
         (x.live = true → x.state ≠ .filling → (∃ c, x.owner = .list c) ∨ (x.owner = .window ∧ x.kind ≠ .write) →
           t.xchg tag = some
             { x with
               state := .complete, backoff := none, deadline := none, expired := false, carried := none, fillEnd := none
               result := some
                 { status := .linkReset, detail := none, replyLength := 0, repeated := false,
                   uncertain := x.kind.nonIdem && x.unanswered, epochSeen := x.epochSeen, attempts := x.attempts } }))

/-- LINK_RESET on a station's entry (R47): the counts and marks it clears, the states that become PRESENT and join the
change summary, the sequence-uncertain mark of an unknown outcome (R126) and what is kept.
LINK_RESET on the census list, the recovery list and the channels (R33, R47, R126, R152): with no unknown outcome the
census list keeps its order, the census that the reset ends at its head; the stations of unknown outcomes are in it;
PURGE records leave the recovery list, and a STATION_RESET that the reset ends is back at its head; a RUNNING or PAUSED
channel is STOPPING or HALTED with cause LINK_RESET, the others stay.
That cause LINK_RESET stands for every RUNNING or PAUSED channel, even with a STOP_ON_FAIL descriptor in flight, and that
the RESET record is back at the head where a PURGE record of its station leaves in the same step, rest on the model's order
inside the reset (log entry 13).
LINK_RESET on the station window (R162, R159, R161): a READY hold and its timer are kept; an IN_FLIGHT hold becomes READY
with its READ completed LINK_RESET and the hold timer loaded; of the window's unfinished exchanges the earliest created is
entered in an empty fault record, with WINDOW_FAULT raised, and the others set the overflow flag. -/
def Obligations.LinkResetDirectoryAndChannels : Prop :=
  (∀ (f : CmdFields) (s : State), ListsAgree s → PhasesAgree s → s.line.state ≠ .off →
     ¬(s.line.state = .break ∧ s.line.breakKind = some .long) →
     ∃ t, exec (.linkReset f) s = .next t ∧ ∀ n,
       (t.entry n).deferred = 0 ∧ (t.entry n).purgeNeeded = false ∧ (t.entry n).keptReady = false ∧
       (t.entry n).failures = 0 ∧
       (t.entry n).state =
         (if (s.entry n).state = .suspect ∨ (s.entry n).state = .resync then .present else (s.entry n).state) ∧
       ((s.entry n).state = .suspect ∨ (s.entry n).state = .resync ∨ maskHas s.dir.changes n = true ↔
         maskHas t.dir.changes n = true) ∧
       ((t.entry n).seqUncertain = true ↔ (s.entry n).seqUncertain = true ∨
         ∃ tag x, s.xchg tag = some x ∧ x.dest = .station n ∧ x.live = true ∧ x.kind.nonIdem = true ∧
           x.unanswered = true ∧ x.state ≠ .filling) ∧
       (t.entry n).epoch = (s.entry n).epoch ∧ (t.entry n).seqBit = (s.entry n).seqBit ∧
       (t.entry n).cls = (s.entry n).cls ∧ (t.entry n).revision = (s.entry n).revision ∧
       (t.entry n).capacity = (s.entry n).capacity ∧ (t.entry n).eventPending = (s.entry n).eventPending ∧
       (t.entry n).holdTimer = (s.entry n).holdTimer ∧ (t.entry n).wasPresent = (s.entry n).wasPresent ∧
       ((∃ tag x, s.xchg tag = some x ∧ x.kind = .census ∧ x.live = true ∧ x.dest = .station n) →
         (t.entry n).lastCensus = some { status := .linkReset, stationFault := false }) ∧
       ((∀ tag x, s.xchg tag = some x → x.kind = .census → x.live = true → x.dest ≠ .station n) →
         (t.entry n).lastCensus = (s.entry n).lastCensus)) ∧
  (∀ (f : CmdFields) (s : State), ListsAgree s → QuotasHold s → s.line.state ≠ .off →
     ¬(s.line.state = .break ∧ s.line.breakKind = some .long) →
     let unknown (x : Exchange) : Prop :=
       x.live = true ∧ x.state ≠ .filling ∧ x.kind.nonIdem = true ∧ x.unanswered = true
     ∃ t, exec (.linkReset f) s = .next t ∧
       ((∀ tag x, s.xchg tag = some x → ¬unknown x) →
         (∀ tag x, s.xchg tag = some x → x.kind = .census → x.live = false) → t.dir.census = s.dir.census) ∧
       ((∀ tag x, s.xchg tag = some x → ¬unknown x) →
         ∀ tag x n, s.xchg tag = some x → x.kind = .census → x.live = true → x.dest = .station n →
           (s.entry n).state ≠ .disabled → n ∉ s.dir.census → t.dir.census = n :: s.dir.census) ∧
       (∀ tag x n, s.xchg tag = some x → unknown x → x.dest = .station n → (s.entry n).state ≠ .disabled →
         n ∈ t.dir.census) ∧
       ((∀ tag x, s.xchg tag = some x → x.kind = .stationReset → x.live = false) →
         t.dir.recovery = s.dir.recovery.filter fun r => r.2 != .purge) ∧
       (∀ tag x n, s.xchg tag = some x → x.kind = .stationReset → x.live = true → x.dest = .station n →
         (∀ r ∈ s.dir.recovery, r.1 = n → r.2 = .purge) →
         t.dir.recovery = (n, .reset) :: s.dir.recovery.filter fun r => r.2 != .purge) ∧
       ∀ c, (t.chan c).next = (s.chan c).next ∧ (t.chan c).head = (s.chan c).head ∧
         (t.chan c).retired = (s.chan c).retired ∧ (t.chan c).memFault = (s.chan c).memFault ∧
         ((s.chan c).state = .running ∨ (s.chan c).state = .paused →
           ((t.chan c).state = .stopping ∨ (t.chan c).state = .halted) ∧ (t.chan c).haltCause = some .linkReset) ∧
         ((s.chan c).state ≠ .running → (s.chan c).state ≠ .paused →
           (t.chan c).state = (s.chan c).state ∧ (t.chan c).haltCause = (s.chan c).haltCause)) ∧
  (∀ (f : CmdFields) (s : State), ListsAgree s → HoldNamesItsRead s → s.line.state ≠ .off →
     ¬(s.line.state = .break ∧ s.line.breakKind = some .long) →
     (∀ tag x, s.xchg tag = some x → x.owner = .window →
       (x.kind = .write ∨ x.kind = .read) ∧ x.state ≠ .filling ∧ ∃ n reg, x.dest = .station n ∧ x.regAddr = some reg) →
     let ended := s.table.winList.filter fun tag => (s.xchg tag).any Exchange.live
     let entry (x : Exchange) : Option WinFault :=
       match x.dest, x.regAddr with
       | .station n, some reg => some
           { station := n, reg := reg, dir := if x.kind = .read then .read else .write, status := .linkReset, detail := none
             uncertain := x.kind.nonIdem && x.unanswered }
       | _, _ => none
     ∃ t, exec (.linkReset f) s = .next t ∧
       (s.window.hold = .empty → t.window.hold = .empty ∧ t.window.timer = s.window.timer) ∧
       (∀ n reg tag, s.window.hold = .ready n reg tag →
         t.window.hold = s.window.hold ∧ t.window.timer = s.window.timer ∧ t.xchg tag = s.xchg tag) ∧
       (∀ n reg tag, s.window.hold = .inFlight n reg tag →
         t.window.hold = .ready n reg tag ∧ t.window.timer = some (s.regs.windowHold * 64) ∧
         ∃ y, t.xchg tag = some y ∧ y.state = .complete ∧ y.result.map (·.status) = some .linkReset) ∧
       (ended = [] → t.window.fault = s.window.fault ∧ t.window.overflow = s.window.overflow) ∧
       (s.window.fault ≠ none → t.window.fault = s.window.fault ∧
         t.window.overflow = (s.window.overflow || !ended.isEmpty) ∧ t.irq.edge.getLsbD 4 = s.irq.edge.getLsbD 4) ∧
       ∀ tag rest x, s.window.fault = none → ended = tag :: rest → s.xchg tag = some x →
         t.window.fault = entry x ∧ t.window.overflow = (s.window.overflow || !rest.isEmpty) ∧
         t.irq.edge.getLsbD 4 = true)

/-! ## Station commands -/

/-- CENSUS (R30, R28): an empty mask is refused; the stations of the mask that are neither in the list nor DISABLED join
its tail in address order, in any line state, OFF among them, and nothing else changes. -/
def Obligations.CensusCommand : Prop :=
  ∀ (f : CmdFields) (s : State),
    (s.regs.commandMask &&& stationBits = 0#32 → exec (.census f) s = .next (s.command .badArgument 0x04 f)) ∧
    (s.regs.commandMask &&& stationBits ≠ 0#32 → exec (.census f) s = .next
      (({ s with dir := { s.dir with
            census := s.dir.census ++ allStns.filter fun n =>
              maskHas s.regs.commandMask n && (s.entry n).state != .disabled && !s.dir.census.contains n } } : State).command
        .accepted 0x04 f))

/-- STATION_HOLD (R40, R44): a PRESENT or SUSPECT station becomes HELD and joins the change summary; in any other
state the command is refused BAD_STATE.
STATION_RELEASE (R41, R44): the state by the failure count; with the kept READY mark set the mark goes and the
station's PARKED exchanges become WAITING, and no other exchange, entry or block changes. The addresses 0 and 31 are
refused BAD_ARGUMENT (R173). -/
def Obligations.StationHoldAndRelease : Prop :=
  ((∀ (f : CmdFields) (s : State), f.station = 0#5 ∨ f.station = 31#5 →
     exec (.stationHold f) s = .next (s.command .badArgument 0x08 f)) ∧
   ∀ (f : CmdFields) (n : Stn) (s : State), f.station.toNat = addrOf n →
     ((s.entry n).state = .present ∨ (s.entry n).state = .suspect →
       exec (.stationHold f) s = .next
         (({ s with dir := { s.dir with
               entries := s.dir.entries.set n { s.entry n with state := .held }
               changes := s.dir.changes ||| 1#32 <<< addrOf n } } : State).command .accepted 0x08 f)) ∧
     ((s.entry n).state ≠ .present → (s.entry n).state ≠ .suspect →
       exec (.stationHold f) s = .next (s.command .badState 0x08 f))) ∧
  ((∀ (f : CmdFields) (s : State), f.station = 0#5 ∨ f.station = 31#5 →
     exec (.stationRelease f) s = .next (s.command .badArgument 0x09 f)) ∧
   ∀ (f : CmdFields) (n : Stn) (s : State), f.station.toNat = addrOf n → CountsAgree s →
     ((s.entry n).state ≠ .held → exec (.stationRelease f) s = .next (s.command .badState 0x09 f)) ∧
     ((s.entry n).state = .held → ∃ t, exec (.stationRelease f) s = .next t ∧
       t.entry n = { s.entry n with
         state := if s.regs.suspectThreshold ≤ (s.entry n).failures then .suspect else .present
         keptReady := false } ∧
       (∀ m, m ≠ n → t.entry m = s.entry m) ∧
       (∀ tag, t.xchg tag = (s.xchg tag).map fun x =>
         if (s.entry n).keptReady = true ∧ x.dest = .station n ∧ x.state = .parked then { x with state := .waiting }
         else x) ∧
       t = ({ s with
         table := { s.table with xs := t.table.xs }
         dir := { s.dir with entries := t.dir.entries, changes := s.dir.changes ||| 1#32 <<< addrOf n } } : State).command
           .accepted 0x09 f))

/-- STATION_DISABLE (R42, R44): refused BAD_STATE when DISABLED and BUSY while an exchange to the station is in flight;
accepted, the station becomes DISABLED, leaves both lists, and loses the hold timer and the marks R42 names. The
addresses 0 and 31 are refused BAD_ARGUMENT (R173). -/
def Obligations.StationDisable : Prop :=
  (∀ (f : CmdFields) (s : State), f.station = 0#5 ∨ f.station = 31#5 →
    exec (.stationDisable f) s = .next (s.command .badArgument 0x0A f)) ∧
  ∀ (f : CmdFields) (n : Stn) (s : State), f.station.toNat = addrOf n →
    let busy := ∃ tag x, s.xchg tag = some x ∧ x.dest = .station n ∧ x.state ≠ .complete ∧ x.state ≠ .draining
    ((s.entry n).state = .disabled → exec (.stationDisable f) s = .next (s.command .badState 0x0A f)) ∧
    ((s.entry n).state ≠ .disabled → busy → exec (.stationDisable f) s = .next (s.command .busy 0x0A f)) ∧
    ((s.entry n).state ≠ .disabled → ¬busy → exec (.stationDisable f) s = .next
      (({ s with dir := { s.dir with
            entries := s.dir.entries.set n { s.entry n with
              state := .disabled, holdTimer := none, eventPending := false, purgeNeeded := false, keptReady := false,
              failures := 0 }
            changes := s.dir.changes ||| 1#32 <<< addrOf n
            census := s.dir.census.filter (· != n)
            recovery := s.dir.recovery.filter fun r => r.1 != n } } : State).command .accepted 0x0A f))

/-- STATION_ENABLE (R43): refused BAD_STATE unless DISABLED; the station becomes VACANT with its entry cleared except
for the was-present mark, and with auto-census on it joins the census list. The addresses 0 and 31 are refused
BAD_ARGUMENT (R173). -/
def Obligations.StationEnable : Prop :=
  (∀ (f : CmdFields) (s : State), f.station = 0#5 ∨ f.station = 31#5 →
    exec (.stationEnable f) s = .next (s.command .badArgument 0x0B f)) ∧
  ∀ (f : CmdFields) (n : Stn) (s : State), f.station.toNat = addrOf n → CountsAgree s → DisabledIsIdle s →
    ((s.entry n).state ≠ .disabled → exec (.stationEnable f) s = .next (s.command .badState 0x0B f)) ∧
    ((s.entry n).state = .disabled → exec (.stationEnable f) s = .next
      (({ s with dir := { s.dir with
            entries := s.dir.entries.set n
              { state := .vacant, cls := none, revision := none, capacity := 0, epoch := none, seqBit := false,
                seqUncertain := false, purgeNeeded := false, deferred := 0, eventPending := false, keptReady := false,
                failures := 0, holdTimer := none, wasPresent := (s.entry n).wasPresent, lastCensus := none }
            changes := s.dir.changes ||| 1#32 <<< addrOf n
            census := if s.regs.autoCensus = true ∧ n ∉ s.dir.census then s.dir.census ++ [n] else s.dir.census } }
        : State).command .accepted 0x0B f))

/-- STATION_RESET (R130, R35): a RESET record takes the place of a PURGE record, changes nothing where a RESET record
stands, and joins the tail otherwise; VACANT, SILENT and DISABLED stations refuse it. The addresses 0 and 31 are
refused BAD_ARGUMENT (R173). -/
def Obligations.StationResetCommand : Prop :=
  (∀ (f : CmdFields) (s : State), f.station = 0#5 ∨ f.station = 31#5 →
    exec (.stationReset f) s = .next (s.command .badArgument 0x0C f)) ∧
  ∀ (f : CmdFields) (n : Stn) (s : State), f.station.toNat = addrOf n →
    let closed := (s.entry n).state = .vacant ∨ (s.entry n).state = .silent ∨ (s.entry n).state = .disabled
    (closed → exec (.stationReset f) s = .next (s.command .badState 0x0C f)) ∧
    (¬closed → (∀ r ∈ s.dir.recovery, r.1 ≠ n) → exec (.stationReset f) s = .next
      (({ s with dir := { s.dir with recovery := s.dir.recovery ++ [(n, .reset)] } } : State).command .accepted 0x0C f)) ∧
    (¬closed → ∀ a act b, s.dir.recovery = a ++ (n, act) :: b → (∀ r ∈ a ++ b, r.1 ≠ n) →
      exec (.stationReset f) s = .next
        (({ s with dir := { s.dir with recovery := a ++ (n, .reset) :: b } } : State).command .accepted 0x0C f))

/-! ## List commands -/

/-- LIST_START (R145): accepted in IDLE and HALTED, refused BAD_STATE otherwise.
LIST_PAUSE and LIST_RESUME (R146, R137): a pause drops the pending descriptor, withdraws the wait entry and marks a
fetch under way to be dropped; nothing else changes. -/
def Obligations.ListStartPauseAndResume : Prop :=
  (∀ (f : CmdFields) (s : State),
     ((s.chan f.chan).state = .idle ∨ (s.chan f.chan).state = .halted → exec (.listStart f) s = .next
       ((s.setChan f.chan { s.chan f.chan with
           next := align32 (s.chan f.chan).base, head := align32 (s.chan f.chan).base, retired := 0#32, endMark := false
           haltCause := none, memFault := none, cancel := .none, state := .running }).command .accepted 0x10 f)) ∧
     ((s.chan f.chan).state ≠ .idle → (s.chan f.chan).state ≠ .halted →
       exec (.listStart f) s = .next (s.command .badState 0x10 f)) ∧
     (∀ a : Word, (align32 a).toNat = a.toNat / 32 * 32)) ∧
  (∀ (f : CmdFields) (s : State),
     ((s.chan f.chan).state = .running → ∃ t, exec (.listPause f) s = .next t ∧
       t.chan f.chan = { s.chan f.chan with
         state := .paused, pendingDesc := none
         portOp := if ∃ b, (s.chan f.chan).portOp = some (.fetch b) then some (.fetch true) else (s.chan f.chan).portOp } ∧
       t = ((({ s with table := { s.table with
           waitList := s.table.waitList.filter fun e => e.1 != f.chan } } : State).setChan f.chan (t.chan f.chan)).command
         .accepted 0x11 f)) ∧
     ((s.chan f.chan).state ≠ .running → exec (.listPause f) s = .next (s.command .badState 0x11 f)) ∧
     ((s.chan f.chan).state = .paused → exec (.listResume f) s = .next
       ((s.setChan f.chan { s.chan f.chan with state := .running }).command .accepted 0x12 f)) ∧
     ((s.chan f.chan).state ≠ .paused → exec (.listResume f) s = .next (s.command .badState 0x12 f)))

/-- LIST_CONTINUE (R147): accepted in HALTED with cause FAILED or LINK_RESET and a clear end-of-list mark; the
addresses and the count stay. -/
def Obligations.ListContinue : Prop :=
  ∀ (f : CmdFields) (s : State),
    let open' := (s.chan f.chan).state = .halted ∧
      ((s.chan f.chan).haltCause = some .failed ∨ (s.chan f.chan).haltCause = some .linkReset) ∧
      (s.chan f.chan).endMark = false
    (open' → exec (.listContinue f) s = .next
      ((s.setChan f.chan { s.chan f.chan with state := .running, haltCause := none }).command .accepted 0x13 f)) ∧
    (¬open' → exec (.listContinue f) s = .next (s.command .badState 0x13 f))

/-- LIST_ABORT (R151, R20, R15, R38, R126, R142, R149): refused in IDLE; without effect in ABORTING; otherwise the channel's
exchanges go by the LIST_ABORT column of R20 and those of others stay. With no exchange of the channel left, no port
operation under way and every record written or faulted the channel is IDLE with an empty queue (log entry 9); else it is
ABORTING, with cancellation ABORT while it has an exchange (none where a port operation or a record alone is left, log
entry 16), its unfinished NOPs CANCELLED and the records of its cancelled exchanges finished. Those exchanges' tags join
its completion list in creation order. The stations of unknown outcomes have the sequence-uncertain mark and stand in the
census list; a READ that may have been deferred unheard sets the purge-needed mark. Nothing else changes. -/
def Obligations.ListAbort : Prop :=
  ∀ (f : CmdFields) (s : State), ListsAgree s →
    ((s.chan f.chan).state = .idle → exec (.listAbort f) s = .next (s.command .badState 0x14 f)) ∧
    ((s.chan f.chan).state = .aborting → exec (.listAbort f) s = .next (s.command .accepted 0x14 f)) ∧
    ((s.chan f.chan).state ≠ .idle → (s.chan f.chan).state ≠ .aborting →
      let ch := s.chan f.chan
      let ended (x : Exchange) : Bool :=
        x.owner == .list f.chan && x.phase == .issue && (x.state == .waiting || x.state == .backoff)
      let unknown (n : Stn) : Bool := s.anyX fun x =>
        ended x && x.kind.nonIdem && x.unanswered && x.dest == .station n
      let unheard (n : Stn) : Bool := s.anyX fun x =>
        ended x && x.kind == .read && decide (0 < x.attempts) && x.dest == .station n &&
          decide (1 ≤ (s.entry n).capacity)
      let holds : Prop := ∃ tag x, s.xchg tag = some x ∧ x.owner = .list f.chan
      let done : Prop := ¬holds ∧ (ch.portOp = none) ∧ ∀ r ∈ ch.queue, r.written = true ∨ r.faulted = true
      ∃ t, exec (.listAbort f) s = .next t ∧
        (done → t.chan f.chan = { ch with
          state := .idle, haltCause := none, cancel := .none, queue := [], pendingDesc := none }) ∧
        (¬done → ∃ cn, (holds → cn = .abort) ∧ (¬holds → cn = .none) ∧ t.chan f.chan = { ch with
          state := .aborting, cancel := cn, pendingDesc := none
          portOp := if ∃ b, ch.portOp = some (.fetch b) then some (.fetch true) else ch.portOp
          queue := ch.queue.map fun r =>
            if r.tag = none ∧ r.finished = false ∧ r.faulted = false then
              { r with finished := true, status := some .cancelled }
            else if r.written = false ∧ r.faulted = false ∧ (r.tag.bind s.xchg).any ended = true then
              { r with finished := true }
            else r }) ∧
        t.table.compl f.chan =
          s.table.compl f.chan ++ (s.table.creation (.list f.chan)).filter (fun tag => (s.xchg tag).any ended) ∧
        t.table.waitList = s.table.waitList.filter (fun e => e.1 != f.chan) ∧
        (∀ o, t.table.creation o = s.table.creation o) ∧
        (∀ c, c ≠ f.chan → t.chan c = s.chan c ∧ t.table.compl c = s.table.compl c) ∧
        t.line = s.line ∧ t.store = s.store ∧ t.events = s.events ∧ t.window = s.window ∧ t.irq = s.irq ∧
        t.sweep = s.sweep ∧ t.pointer = s.pointer ∧ t.portLast = s.portLast ∧ t.views = s.views ∧
        t.freeCount = s.freeCount ∧ t.pending = s.pending ∧
        t.regs = { s.regs with commandStatus := commandStatusWord .accepted 0x14 f } ∧
        t.bus = { s.bus with answer := some .done } ∧
        t.dir.changes = s.dir.changes ∧ t.dir.rediscovery = s.dir.rediscovery ∧
        (CountsAgree s → ∀ n, t.entry n = { s.entry n with
          seqUncertain := (s.entry n).seqUncertain || unknown n
          purgeNeeded := (s.entry n).purgeNeeded || unheard n }) ∧
        (∀ n, n ∈ t.dir.census ↔ n ∈ s.dir.census ∨ unknown n = true ∧ (s.entry n).state ≠ .disabled) ∧
        (∃ more, t.dir.census = s.dir.census ++ more) ∧
        (∃ more, t.dir.recovery = s.dir.recovery ++ more ∧ ∀ r ∈ more, r.2 = .purge ∧ unheard r.1 = true) ∧
        (∀ n, unheard n = true → (s.entry n).purgeNeeded = false →
          (s.entry n).state = .present ∨ (s.entry n).state = .suspect ∨ (s.entry n).state = .held →
          ∃ act, (n, act) ∈ t.dir.recovery) ∧
        (∀ tag, s.xchg tag = none → t.xchg tag = none) ∧
        ∀ tag x, s.xchg tag = some x →
          (x.owner ≠ .list f.chan → t.xchg tag = some x) ∧
          (x.owner = .list f.chan →
            (x.phase = .issue → x.state = .waiting ∨ x.state = .backoff →
              t.xchg tag = some { x with
                state := .complete, backoff := none, deadline := none, expired := false, carried := none, fillEnd := none
                result := some
                  { status := .cancelled, detail := none, replyLength := 0, repeated := false,
                    uncertain := x.kind.nonIdem && x.unanswered, epochSeen := x.epochSeen, attempts := x.attempts } }) ∧
            (x.phase = .issue → x.state = .filling →
              t.xchg tag = some { x with fillEnd := if x.fillEnd = none then some .cancelled else x.fillEnd }) ∧
            (x.phase = .issue → x.state = .onLine → t.xchg tag = some x) ∧
            (x.phase = .collect → x.state = .parked ∨ x.state = .waiting ∨ x.state = .backoff →
              t.xchg tag = some { x with
                phase := .abandon, state := .waiting, attempts := 0, backoff := none, deadline := none, expired := false
                carried := some { status := .cancelled, fault := none } }) ∧
            (x.phase = .collect → x.state = .onLine → t.xchg tag = some { x with expired := true }) ∧
            (x.phase = .abandon → x.live = true → x.state ≠ .filling → t.xchg tag = some x) ∧
            (x.state = .complete ∨ x.state = .draining → t.xchg tag = some x)))

/-! ## The event queue, the window's fault record and the causes -/

/-- EVENT_POP, EVENT_FLUSH, WINDOW_CLEAR_FAULT and a COMMAND write with a code of no command (R166, R161, R173).
ACK_CHANGES (R44): the stations of COMMAND_MASK leave the change summary, the others stay, and nothing else changes. -/
def Obligations.EventWindowAndChangeCommands : Prop :=
  (∀ (f : CmdFields) (s : State),
     (s.events.queue = [] → exec (.eventPop f) s = .next (s.command .empty 0x18 f)) ∧
     (∀ e q, s.events.queue = e :: q → exec (.eventPop f) s = .next
       (({ s with events := { s.events with queue := q } } : State).command .accepted 0x18 f)) ∧
     exec (.eventFlush f) s = .next
       (({ s with events := { s.events with queue := [] } } : State).command .accepted 0x19 f) ∧
     exec (.windowClearFault f) s = .next
       (({ s with window := { s.window with fault := none, overflow := false } } : State).command .accepted 0x1D f) ∧
     ∀ code, exec (.unknownCommand code f) s = .next (s.command .unknown code.toNat f)) ∧
  (∀ (f : CmdFields) (s : State), ∃ t, exec (.ackChanges f) s = .next t ∧
     (∀ n, maskHas t.dir.changes n = (maskHas s.dir.changes n && !maskHas s.regs.commandMask n)) ∧
     t = ({ s with dir := { s.dir with changes := t.dir.changes } } : State).command .accepted 0x1C f)

/-- CAUSE_ACK (R168): of the causes pending, exactly the edge causes named in the mask go; the condition causes stand as
their conditions do; nothing else changes but the answer. -/
def Obligations.CauseAck : Prop :=
  ∀ (mask : Word) (s : State), ∃ t, exec (.causeAck mask) s = .next t ∧
    (∀ i, i < 8 → t.pendingCauses.getLsbD i = (s.pendingCauses.getLsbD i && !mask.getLsbD i)) ∧
    (∀ i, 8 ≤ i → t.pendingCauses.getLsbD i = s.pendingCauses.getLsbD i) ∧
    t = { s with irq := { s.irq with edge := t.irq.edge }, bus := { s.bus with answer := some .done } }

/-- CAUSE_ENABLE and IRQ_N (R169): a write replaces the enable set, a read returns it, and it is empty after RESET_N;
IRQ_N is asserted exactly while some cause is both pending and enabled.
The two condition causes are pending exactly while their conditions hold, the edge causes as State holds them
(R167).
The mask of ten causes is R172's. -/
def Obligations.CausesEnableAndTheInterruptLine : Prop :=
  ((∀ (mask : Word) (s : State), exec (.causeEnable mask) s = .next
     { s with irq := { s.irq with enable := mask &&& 0x3FF#32 }, bus := { s.bus with answer := some .done } }) ∧
   (∀ s : State, s.readWord 0x0C4 = s.irq.enable) ∧
   (∀ s : State, ∃ t, exec .resetN s = .next t ∧ t.irq.enable = 0#32) ∧
   ∀ s : State, s.irqAsserted = true ↔ ∃ i, s.pendingCauses.getLsbD i = true ∧ s.irq.enable.getLsbD i = true) ∧
  (∀ s : State, CountsInRange s →
     (s.pendingCauses.getLsbD 8 = true ↔ s.regs.eventThreshold ≤ s.events.queue.length) ∧
     (s.pendingCauses.getLsbD 9 = true ↔ s.dir.changes ≠ 0#32) ∧
     ∀ i, i < 8 → s.pendingCauses.getLsbD i = s.irq.edge.getLsbD i)

/-! ## Register writes and reads -/

/-- SWEEP_INTERVAL_WRITE and SWEEP_INTERVAL_EXPIRY (R97, R98): the value is taken into 0 to 255; a timer that runs, or a
line that is OFF, leaves the timer as it is; an expiry sets the due flag and loads the timer again. The expiry of a
timer that does not run has no effect (log entry 1).
REDISCOVER_INTERVAL_WRITE and REDISCOVERY_TIMER_EXPIRY (R34, R28): as for the sweep; an expiry puts the SILENT stations
that are not in the census list at its tail in address order, and loads the timer again. -/
def Obligations.IntervalTimers : Prop :=
  ((∀ (v : Word) (s : State),
     let k := min v.toNat 255
     exec (.sweepIntervalWrite v) s = .next
       { s with
         regs := { s.regs with sweepInterval := k }
         sweep := { s.sweep with
           timer := if s.sweep.timer = none ∧ s.line.state ≠ .off ∧ k ≠ 0 then some (k * 1024) else s.sweep.timer }
         bus := { s.bus with answer := some .done } }) ∧
   ∀ s : State,
     (s.sweep.timer = none → exec .sweepIntervalExpiry s = .next s) ∧
     (s.sweep.timer ≠ none → exec .sweepIntervalExpiry s = .next
       { s with sweep :=
           { due := true, timer := if s.regs.sweepInterval = 0 then none else some (s.regs.sweepInterval * 1024) } })) ∧
  ((∀ (v : Word) (s : State),
     let k := min v.toNat 255
     exec (.rediscoverIntervalWrite v) s = .next
       { s with
         regs := { s.regs with rediscoverInterval := k }
         dir := { s.dir with
           rediscovery :=
             if s.dir.rediscovery = none ∧ s.line.state ≠ .off ∧ k ≠ 0 then some (k * 1024) else s.dir.rediscovery }
         bus := { s.bus with answer := some .done } }) ∧
   ∀ s : State,
     (s.dir.rediscovery = none → exec .rediscoveryTimerExpiry s = .next s) ∧
     (s.dir.rediscovery ≠ none → exec .rediscoveryTimerExpiry s = .next
       { s with dir := { s.dir with
           census := s.dir.census ++ allStns.filter fun n =>
             (s.entry n).state == .silent && !s.dir.census.contains n
           rediscovery :=
             if s.regs.rediscoverInterval = 0 then none else some (s.regs.rediscoverInterval * 1024) } }))

/-- EVENT_THRESHOLD_WRITE and LINK_CONFIG_WRITE (R81, R84, R166, R172): the value is taken into its range; the rate in
force does not change.
PARAMETER_WRITE (R172, R23, R45): each register takes the value into its range, and a read of the register then gives
the value taken; an offset that takes no write is answered DONE and ignored (R171).
What a 32-bit read (VIEW_SNAPSHOT) of each single-word register answers (R171, R172), with the registers in their ranges:
the value taken, and nothing changes but the answer.
Which row an access of the register window is (R171, R173): by its offset, and for COMMAND by the code in bits 7:0, with
the station in bits 12:8 and the channel in bit 16; an access that is not a whole one is answered ERROR. The refusal
codes (R173).
That a misaligned 32-bit access is one of those answered ERROR, and that every other read is VIEW_SNAPSHOT's and every other
write PARAMETER_WRITE's, never held, is the model's reading (log entry 17, and log entry 18 for the intake). -/
def Obligations.ParameterWritesAndReads : Prop :=
  (∀ (v : Word) (s : State),
     exec (.eventThresholdWrite v) s = .next
       { s with
         regs := { s.regs with eventThreshold := if v.toNat = 0 then 1 else min v.toNat 16 }
         bus := { s.bus with answer := some .done } } ∧
     exec (.linkConfigWrite v) s = .next
       { s with
         regs := { s.regs with
           rate := v.extractLsb' 0 2, windowFirst := v.getLsbD 4, autoCensus := v.getLsbD 5 }
         bus := { s.bus with answer := some .done } }) ∧
  (∀ (v : Word) (s : State),
     let wrote (p : ParamReg) (r : Regs) : Prop :=
       exec (.parameterWrite p v) s = .next { s with regs := r, bus := { s.bus with answer := some .done } }
     let within (lo hi k : Nat) : Nat := max lo (min hi k)
     wrote .replyWindow { s.regs with replyWindow := within 16 4095 v.toNat } ∧
     wrote .guardTime { s.regs with guardTime := within 2 63 v.toNat } ∧
     wrote .retryConfig { s.regs with
       retryLimit := v.toNat % 8, retryGap := within 1 255 (v.toNat / 256 % 256) } ∧
     wrote .busyConfig { s.regs with
       busyLimit := within 1 255 (v.toNat % 256), busyGap := within 1 255 (v.toNat / 256 % 256) } ∧
     wrote .faultThresholds { s.regs with
       suspectThreshold := within 1 15 (v.toNat % 16), silentThreshold := within 1 15 (v.toNat / 256 % 16)
       lineFaultLimit := within 1 7 (v.toNat / 65536 % 8) } ∧
     wrote .deferDeadline { s.regs with deferDeadline := within 1 255 v.toNat } ∧
     wrote .resetHold { s.regs with resetHold := within 1 255 v.toNat } ∧
     wrote .windowHold { s.regs with windowHold := within 1 255 v.toNat } ∧
     wrote .censusMask { s.regs with censusMask := v &&& 0x7FFFFFFE#32 } ∧
     wrote .commandMask { s.regs with commandMask := v &&& 0x7FFFFFFE#32 } ∧
     (∃ n, addrOf n = within 1 30 v.toNat ∧ wrote .dirSelect { s.regs with dirSelect := n }) ∧
     (∃ tag : Tag, tag.val = min 31 v.toNat ∧ wrote .xtSelect { s.regs with xtSelect := tag }) ∧
     (∀ offset, wrote (.unheld offset) s.regs) ∧
     ∀ c, exec (.parameterWrite (.listBase c) v) s = .next
       { s.setChan c { s.chan c with base := v } with bus := { s.bus with answer := some .done } }) ∧
  (∀ s : State, s.regs.InRange →
     let reads (offset : BitVec 12) (w : Word) : Prop :=
       exec (.viewSnapshot offset) s = .next { s with bus := { s.bus with answer := some (.doneWord w) } }
     let num (k : Nat) : Word := BitVec.ofNat 32 k
     let bit (b : Bool) : Nat := if b then 1 else 0
     reads 0x000 0x00010030#32 ∧
     reads 0x004 (num (s.regs.rate.toNat + 16 * bit s.regs.windowFirst + 32 * bit s.regs.autoCensus)) ∧
     reads 0x008 (num s.regs.replyWindow) ∧ reads 0x00C (num s.regs.guardTime) ∧
     reads 0x010 (num (s.regs.retryLimit + 256 * s.regs.retryGap)) ∧
     reads 0x014 (num (s.regs.busyLimit + 256 * s.regs.busyGap)) ∧
     reads 0x018 (num
       (s.regs.suspectThreshold + 256 * s.regs.silentThreshold + 65536 * s.regs.lineFaultLimit)) ∧
     reads 0x01C (num s.regs.sweepInterval) ∧ reads 0x020 (num s.regs.deferDeadline) ∧
     reads 0x024 (num s.regs.resetHold) ∧ reads 0x028 (num s.regs.rediscoverInterval) ∧
     reads 0x02C (num s.regs.windowHold) ∧ reads 0x030 s.regs.censusMask ∧ reads 0x044 s.regs.commandMask ∧
     reads 0x048 s.regs.commandStatus ∧ reads 0x060 (num (addrOf s.regs.dirSelect)) ∧
     reads 0x070 (num s.regs.xtSelect.val) ∧ reads 0x080 s.dir.changes ∧
     reads 0x0A4 (num s.regs.eventThreshold) ∧ reads 0x0C4 s.irq.enable ∧
     reads 0x100 s.chanA.base ∧ reads 0x110 s.chanA.next ∧ reads 0x114 s.chanA.head ∧ reads 0x118 s.chanA.retired ∧
     reads 0x120 s.chanB.base ∧ reads 0x130 s.chanB.next ∧ reads 0x134 s.chanB.head ∧ reads 0x138 s.chanB.retired ∧
     (EventRoom s → QuotasHold s → reads 0x0A0
       (num (s.events.queue.length + 256 * s.countX fun x => x.kind == .fetchEvent))) ∧
     (CountsInRange s → reads 0x0C0
       (s.irq.edge ||| num (256 * bit (decide (s.regs.eventThreshold ≤ s.events.queue.length)) +
         512 * bit (s.dir.changes != 0#32))))) ∧
  (∀ (w : Word) (offset : BitVec 12) (enables : BitVec 4),
     let f : CmdFields := { station := w.extractLsb' 8 5, chan := if w.getLsbD 16 then .B else .A }
     let spells (code : Nat) (c : Instr) : Prop := w.toNat % 256 = code → decodeCommand w = c
     let at' (k : BitVec 12) (c : Instr) : Prop := registerWrite k 15#4 w = c
     spells 0x01 (.linkStart f) ∧ spells 0x02 (.linkStop f) ∧ spells 0x03 (.linkReset f) ∧ spells 0x04 (.census f) ∧
     spells 0x05 (.sweepNow f) ∧ spells 0x08 (.stationHold f) ∧ spells 0x09 (.stationRelease f) ∧
     spells 0x0A (.stationDisable f) ∧ spells 0x0B (.stationEnable f) ∧ spells 0x0C (.stationReset f) ∧
     spells 0x10 (.listStart f) ∧ spells 0x11 (.listPause f) ∧ spells 0x12 (.listResume f) ∧
     spells 0x13 (.listContinue f) ∧ spells 0x14 (.listAbort f) ∧ spells 0x18 (.eventPop f) ∧
     spells 0x19 (.eventFlush f) ∧ spells 0x1C (.ackChanges f) ∧ spells 0x1D (.windowClearFault f) ∧
     (w.toNat % 256 ∉ [0x01, 0x02, 0x03, 0x04, 0x05, 0x08, 0x09, 0x0A, 0x0B, 0x0C, 0x10, 0x11, 0x12, 0x13, 0x14, 0x18, 0x19,
         0x1C, 0x1D] →
       decodeCommand w = .unknownCommand (w.extractLsb' 0 8) f) ∧
     at' 0x004 (.linkConfigWrite w) ∧ at' 0x008 (.parameterWrite .replyWindow w) ∧
     at' 0x00C (.parameterWrite .guardTime w) ∧ at' 0x010 (.parameterWrite .retryConfig w) ∧
     at' 0x014 (.parameterWrite .busyConfig w) ∧ at' 0x018 (.parameterWrite .faultThresholds w) ∧
     at' 0x01C (.sweepIntervalWrite w) ∧ at' 0x020 (.parameterWrite .deferDeadline w) ∧
     at' 0x024 (.parameterWrite .resetHold w) ∧ at' 0x028 (.rediscoverIntervalWrite w) ∧
     at' 0x02C (.parameterWrite .windowHold w) ∧ at' 0x030 (.parameterWrite .censusMask w) ∧
     at' 0x040 (decodeCommand w) ∧ at' 0x044 (.parameterWrite .commandMask w) ∧
     at' 0x060 (.parameterWrite .dirSelect w) ∧ at' 0x070 (.parameterWrite .xtSelect w) ∧
     at' 0x0A4 (.eventThresholdWrite w) ∧ at' 0x0C4 (.causeEnable w) ∧ at' 0x0C8 (.causeAck w) ∧
     at' 0x100 (.parameterWrite (.listBase .A) w) ∧ at' 0x120 (.parameterWrite (.listBase .B) w) ∧
     (offset.toNat % 4 = 0 → offset ∉ writableOffsets → at' offset (.parameterWrite (.unheld offset) w)) ∧
     (offset.toNat % 4 = 0 → registerRead offset 15#4 = .viewSnapshot offset) ∧
     (enables ≠ 15#4 ∨ offset.toNat % 4 ≠ 0 →
       registerWrite offset enables w = .registerAccessError ∧ registerRead offset enables = .registerAccessError)) ∧
  [CmdVerdict.accepted, .unknown, .badArgument, .badState, .busy, .empty].map CmdVerdict.code = [0, 1, 2, 3, 4, 5]

/-- VIEW_SNAPSHOT and REGISTER_ACCESS_ERROR (R171): a read of word 0 of a view takes a copy of the whole record and
answers its first word; a read of a later word answers from the copy and takes none; an offset not in the map, and the
write-only COMMAND and CAUSE_ACK, read 0; any other access is answered ERROR. Nothing changes but the copy and the answer.
That a misaligned VIEW_SNAPSHOT is answered ERROR is the model's reading (log entry 17).
The layouts of LINE_STATUS, DIR_VIEW, XT_VIEW, EVENT_HEAD, LIST_x_STATE and WINDOW_FAULT (R178, R177), each field at its
place and every other bit 0. -/
def Obligations.ViewSnapshot : Prop :=
  (∀ s : State,
     let reads (offset : BitVec 12) (w : Word) : Prop :=
       exec (.viewSnapshot offset) s = .next { s with bus := { s.bus with answer := some (.doneWord w) } }
     let copies (offset : BitVec 12) (v : Views) (w : Word) : Prop :=
       exec (.viewSnapshot offset) s = .next
         { s with views := v, bus := { s.bus with answer := some (.doneWord w) } }
     (∀ offset : BitVec 12, offset.toNat % 4 = 0 →
       copies offset (s.takeCopy offset.toNat).views ((s.takeCopy offset.toNat).readWord offset.toNat)) ∧
     copies 0x050 { s.views with line := s.lineStatus } s.lineStatus[0] ∧
     copies 0x064 { s.views with dir := s.dirView s.regs.dirSelect } (s.dirView s.regs.dirSelect)[0] ∧
     copies 0x074 { s.views with xt := s.xtView s.regs.xtSelect } (s.xtView s.regs.xtSelect)[0] ∧
     copies 0x090 { s.views with windowFault := s.windowFaultView } s.windowFaultView[0] ∧
     copies 0x0A8 { s.views with eventHead := s.eventHead } s.eventHead[0] ∧
     copies 0x104 { s.views with listA := s.listState .A } (s.listState .A)[0] ∧
     copies 0x124 { s.views with listB := s.listState .B } (s.listState .B)[0] ∧
     reads 0x054 s.views.line[1] ∧ reads 0x068 s.views.dir[1] ∧ reads 0x078 s.views.xt[1] ∧
     reads 0x094 s.views.windowFault[1] ∧ reads 0x0AC s.views.eventHead[1] ∧ reads 0x0B0 s.views.eventHead[2] ∧
     reads 0x0B4 s.views.eventHead[3] ∧ reads 0x108 s.views.listA[1] ∧ reads 0x10C s.views.listA[2] ∧
     reads 0x128 s.views.listB[1] ∧ reads 0x12C s.views.listB[2] ∧ reads 0x040 0#32 ∧ reads 0x0C8 0#32 ∧
     (∀ offset : BitVec 12, offset.toNat % 4 = 0 → offset ∉ writableOffsets →
       offset.toNat ∉ [0x000, 0x048, 0x050, 0x054, 0x064, 0x068, 0x074, 0x078, 0x080, 0x090, 0x094, 0x0A0, 0x0A8, 0x0AC, 0x0B0,
         0x0B4, 0x0C0, 0x104, 0x108, 0x10C, 0x110, 0x114, 0x118, 0x124, 0x128, 0x12C, 0x130, 0x134, 0x138] →
       reads offset 0#32) ∧
     (∀ offset : BitVec 12, offset.toNat % 4 ≠ 0 →
       exec (.viewSnapshot offset) s = .next { s with bus := { s.bus with answer := some .error } }) ∧
     exec .registerAccessError s = .next { s with bus := { s.bus with answer := some .error } }) ∧
  ∀ (s : State) (n : Stn) (tag : Tag) (c : Chan),
    -- a word of fields, each as its lowest bit, its width and its value
    let fields (l : List (Nat × Nat × Nat)) : Word :=
      BitVec.ofNat 32 (l.map fun f => f.2.2 % 2 ^ f.2.1 * 2 ^ f.1).sum
    let bit (b : Bool) : Nat := if b then 1 else 0
    let status (st : Status) : Nat :=
      if st = .discarded then 14
      else [Status.ok, .short, .refused, .busyExhausted, .retryExhausted, .protocol, .stationLost, .stationRestarted,
        .deferExpired, .cancelled, .linkReset, .notPresent, .invalid].idxOf st
    let faultKind (k : FaultKind) : Nat :=
      8 + [FaultKind.timeout, .crc, .framing, .contention, .wrongStation, .overrun, .unexpected].idxOf k
    let detail (d : Option Detail) : Nat :=
      match d with
      | none => 0
      | some (.reason r) => 1 + [Reason.badAddress, .badLength, .readOnly, .unsupported, .stationFault].idxOf r
      | some (.fault k) => faultKind k
    let l := s.line
    let e := s.entry n
    let ch := s.chan c
    s.lineStatus =
      #v[fields
          [(0, 4, [LineState.off, .wake, .idle, .sending, .await, .receiving, .guard, .slots, .break].idxOf l.state),
           (4, 1, bit (l.breakKind == some .long)),
           (5, 2, (l.breakCause.map fun k => [BreakCause.contention, .lineFault, .stuckLine, .linkReset].idxOf k).getD 0),
           (7, 1, bit l.job.isSome), (8, 1, bit (l.job == some .sweep)),
           (9, 5, match l.job with
             | some (.attempt t _ _) => t.val
             | some .sweep | none => 0),
           (14, 3, l.faultCount), (20, 2, l.rate.toNat), (22, 2, s.regs.rate.toNat)],
         fields
          [(0, 4, (l.lastFault.map fun f => faultKind f.kind).getD 0),
           (4, 5, (l.lastFault.map fun f => f.station.toNat).getD 0),
           (9, 5, (l.lastFault.map fun f => f.tag.val).getD 0), (16, 1, bit l.lastFault.isSome)]] ∧
    s.dirView n =
      #v[fields
          [(0, 3, [StnState.vacant, .present, .suspect, .held, .recovering, .silent, .resync, .disabled].idxOf e.state),
           (4, 4, e.failures), (8, 2, e.capacity), (10, 2, e.deferred), (12, 4, (e.epoch.map BitVec.toNat).getD 0),
           (16, 1, bit e.epoch.isSome), (17, 1, bit e.seqBit), (18, 1, bit e.seqUncertain), (19, 1, bit e.purgeNeeded),
           (20, 1, bit e.eventPending), (21, 1, bit e.keptReady), (22, 1, bit e.wasPresent),
           (23, 1, bit e.holdTimer.isSome), (24, 1, bit (s.dir.census.contains n)),
           (25, 2, ((s.dir.recovery.find? fun r => r.1 == n).map fun r =>
             1 + [RecAction.purge, .reset].idxOf r.2).getD 0),
           (27, 1, bit e.cls.isSome)],
         fields
          [(0, 8, (e.cls.map BitVec.toNat).getD 0), (8, 8, (e.revision.map BitVec.toNat).getD 0),
           (16, 3, (e.lastCensus.map fun k =>
             [CensusStatus.ok, .protocol, .retryExhausted, .linkReset].idxOf k.status).getD 0),
           (20, 1, bit (e.lastCensus.any (·.stationFault))), (21, 1, bit e.lastCensus.isSome)]] ∧
    (s.xchg tag = none → s.xtView tag = #v[0#32, 0#32]) ∧
    (∀ x, s.xchg tag = some x → s.xtView tag =
      #v[fields
          [(0, 3, 1 + [XState.filling, .waiting, .onLine, .backoff, .parked, .complete, .draining].idxOf x.state),
           (4, 2, [Phase.issue, .collect, .abandon].idxOf x.phase),
           (6, 2, [Owner.window, .list .A, .list .B, .internal].idxOf x.owner),
           (8, 3, [Kind.write, .read, .signal, .bcastWrite, .census, .fetchEvent, .purge, .stationReset].idxOf x.kind),
           (12, 5, match x.dest with
             | .station m => addrOf m
             | .broadcast => 31),
           (17, 4, x.attempts), (21, 1, bit x.unanswered), (22, 1, bit x.expired),
           (23, 2, (x.fillEnd.map fun k => 1 + [FillMark.linkReset, .stationLost, .cancelled].idxOf k).getD 0)],
         fields
          [(0, 8, x.busyCount), (8, 4, (x.result.map fun r => status r.status).getD 0),
           (12, 4, (x.result.map fun r => detail r.detail).getD 0), (16, 1, bit (x.result.any (·.uncertain))),
           (17, 1, bit (x.result.any (·.repeated))), (18, 1, bit x.result.isSome)]]) ∧
    (s.events.queue = [] → s.eventHead = #v[0#32, 0#32, 0#32, 0#32]) ∧
    (∀ v q, s.events.queue = v :: q →
      let detailWord (i : Nat) : Word := fields ((List.range 4).map fun k => (8 * k, 8, (v.detail.getD (4 * i + k) 0#8).toNat))
      s.eventHead =
        #v[fields
            [(0, 16, v.code.toNat), (16, 5, addrOf v.station), (21, 4, v.epoch.toNat), (25, 4, v.detail.length), (31, 1, 1)],
           detailWord 0, detailWord 1, detailWord 2]) ∧
    s.listState c =
      #v[fields
          [(0, 3, [ChanState.idle, .running, .paused, .stopping, .halted, .aborting].idxOf ch.state),
           (3, 2, (ch.haltCause.map fun k => 1 + [HaltCause.failed, .memoryFault, .linkReset].idxOf k).getD 0),
           (5, 2, [Cancel.none, .stop, .abort].idxOf ch.cancel), (8, 4, ch.queue.length),
           (12, 1, bit ch.pendingDesc.isSome), (13, 1, bit (s.table.waitList.any fun w => w.1 == c)), (14, 1, bit ch.endMark),
           (15, 1, bit ch.memFault.isSome),
           (16, 2, (ch.memFault.map fun f => [FaultOp.fetch, .fill, .drain].idxOf f.op).getD 0)],
         (ch.memFault.map (·.desc)).getD 0#32, (ch.memFault.map (·.address)).getD 0#32] ∧
    (let fault := s.window.fault
     let hold : Nat × Nat × Nat × Nat :=
       match s.window.hold with
       | .empty => (0, 0, 0, 0)
       | .inFlight m reg t => (1, t.val, addrOf m, reg.toNat)
       | .ready m reg t => (2, t.val, addrOf m, reg.toNat)
     s.windowFaultView =
      #v[fields
          [(0, 1, bit fault.isSome), (1, 1, bit s.window.overflow), (2, 5, (fault.map fun f => addrOf f.station).getD 0),
           (7, 1, bit (fault.any fun f => f.dir == .read)), (8, 4, (fault.map fun f => status f.status).getD 0),
           (12, 4, (fault.map fun f => detail f.detail).getD 0), (16, 1, bit (fault.any (·.uncertain))),
           (20, 2, hold.1), (22, 5, hold.2.1), (27, 4, s.countX fun x => x.owner == .window)],
         fields
          [(0, 12, (fault.map fun f => f.reg.toNat).getD 0), (12, 5, hold.2.2.1), (17, 12, hold.2.2.2)]])

/-! ## The station window -/

/-- STATION_WINDOW_STORE (R154, R156): an access that is not a whole aligned word, a station field of 0 or 31, and a
station that is VACANT, SILENT or DISABLED are answered ERROR; at the quota a store is answered RETRY; nothing else
changes.
STATION_WINDOW_LOAD (R154, R158, R159): the rows answered ERROR; RETRY, with nothing changed, where the hold names
another address, where it is IN_FLIGHT, and at the quota. -/
def Obligations.WindowAccessesRefused : Prop :=
  (∀ (offset : BitVec 17) (enables : BitVec 4) (d : Bytes4) (s : State), CountsAgree s →
     let station := offset.toNat / 4096
     let whole := enables = 15#4 ∧ offset.toNat % 4 = 0
     (¬whole ∨ station = 0 ∨ station = 31 →
       exec (.stationWindowStore offset enables d) s = .next { s with bus := { s.bus with answer := some .error } }) ∧
     ∀ n, station = addrOf n → whole →
       ((s.entry n).state = .vacant ∨ (s.entry n).state = .silent ∨ (s.entry n).state = .disabled →
         exec (.stationWindowStore offset enables d) s = .next { s with bus := { s.bus with answer := some .error } }) ∧
       ((s.entry n).state ≠ .vacant → (s.entry n).state ≠ .silent → (s.entry n).state ≠ .disabled →
         s.countX (fun x => x.owner == .window) = 8 →
         exec (.stationWindowStore offset enables d) s = .next { s with bus := { s.bus with answer := some .retry } })) ∧
  (∀ (offset : BitVec 17) (enables : BitVec 4) (s : State), CountsAgree s →
     let answered (a : Answer) : Prop :=
       exec (.stationWindowLoad offset enables) s = .next { s with bus := { s.bus with answer := some a } }
     let station := offset.toNat / 4096
     let reg := BitVec.ofNat 16 (offset.toNat % 4096)
     let whole := enables = 15#4 ∧ offset.toNat % 4 = 0
     (¬whole ∨ station = 0 ∨ station = 31 → answered .error) ∧
     ∀ n, station = addrOf n → whole →
       let closed := (s.entry n).state = .vacant ∨ (s.entry n).state = .silent ∨ (s.entry n).state = .disabled
       ((∃ tag, s.window.hold = .inFlight n reg tag) → answered .retry) ∧
       (∀ m reg' tag, s.window.hold = .inFlight m reg' tag ∨ s.window.hold = .ready m reg' tag → (m, reg') ≠ (n, reg) →
         answered (if closed then .error else .retry)) ∧
       (s.window.hold = .empty → closed → answered .error) ∧
       (s.window.hold = .empty → ¬closed → s.countX (fun x => x.owner == .window) = 8 → answered .retry))

/-- STATION_WINDOW_STORE below the quota (R156, R2, R11, R14): the lowest FREE record becomes a WAITING WRITE of 4
bytes of the window, at the tail of its creation list, with the lowest free unit of its partition, which then holds
the four bytes of the store; the answer is DONE, and no other byte, record or block changes.
STATION_WINDOW_LOAD below the quota with the hold EMPTY (R158): a WAITING READ of 4 bytes is created, the hold names it,
and the answer is RETRY. -/
def Obligations.WindowAccessesCreate : Prop :=
  (∀ (offset : BitVec 17) (d : Bytes4) (n : Stn) (tag : Tag) (u : UnitNo) (s : State),
     CountsAgree s → Memory.wf s.store = true →
     offset.toNat / 4096 = addrOf n → offset.toNat % 4 = 0 →
     (s.entry n).state ≠ .vacant → (s.entry n).state ≠ .silent → (s.entry n).state ≠ .disabled →
     s.countX (fun x => x.owner == .window) < 8 →
     s.xchg tag = none → (∀ t', t' < tag → s.xchg t' ≠ none) →
     u.val < 8 → s.unitHeld u = false → (∀ u' : UnitNo, u'.val < u.val → s.unitHeld u' = true) →
     ∃ t, exec (.stationWindowStore offset 15#4 d) s = .next t ∧
       t.xchg tag = some
         { owner := .window, kind := .write, dest := .station n, regAddr := some (BitVec.ofNat 16 (offset.toNat % 4096)),
           length := some 4, signalOp := none, units := [u], phase := .issue, state := .waiting, attempts := 0,
           busyCount := 0, seqUsed := none, unanswered := false, fence := false, expired := false, fillEnd := none,
           carried := none, backoff := none, deadline := none, epochSeen := none, result := none } ∧
       (∀ t', t' ≠ tag → t.xchg t' = s.xchg t') ∧
       t.table.winList = s.table.winList ++ [tag] ∧
       Memory.read t.store (u.val * 32) = d.b0 ∧ Memory.read t.store (u.val * 32 + 1) = d.b1 ∧
       Memory.read t.store (u.val * 32 + 2) = d.b2 ∧ Memory.read t.store (u.val * 32 + 3) = d.b3 ∧
       (∀ a, a < u.val * 32 ∨ u.val * 32 + 4 ≤ a → Memory.read t.store a = Memory.read s.store a) ∧
       t = { s with
         table := { s.table with xs := t.table.xs, winList := t.table.winList }
         store := t.store
         bus := { s.bus with answer := some .done } }) ∧
  (∀ (offset : BitVec 17) (n : Stn) (tag : Tag) (u : UnitNo) (s : State), CountsAgree s →
     offset.toNat / 4096 = addrOf n → offset.toNat % 4 = 0 →
     (s.entry n).state ≠ .vacant → (s.entry n).state ≠ .silent → (s.entry n).state ≠ .disabled →
     s.countX (fun x => x.owner == .window) < 8 → s.window.hold = .empty →
     s.xchg tag = none → (∀ t', t' < tag → s.xchg t' ≠ none) →
     u.val < 8 → s.unitHeld u = false → (∀ u' : UnitNo, u'.val < u.val → s.unitHeld u' = true) →
     ∃ t, exec (.stationWindowLoad offset 15#4) s = .next t ∧
       t.xchg tag = some
         { owner := .window, kind := .read, dest := .station n, regAddr := some (BitVec.ofNat 16 (offset.toNat % 4096)),
           length := some 4, signalOp := none, units := [u], phase := .issue, state := .waiting, attempts := 0,
           busyCount := 0, seqUsed := none, unanswered := false, fence := false, expired := false, fillEnd := none,
           carried := none, backoff := none, deadline := none, epochSeen := none, result := none } ∧
       (∀ t', t' ≠ tag → t.xchg t' = s.xchg t') ∧
       t = { s with
         table := { s.table with xs := t.table.xs, winList := s.table.winList ++ [tag] }
         window := { s.window with hold := .inFlight n (BitVec.ofNat 16 (offset.toNat % 4096)) tag }
         bus := { s.bus with answer := some .retry } })

/-- The claim of a READY hold, and its expiry (R159, R160, R161): the READ goes FREE and the hold is EMPTY with no
timer; a claim answers the bytes of an OK or SHORT reply in address order with the rest 0, and ERROR for any other
result; an expiry enters DISCARDED in the fault record, or sets the overflow flag. -/
def Obligations.WindowClaimAndExpiry : Prop :=
  ∀ (n : Stn) (reg : BitVec 16) (tag : Tag) (x : Exchange) (r : Result) (s : State),
    CountsAgree s → s.window.hold = .ready n reg tag → s.xchg tag = some x → x.owner = .window →
    x.state = .complete → x.result = some r →
    let freed (t : State) : Prop :=
      t.xchg tag = none ∧ (∀ t', t' ≠ tag → t.xchg t' = s.xchg t') ∧
      t.table = { s.table with xs := t.table.xs, winList := s.table.winList.filter (· != tag) } ∧
      t.window.hold = .empty ∧ t.window.timer = none ∧
      t.store = s.store ∧ t.dir = s.dir ∧ t.line = s.line ∧ t.chanA = s.chanA ∧ t.chanB = s.chanB ∧ t.events = s.events ∧
      t.regs = s.regs
    (∀ offset : BitVec 17, offset.toNat / 4096 = addrOf n → offset.toNat % 4 = 0 →
      BitVec.ofNat 16 (offset.toNat % 4096) = reg →
      ∃ t, exec (.stationWindowLoad offset 15#4) s = .next t ∧ freed t ∧
        t.window.fault = s.window.fault ∧ t.window.overflow = s.window.overflow ∧ t.irq = s.irq ∧
        (r.status = .ok ∨ r.status = .short → t.bus = { s.bus with
          answer := some (.doneBytes (bytes4 ((List.range r.replyLength).map (readUnit x.units s.store)))) }) ∧
        (r.status ≠ .ok → r.status ≠ .short → t.bus = { s.bus with answer := some .error })) ∧
    (s.window.timer ≠ none → ∃ t, exec .windowHoldExpiry s = .next t ∧ freed t ∧ t.bus = s.bus ∧
      (s.window.fault = none →
        t.window.fault = some
          { station := n, reg := reg, dir := .read, status := .discarded, detail := none, uncertain := false } ∧
        t.window.overflow = s.window.overflow ∧ t.irq = { s.irq with edge := s.irq.edge ||| 0x10#32 }) ∧
      (s.window.fault ≠ none →
        t.window.fault = s.window.fault ∧ t.window.overflow = true ∧ t.irq = s.irq))

/-! ## The scheduler and the line -/

/-- JOB_OFFER (R96, R69, R8, R95): the exchange the scheduler chooses goes ON_LINE with its attempts raised and, for a
non-idempotent kind, the station's sequence bit copied, and the unit sends its frame; a due sweep chosen is taken and
the flag cleared; with no job, or a line that is not IDLE, nothing changes (log entry 1 for the latter). -/
def Obligations.JobOfferTakesTheChoice : Prop :=
  ∀ s : State, CountsAgree s →
    (s.line.state ≠ .idle → exec .jobOffer s = .next s) ∧
    (s.line.state = .idle → s.choose = none → exec .jobOffer s = .next s) ∧
    (s.line.state = .idle → s.choose = some .sweep → exec .jobOffer s = .next
      { s with
        line := { s.line with state := .sending, job := some .sweep, frameWhole := false, txFrame := some sweepFrame }
        sweep := { s.sweep with due := false } }) ∧
    ∀ tag p, s.line.state = .idle → s.choose = some (.exchange tag p) → ∃ x, s.xchg tag = some x ∧
      let y : Exchange := { x with
        state := .onLine, attempts := x.attempts + 1
        seqUsed := match x.dest with
          | .station n => if x.kind.nonIdem then some (s.entry n).seqBit else x.seqUsed
          | .broadcast => x.seqUsed }
      exec .jobOffer s = .next
        { s with
          table := { s.table with xs := s.table.xs.set tag (some y) }
          line := { s.line with
            state := .sending, job := some (.attempt tag x.phase (requestKind x)), frameWhole := false
            txFrame := some (requestFrame tag y s.store) }
          pointer := p }

/-- An exchange that JOB_OFFER takes is WAITING and meets the conditions of its station's state (R85), stream order
(R86), one non-idempotent request in doubt (R87), the census and read conditions (R88, R89), the SUSPECT rule (R90),
the fence (R91) and the broadcast rule (R92); and every WAITING exchange that meets them is eligible.
That among the others only an unfinished exchange holds a census (R88) or a READ (R89) back is the model's reading (log entry
7). -/
def Obligations.JobOfferTakesOnlyEligible : Prop :=
  ∀ (s : State) (tag : Tag), ListsAgree s →
    let meets (x : Exchange) : Prop :=
      (∀ n, x.dest = .station n →
        (s.entry n).state ≠ .held ∧ (s.entry n).state ≠ .disabled ∧
        ((s.entry n).state = .vacant ∨ (s.entry n).state = .silent → x.kind = .census) ∧
        ((s.entry n).state = .recovering → x.kind = .census ∧ (s.entry n).holdTimer = none) ∧
        ((s.entry n).state = .resync → x.kind = .purge ∨ x.kind = .stationReset)) ∧
      (x.owner ≠ .internal → x.phase = .issue → ∀ t' y, s.earlier x.owner t' tag → s.xchg t' = some y →
        y.dest = x.dest ∨ y.dest = .broadcast → y.phase ≠ .issue ∨ y.live = false) ∧
      (∀ n, x.dest = .station n → x.kind.nonIdem = true → x.phase = .issue →
        (s.entry n).seqUncertain = false ∧
        ∀ t' y, t' ≠ tag → s.xchg t' = some y → y.dest = .station n → y.kind.nonIdem = true →
          ¬(y.phase = .issue ∧ (y.state = .onLine ∨ y.state = .backoff)) ∧ y.unanswered = false) ∧
      (∀ n, x.dest = .station n → x.kind = .census → (s.entry n).state ≠ .recovering →
        ∀ t' y, t' ≠ tag → s.xchg t' = some y → y.dest = .station n → y.kind.nonIdem = true →
          ¬(y.phase = .issue ∧ (y.state = .onLine ∨ y.state = .backoff)) ∧ ¬(y.unanswered = true ∧ y.live = true)) ∧
      (∀ n, x.dest = .station n → x.kind = .read → x.phase = .issue →
        (s.entry n).purgeNeeded = false ∧ ((s.entry n).capacity ≠ 0 →
          (s.entry n).deferred < (s.entry n).capacity ∧
          ∀ t' y, t' ≠ tag → s.xchg t' = some y → y.dest = .station n → y.kind = .read → y.phase = .issue →
            y.live = true → y.state ≠ .onLine → y.attempts = 0)) ∧
      (∀ n, x.dest = .station n → (s.entry n).state = .suspect → x.phase = .issue →
        ∀ t' y, t' ≠ tag → s.xchg t' = some y → y.dest = .station n →
          ¬(y.phase = .issue ∧ (y.state = .onLine ∨ y.state = .backoff))) ∧
      (x.fence = true → ∀ t' y, s.earlier x.owner t' tag → s.xchg t' = some y → y.live = false) ∧
      (x.kind = .bcastWrite → ∀ t' y, s.earlier x.owner t' tag → s.xchg t' = some y →
        y.phase ≠ .issue ∨ y.live = false)
    (∀ x, s.xchg tag = some x → x.state = .waiting → meets x → s.eligible tag = true) ∧
    ∀ (t : State) (ph : Phase) (q : ReqKind), s.line.state = .idle → exec .jobOffer s = .next t → t.line.state = .sending →
      t.line.job = some (.attempt tag ph q) → ∃ x, s.xchg tag = some x ∧ x.state = .waiting ∧ meets x


/-- The order of the jobs (R93, R94, R95): no eligible exchange of a lower class, and no due sweep before class 4 or
5, is passed over; classes 1 and 2 take the lowest tag, class 4 the first of the INTERNAL list, class 5 the oldest of
the first owner after the pointer, or of the window under WINDOW_FIRST; the sweep waits for classes 1 and 2 alone. -/
def Obligations.JobOfferOrder : Prop :=
  ∀ s : State, ListsAgree s → QuotasHold s →
    (s.choose = some .sweep → s.sweep.due = true ∧
      ∀ t' y, s.eligible t' = true → s.xchg t' = some y → 3 ≤ y.jobClass) ∧
    (s.choose = none → s.sweep.due = false ∧ ∀ t', s.eligible t' = false) ∧
    ∀ tag p, s.choose = some (.exchange tag p) → ∃ x, s.xchg tag = some x ∧ s.eligible tag = true ∧
      (x.phase = .abandon ∨ x.phase = .issue ∧ (x.kind = .purge ∨ x.kind = .stationReset) ↔ x.jobClass = 1) ∧
      (x.phase = .collect ↔ x.jobClass = 2) ∧
      (x.phase = .issue ∧ (x.kind = .census ∨ x.kind = .fetchEvent) ↔ x.jobClass = 4) ∧
      (x.jobClass = 4 ∨ x.jobClass = 5 → s.sweep.due = false) ∧
      (∀ t' y, s.eligible t' = true → s.xchg t' = some y → x.jobClass ≤ y.jobClass) ∧
      (x.jobClass ≤ 2 → p = s.pointer ∧
        ∀ t' y, s.eligible t' = true → s.xchg t' = some y → y.jobClass = x.jobClass → tag ≤ t') ∧
      (x.jobClass = 4 → p = s.pointer ∧
        ∀ t' y, s.eligible t' = true → s.xchg t' = some y → y.jobClass = 4 → ¬s.earlier .internal t' tag) ∧
      (x.jobClass = 5 →
        (∀ t' y, s.eligible t' = true → s.xchg t' = some y → y.jobClass = 5 → ¬s.earlier x.owner t' tag) ∧
        (s.regs.windowFirst = true → x.owner = .window → p = s.pointer) ∧
        (s.regs.windowFirst = true → x.owner ≠ .window →
          ∀ t' y, s.eligible t' = true → s.xchg t' = some y → y.jobClass = 5 → y.owner ≠ .window) ∧
        (s.regs.windowFirst = false ∨ x.owner ≠ .window → p.owner = x.owner ∧
          ∃ before after, s.pointer.after = before ++ p :: after ∧
            ∀ r ∈ before, ∀ t' y, s.eligible t' = true → s.xchg t' = some y → y.jobClass = 5 → y.owner ≠ r.owner))

/-- The frame the unit builds for each request (R50, R51, R52, R53, R69, R175): the six header bytes, the payload of a WRITE
or BCAST_WRITE from the exchange's units, the two check bytes, high-order byte first, and the closing mark; and the SWEEP
frame.
That the count byte of a CONTROL ABANDON is its control op, and not the length - 1 of its READ, is the model's choice between
two sentences of R52 (log entry 32).
The check value (R51): its start, one byte fed in, the residue 0 over an intact frame, the manual's nine bytes. The symbols
of a frame, its length, the halves of a BT, and what the unit drives in each line state (R49, R50, R67, R75, R76, R78, R174).
How a bid slot is read (R74, R174). -/
def Obligations.RequestFrameBytes : Prop :=
  (∀ (tag : Tag) (x : Exchange) (m : List Host.Cell),
     let frame (code second count : Byte) (addr : BitVec 16) (payload : List Byte) (mark : Mark) : Prop :=
       let body := [code, second, BitVec.ofNat 8 tag.val, count, addr.extractLsb' 0 8, addr.extractLsb' 8 8] ++ payload
       requestFrame tag x m =
         { bytes := body ++ [(crc16 body).extractLsb' 8 8, (crc16 body).extractLsb' 0 8], closing := mark }
     (∀ n, x.dest = .station n →
       let st := BitVec.ofNat 8 (addrOf n)
       let stSeq := BitVec.ofNat 8 (addrOf n + if x.seqUsed.getD false then 32 else 0)
       let reg := x.regAddr.getD 0#16
       let lengthByte := BitVec.ofNat 8 (x.length.getD 1 - 1)
       (x.kind = .write → frame 0x11#8 stSeq lengthByte reg ((List.range (x.length.getD 0)).map (readUnit x.units m)) .hand) ∧
       (x.kind = .read → x.phase = .issue → frame 0x12#8 st lengthByte reg [] .hand) ∧
       (x.kind = .signal → frame 0x13#8 stSeq (x.signalOp.getD 0#8) reg [] .hand) ∧
       (x.kind = .read → x.phase = .collect → frame 0x14#8 st lengthByte reg [] .hand) ∧
       (x.kind = .read → x.phase = .abandon → frame 0x15#8 st 0x01#8 reg [] .hand) ∧
       (x.kind = .purge → frame 0x15#8 st 0x02#8 0#16 [] .hand) ∧
       (x.kind = .stationReset → frame 0x15#8 st 0x03#8 0#16 [] .hand) ∧
       (x.kind = .census → frame 0x16#8 st 0#8 0#16 [] .hand) ∧
       (x.kind = .fetchEvent → frame 0x17#8 stSeq 0#8 0#16 [] .hand)) ∧
     (x.dest = .broadcast → x.kind = .bcastWrite →
       frame 0x18#8 31#8 (BitVec.ofNat 8 (x.length.getD 1 - 1)) (x.regAddr.getD 0#16)
         ((List.range (x.length.getD 0)).map (readUnit x.units m)) .fin) ∧
     (let body := [0x19#8, 31#8, 0#8, 0#8, 0#8, 0#8]
      sweepFrame = { bytes := body ++ [(crc16 body).extractLsb' 8 8, (crc16 body).extractLsb' 0 8], closing := .fin })) ∧
  (∀ (bs : List Byte) (b : Byte),
     crc16 [] = 0xFFFF#16 ∧
     crc16 (bs ++ [b]) = (List.range 8).foldl (fun (r : BitVec 16) i =>
       if r.getLsbD 15 ≠ b.getLsbD (7 - i) then (r <<< 1) ^^^ 0x1021#16 else r <<< 1) (crc16 bs) ∧
     crc16 (bs ++ [(crc16 bs).extractLsb' 8 8, (crc16 bs).extractLsb' 0 8]) = 0#16 ∧
     crc16 [0x31#8, 0x32#8, 0x33#8, 0x34#8, 0x35#8, 0x36#8, 0x37#8, 0x38#8, 0x39#8] = 0x29B1#16) ∧
  (∀ (f : Frame) (s : State),
     let data (b : Bool) : LineSym := if b then .one else .zero
     let byte (b : Byte) : List LineSym := .zero :: (List.range 8).map (fun i => data (b.getLsbD i)) ++ [.one]
     f.symbols = [.one, .zero, .one, .zero, .one, .zero, .one, .zero] ++ [.high, .low, .one, .zero] ++ f.bytes.flatMap byte ++
       (match f.closing with
         | .start => [.high, .low, .one, .zero]
         | .hand => [.low, .high, .zero, .one]
         | .fin => [.high, .high, .low, .low]) ∧
     f.symbols.length = 16 + 10 * f.bytes.length ∧
     (∀ tag x m, (requestFrame tag x m).symbols.length = 96 + 10 * (requestPayload (requestKind x) x m).length) ∧
     [LineSym.one, .zero, .high, .low].map halves = [[true, false], [false, true], [true, true], [false, false]] ∧
     (s.line.state = .sending → s.line.contentionWait = false → s.line.txFrame = some f → s.driven = f.symbols) ∧
     (s.line.state = .wake → s.line.contentionWait = false →
       s.driven = (List.range 512).map fun i => data (i % 2 == 0)) ∧
     (s.line.state = .break → s.line.breakKind = some .short → s.driven = List.replicate 32 .low) ∧
     (s.line.state = .break → s.line.breakKind = some .long → s.driven = List.replicate 256 .low) ∧
     (s.line.state ≠ .sending → s.line.state ≠ .wake → s.line.state ≠ .break → s.driven = [] ∧ s.linkDE = false) ∧
     (s.line.contentionWait = true → s.line.state ≠ .break → s.driven = [] ∧ s.linkDE = false)) ∧
  (∀ (pattern : List LineSym) (inFirst quietAfter : Bool),
     let code := inFirst = true ∧ quietAfter = true
     readSlot .quiet = .empty ∧
     (code → readSlot (.driven inFirst [.one, .zero, .one, .one] quietAfter) = .ready) ∧
     (code → readSlot (.driven inFirst [.one, .one, .zero, .one] quietAfter) = .event) ∧
     (code → readSlot (.driven inFirst [.one, .zero, .zero, .one] quietAfter) = .both) ∧
     (¬code ∨ pattern ∉ [[.one, .zero, .one, .one], [.one, .one, .zero, .one], [.one, .zero, .zero, .one]] →
       readSlot (.driven inFirst pattern quietAfter) = .garbled))

/-- REQUEST_FRAME_SENT, SWEEP_FRAME_SENT, REPLY_START and EARLY_FRAMING_FAULT (R8, R69, R70, R71, R74): the line's next
state, the frame-whole mark, the reply window, and the unanswered mark of a non-idempotent request.
Contention, breaks, GUARD and WAKE (R73, R75, R76, R78, R100): contention in WAKE and in a sweep, the wait for quiet
and the short break after it, the ends of BREAK, GUARD and WAKE, and LINK_READY raised on entry to IDLE while ready
pending is set. -/
def Obligations.LineEvents : Prop :=
  (∀ s : State,
     (∀ tag ph q x, CountsAgree s → s.line.state = .sending → s.line.job = some (.attempt tag ph q) →
       q ≠ .bcastWrite → q ≠ .sweep → s.xchg tag = some x →
       exec .requestFrameSent s = .next
         { s with
           table := { s.table with xs := s.table.xs.set tag (some { x with
             unanswered := x.unanswered || (x.kind.nonIdem && x.phase == .issue) }) }
           line := { s.line with
             state := .await, frameWhole := true, txFrame := none, timer := some s.regs.replyWindow } }) ∧
     (s.line.state = .sending → s.line.job = some .sweep → exec .sweepFrameSent s = .next
       { s with line := { s.line with state := .slots, frameWhole := true, txFrame := none } }) ∧
     (s.line.state = .await → exec .replyStart s = .next
       { s with line := { s.line with state := .receiving, timer := none } }) ∧
     (s.line.state = .receiving → exec .earlyFramingFault s = .next
       { s with line := { s.line with settling := true } })) ∧
  (∀ s : State,
     let inGuard := { s.line with
       state := .guard, job := none, txFrame := none, timer := some s.regs.guardTime, settling := false
       contentionWait := false, breakKind := none, breakCause := none }
     let inIdle : State := { s with
       line := { s.line with state := .idle, timer := none, readyPending := false }
       irq := { s.irq with edge := if s.line.readyPending then s.irq.edge ||| 0x80#32 else s.irq.edge } }
     (s.line.state = .wake → s.line.contentionWait = false → s.line.job = none → exec .contention s = .next
       { s with line := { s.line with contentionWait := true, timer := none } }) ∧
     (s.line.state = .sending → s.line.contentionWait = false → s.line.job = some .sweep → exec .contention s = .next
       { s with
         line := { s.line with
           contentionWait := true, job := none, txFrame := none
           lastFault := some { kind := .contention, station := 31#5, tag := 0 } }
         sweep := { s.sweep with due := true } }) ∧
     (s.line.contentionWait = true → exec .contentionWaitEnd s = .next
       { s with line := { s.line with
           state := .break, breakKind := some .short, breakCause := some .contention, job := none, txFrame := none
           faultCount := 0, timer := some 32, settling := false, contentionWait := false } }) ∧
     (s.line.state = .break → exec .breakEnd s = .next { s with line := inGuard }) ∧
     (s.line.state = .guard → exec .guardEnd s = .next inIdle) ∧
     (s.line.state = .wake → s.line.contentionWait = false → exec .wakeEnd s = .next inIdle))

/-- BCAST_WRITE_SENT (R69, R121): the broadcast completes OK and joins its channel's completion list, and the line is in
GUARD. Lost to contention with retries left, it goes to BACKOFF with the gap loaded (R75, R118); lost on its last retry, it
completes RETRY_EXHAUSTED with fault kind CONTENTION, and the unit waits for quiet (R75, R121). A broadcast that went out
changes nothing in the directory, read where no channel has a failure it has not yet stopped for (R121, R148). -/
def Obligations.BroadcastCompletes : Prop :=
  ∀ (s : State) (tag : Tag) (ph : Phase) (x : Exchange) (c : Chan), ListsAgree s → CountsAgree s →
    s.line.state = .sending → s.line.job = some (.attempt tag ph .bcastWrite) → s.xchg tag = some x →
    x.state = .onLine → x.owner = .list c → x.kind = .bcastWrite → x.dest = .broadcast →
    let backs : Exchange := { x with state := .backoff, backoff := some (s.regs.retryGap * x.attempts * 64) }
    (x.phase = .issue → x.attempts < s.regs.retryLimit + 1 → (s.chan c).cancel = .none → s.line.contentionWait = false →
      exec .contention s = .next
        { s with
          table := { s.table with xs := s.table.xs.set tag (some backs) }
          line := { s.line with
            lastFault := some { kind := .contention, station := 31#5, tag := tag }
            contentionWait := true, job := none, txFrame := none } }) ∧
    (x.phase = .issue → s.regs.retryLimit + 1 ≤ x.attempts → s.line.contentionWait = false →
      ∃ t y, exec .contention s = .next t ∧ t.xchg tag = some y ∧ KeepsRequest x y ∧ y.state = .complete ∧
        y.result = some
          { status := .retryExhausted, detail := some (.fault .contention), replyLength := 0, repeated := false
            uncertain := false, epochSeen := x.epochSeen, attempts := x.attempts } ∧
        tag ∈ t.table.compl c ∧
        t.line = { s.line with
          lastFault := some { kind := .contention, station := 31#5, tag := tag }
          contentionWait := true, job := none, txFrame := none } ∧
        t.store = s.store ∧ t.events = s.events ∧ t.window = s.window ∧ t.regs = s.regs ∧ t.sweep = s.sweep ∧
        ((∀ c', (s.chan c').state ≠ .running ∧ (s.chan c').state ≠ .paused) → t.dir = s.dir)) ∧
    ∃ t y, exec .bcastWriteSent s = .next t ∧ t.xchg tag = some y ∧ KeepsRequest x y ∧ y.state = .complete ∧
      y.result = some
        { status := .ok, detail := none, replyLength := 0, repeated := false, uncertain := false,
          epochSeen := x.epochSeen, attempts := x.attempts } ∧
      tag ∈ t.table.compl c ∧
      t.line = { s.line with
        state := .guard, job := none, frameWhole := true, txFrame := none, timer := some s.regs.guardTime
        contentionWait := false, settling := false, breakKind := none, breakCause := none } ∧
      t.store = s.store ∧ t.events = s.events ∧ t.window = s.window ∧ t.regs = s.regs ∧ t.sweep = s.sweep ∧
      ((∀ c', (s.chan c').state = .running ∨ (s.chan c').state = .paused → s.hasFailure c' = false) → t.dir = s.dir)

/-- An attempt lost to a retried fault with retries left (R116, R118, R123, R124, R77, R82): after TIMEOUT
(REPLY_WINDOW_EXPIRY), FRAMING (LINE_SETTLED, STUCK_LINE_TIMEOUT), a reply judged CRC, FRAMING or WRONG_STATION at its END mark
(REPLY_RECEIVED), or CONTENTION the exchange is in BACKOFF with the gap loaded; the counted faults raise the station's
consecutive failures and may make a PRESENT station SUSPECT; last fault is recorded; the line goes on as its rule says;
nothing else changes. Read where no cancellation reaches the exchange and the station stays below SILENT_THRESHOLD. -/
def Obligations.LostAttemptIsRetried : Prop :=
  ∀ (s : State) (tag : Tag) (ph : Phase) (q : ReqKind) (x : Exchange) (n : Stn), CountsAgree s →
    s.line.job = some (.attempt tag ph q) → s.xchg tag = some x → x.state = .onLine → x.dest = .station n →
    x.attempts < s.regs.retryLimit + 1 → ¬(x.phase = .collect ∧ x.expired = true) → s.cancelOf x.owner = .none →
    let k := min 15 ((s.entry n).failures + 1)
    let backs := s.table.xs.set tag
      (some { x with state := .backoff, backoff := some (s.regs.retryGap * x.attempts * 64) })
    let suspect := (s.entry n).state = .present ∧ s.regs.suspectThreshold ≤ k
    let counted : Directory := { s.dir with
      entries := s.dir.entries.set n { s.entry n with
        failures := k, state := if suspect then .suspect else (s.entry n).state }
      changes := if suspect then s.dir.changes ||| 1#32 <<< addrOf n else s.dir.changes }
    let fault (f : FaultKind) : Option LastFault := some { kind := f, station := stnField n, tag := tag }
    let guarded := { s.line with
      state := .guard, job := none, txFrame := none, timer := some s.regs.guardTime, settling := false
      contentionWait := false, breakKind := none, breakCause := none }
    let broken (cause : BreakCause) := { s.line with
      state := .break, job := none, txFrame := none, breakKind := some .short, breakCause := some cause
      faultCount := 0, timer := some 32, settling := false, contentionWait := false }
    let reached := s.regs.lineFaultLimit ≤ s.line.faultCount + 1
    (k < s.regs.silentThreshold → s.line.state = .await → exec .replyWindowExpiry s = .next
      { s with
        table := { s.table with xs := backs }, dir := counted
        line := { guarded with lastFault := fault .timeout } }) ∧
    (k < s.regs.silentThreshold → s.line.state = .receiving → s.line.settling = false →
      ∀ bytes f, judgeReply tag x bytes = .outcome (.lost f) → exec (.replyReceived bytes) s = .next
        { s with
          table := { s.table with xs := backs }, dir := counted
          line := if f = .wrongStation then { guarded with lastFault := fault f, faultCount := 0 }
            else if reached then { broken .lineFault with lastFault := fault f }
            else { guarded with lastFault := fault f, faultCount := s.line.faultCount + 1 }
          irq := { s.irq with
            edge := if f ≠ .wrongStation ∧ reached then s.irq.edge ||| 0x20#32 else s.irq.edge } }) ∧
    (k < s.regs.silentThreshold → s.line.state = .receiving → s.line.settling = true →
      exec .lineSettled s = .next
        { s with
          table := { s.table with xs := backs }, dir := counted
          line := if reached then { broken .lineFault with lastFault := fault .framing }
            else { guarded with lastFault := fault .framing, faultCount := s.line.faultCount + 1 }
          irq := { s.irq with edge := if reached then s.irq.edge ||| 0x20#32 else s.irq.edge } } ∧
      exec .stuckLineTimeout s = .next
        { s with
          table := { s.table with xs := backs }, dir := counted
          line := { broken .stuckLine with lastFault := fault .framing }
          irq := { s.irq with edge := if reached then s.irq.edge ||| 0x20#32 else s.irq.edge } }) ∧
    (s.line.state = .sending → s.line.contentionWait = false → exec .contention s = .next
      { s with
        table := { s.table with xs := backs }
        line := { s.line with
          lastFault := fault .contention, contentionWait := true, job := none, txFrame := none } })

/-- The last retry of an attempt (R122, R15, R17, R126, R157, R161): on a retried fault, TIMEOUT, CRC, FRAMING,
WRONG_STATION or CONTENTION, a READ to a station that can defer goes to the ABANDON phase; a channel's WRITE, SIGNAL, or READ to
a station that cannot defer completes RETRY_EXHAUSTED with the fault kind and its tag in the completion list; a WRITE of the
window goes FREE with RETRY_EXHAUSTED entered in the fault record, and where its request had gone out unanswered the station's
sequence-uncertain mark is set and it stands in the census list. CONTENTION does not count against the station (R123). -/
def Obligations.RetriesUsedUp : Prop :=
  ∀ (s : State) (tag : Tag) (ph : Phase) (q : ReqKind) (x : Exchange) (n : Stn) (i : Instr) (k : FaultKind),
    ListsAgree s → s.line.job = some (.attempt tag ph q) → s.xchg tag = some x → x.state = .onLine →
    x.dest = .station n → x.phase = .issue → s.regs.retryLimit + 1 ≤ x.attempts → s.endsAttempt i tag x (.lost k) →
    (k ≠ .contention → min 15 ((s.entry n).failures + 1) < s.regs.silentThreshold) →
    ∃ t, exec i s = .next t ∧ (k = .timeout → t.line.state = .guard) ∧ t.line.job = none ∧
      t.store = s.store ∧ t.events = s.events ∧ t.regs = s.regs ∧ t.sweep = s.sweep ∧ t.pointer = s.pointer ∧
      t.portLast = s.portLast ∧ t.bus = s.bus ∧ t.views = s.views ∧ t.irq.enable = s.irq.enable ∧
      t.dir.rediscovery = s.dir.rediscovery ∧ t.line.rate = s.line.rate ∧ t.line.readyPending = s.line.readyPending ∧
      t.line.lastFault = some { kind := k, station := stnField n, tag := tag } ∧
      (t.entry n).failures =
        (if k = .contention then (s.entry n).failures else min 15 ((s.entry n).failures + 1)) ∧
      (x.kind = .read → 1 ≤ (s.entry n).capacity → s.cancelOf x.owner = .none →
        t.xchg tag = some { x with
          phase := .abandon, state := .waiting, attempts := 0, backoff := none, deadline := none, expired := false
          carried := some { status := .retryExhausted, fault := some k } }) ∧
      (∀ c, x.owner = .list c →
        x.kind = .write ∨ x.kind = .signal ∨ x.kind = .read ∧ (s.entry n).capacity = 0 →
        tag ∈ t.table.compl c ∧ ∃ y, t.xchg tag = some y ∧ y.state = .complete ∧ y.result = some
          { status := .retryExhausted, detail := some (.fault k), replyLength := 0, repeated := false
            uncertain := x.kind.nonIdem && x.unanswered, epochSeen := x.epochSeen, attempts := x.attempts }) ∧
      (x.kind = .write → x.owner = .window →
        t.xchg tag = none ∧
        (s.window.fault = none → t.window.fault = some
          { station := n, reg := x.regAddr.getD 0#16, dir := .write, status := .retryExhausted
            detail := some (.fault k), uncertain := x.unanswered }) ∧
        (s.window.fault ≠ none → t.window.fault = s.window.fault ∧ t.window.overflow = true) ∧
        (x.unanswered = true → (t.entry n).seqUncertain = true ∧
          ((s.entry n).state ≠ .disabled → n ∈ t.dir.census)))

/-! ## Replies -/

/-- The checks on a reply without payload, in their order (R71, R54, R56, R176): too few bytes are an early FRAMING
fault (log entry 14) and too many a FRAMING fault; then the CRC; then the station; a well-formed ACCEPT that answers a
WRITE with the right tag and sequence echo is accepted, with its epoch, attention and repeat flags; one that does not is
UNEXPECTED.
The same checks on a reply of any kind (R54, R56, R71, R176): the payload size the header implies, the OVERRUN of a DATA
longer than its READ (in the COLLECT phase too, log entry 15), the replies allowed for each request, the tag, the sequence
echo and the payload sizes of IDENT and EVENT.
What the receiver makes of the symbols it sees (R50, R70, R71, R174): the END mark after whole bytes ends the frame; a bad start
or stop bit, a stray mark or level, and more than 20 BT of quiet are an early FRAMING fault; a START mark complete within
the reply window begins the reply, after quiet or after quiet and the preamble; a preamble or a mark only begun at the end of
the window is an expiry (R70), and before the end it is no event yet. -/
def Obligations.ReplyChecksInOrder : Prop :=
  (∀ (tag : Tag) (x : Exchange) (n : Stn) (b : Bool) (st tagB ep count c₁ c₂ : Byte),
     x.kind = .write → x.dest = .station n → x.seqUsed = some b →
     let body : List Byte := [0x21#8, st, tagB, ep, count]
     let head : ReplyHead := { epoch := ep.extractLsb' 0 4, attReady := tagB.getLsbD 5, attEvent := tagB.getLsbD 6 }
     (∀ bytes : List Byte, bytes.length < 7 → judgeReply tag x bytes = .early) ∧
     (∀ more : List Byte, more ≠ [] → judgeReply tag x (body ++ [c₁, c₂] ++ more) = .outcome (.lost .framing)) ∧
     ([c₁, c₂] ≠ crcBytes body → judgeReply tag x (body ++ [c₁, c₂]) = .outcome (.lost .crc)) ∧
     (st.toNat % 32 ≠ addrOf n → judgeReply tag x (body ++ crcBytes body) = .outcome (.lost .wrongStation)) ∧
     (st.toNat % 32 = addrOf n → tagB.toNat % 32 = tag.val → st.getLsbD 5 = b →
       judgeReply tag x (body ++ crcBytes body) = .outcome (.reply
         { kind := .accept, head := head, repeated := st.getLsbD 6, reason := reasonOfCode (ep.toNat / 16), payload := [] })) ∧
     (st.toNat % 32 = addrOf n → tagB.toNat % 32 ≠ tag.val ∨ st.getLsbD 5 ≠ b →
       judgeReply tag x (body ++ crcBytes body) = .outcome (.sound .unexpected head))) ∧
  (∀ (tag : Tag) (x : Exchange) (n : Stn) (kind st tagB ep count : Byte) (payload : List Byte),
     x.dest = .station n →
     payload.length = (if kind = 0x22#8 ∨ kind = 0x28#8 ∨ kind = 0x29#8 then count.toNat + 1 else 0) →
     let header : List Byte := [kind, st, tagB, ep, count]
     let body := header ++ payload
     let judged (v : Verdict) : Prop := judgeReply tag x (body ++ crcBytes body) = .outcome v
     let head : ReplyHead := { epoch := ep.extractLsb' 0 4, attReady := tagB.getLsbD 5, attEvent := tagB.getLsbD 6 }
     let kinds : List (Byte × ReplyKind) :=
       [(0x21#8, .accept), (0x22#8, .data), (0x23#8, .defer), (0x24#8, .busy), (0x25#8, .refuse), (0x26#8, .notReady),
        (0x27#8, .unknownTag), (0x28#8, .ident), (0x29#8, .event), (0x2A#8, .noEvent)]
     let allowed : List (ReqKind × List ReplyKind) :=
       [(.write, [.accept, .busy, .refuse]), (.signal, [.accept, .busy, .refuse]), (.read, [.data, .defer, .busy, .refuse]),
        (.collect, [.data, .notReady, .unknownTag]), (.abandon, [.accept, .unknownTag]), (.purge, [.accept]),
        (.stationReset, [.accept]), (.census, [.ident]), (.fetchEvent, [.event, .noEvent, .busy])]
     let own : Prop := st.toNat % 32 = addrOf n
     let overrun : Prop := kind = 0x22#8 ∧ x.kind = .read ∧ x.length.getD 0 < payload.length
     let sizeOk : Prop := (kind = 0x28#8 → payload.length = 4) ∧ (kind = 0x29#8 → 2 ≤ payload.length ∧ payload.length ≤ 14)
     let matched : Prop := tagB.toNat % 32 = tag.val ∧ st.getLsbD 5 = (x.kind.nonIdem && x.seqUsed.getD false)
     let answers (rk : ReplyKind) : Prop := (kind, rk) ∈ kinds ∧ ∃ l, (requestKind x, l) ∈ allowed ∧ rk ∈ l
     (∀ rest : List Byte, rest.length < payload.length + 2 → judgeReply tag x (header ++ rest) = .early) ∧
     (∀ rest : List Byte, payload.length + 2 < rest.length → judgeReply tag x (header ++ rest) = .outcome (.lost .framing)) ∧
     (∀ c₁ c₂ : Byte, [c₁, c₂] ≠ crcBytes body → judgeReply tag x (body ++ [c₁, c₂]) = .outcome (.lost .crc)) ∧
     (¬own → judged (.lost .wrongStation)) ∧
     (own → overrun → judged (.sound .overrun head)) ∧
     (own → ¬overrun → ∀ rk, answers rk → sizeOk → matched → judged (.reply
       { kind := rk, head := head, repeated := x.kind.nonIdem && st.getLsbD 6
         reason := ([(1, Reason.badAddress), (2, .badLength), (3, .readOnly), (4, .unsupported)].lookup
           (ep.toNat / 16)).getD .stationFault
         payload := payload })) ∧
     (own → ¬overrun → (∀ rk, ¬answers rk) ∨ ¬sizeOk ∨ ¬matched → judged (.sound .unexpected head))) ∧
  (∀ (bs : List Byte) (b : Byte) (k : Nat) (y : LineSym) (rest : List (Option LineSym)) (window : Nat),
     let byte (b : Byte) : List LineSym :=
       .zero :: (List.range 8).map (fun i => if b.getLsbD i then .one else .zero) ++ [.one]
     let seen (l : List LineSym) : List (Option LineSym) := (bs.flatMap byte ++ l).map some ++ rest
     receivedRow (seen [.high, .high, .low, .low]) = some (.replyReceived bs) ∧
     (y = .one ∨ y = .low → receivedRow (seen [y]) = some .earlyFramingFault) ∧
     receivedRow (seen [.low, .high, .zero, .one]) = some .earlyFramingFault ∧
     receivedRow (seen [.high, .low, .one, .zero]) = some .earlyFramingFault ∧
     (1 ≤ k → k ≤ 9 → y = .high ∨ y = .low → receivedRow (seen ((byte b).take k ++ [y])) = some .earlyFramingFault) ∧
     receivedRow (seen ((byte b).take 9 ++ [.zero])) = some .earlyFramingFault ∧
     receivedRow ((bs.flatMap byte ++ (byte b).take (min k 9)).map some ++ List.replicate 21 none ++ rest) =
       some .earlyFramingFault ∧
     receivedRow ((bs.flatMap byte ++ (byte b).take (min k 9)).map some ++ List.replicate (min k 20) none) = none ∧
     (rest.length + 6 ≤ window → (∀ z ∈ rest, z = none) →
       awaitRow window ([none, none] ++ rest ++ [some .high, some .low, some .one, some .zero]) = some .replyStart) ∧
     (window ≤ rest.length → (∀ z ∈ rest, z ≠ some .high) → awaitRow window rest = some .replyWindowExpiry) ∧
     -- quiet, then the first j BT of a preamble with its START mark
     let coming (j : Nat) : List (Option LineSym) := [none, none] ++ rest ++
       ([.one, .zero, .one, .zero, .one, .zero, .one, .zero, .high, .low, .one, .zero].take j).map some
     ((∀ z ∈ rest, z = none) →
       (rest.length + 14 ≤ window → awaitRow window (coming 12) = some .replyStart) ∧
       ∀ j, (window < rest.length + 14 → window ≤ (coming j).length →
           awaitRow window (coming j) = some .replyWindowExpiry) ∧
         (j < 12 → (coming j).length < window → awaitRow window (coming j) = none)))

/-- REPLY_RECEIVED with bytes that end too early leaves the unit waiting for the line to settle; any outcome of a
frame is reported and the line goes to GUARD with the line-fault count of R77, or at the limit to a short break with
LINE_FAULT raised (R71, R72, R77, R82).
That bytes which end too early are an early FRAMING fault is the model's reading (log entry 14).
The attention flags of a sound reply, accepted or not, to a WRITE, SIGNAL or READ of the recorded epoch (R104, R102, R103):
READY wakes the station's other PARKED exchanges, the reply's own apart, or sets the kept READY mark of a HELD or RECOVERING
station; EVENT sets the event-pending flag; a clear flag changes nothing. -/
def Obligations.LineAfterAReply : Prop :=
  (∀ (s : State) (tag : Tag) (ph : Phase) (q : ReqKind) (x : Exchange) (n : Stn) (bytes : List Byte),
     s.line.state = .receiving → s.line.settling = false → s.line.job = some (.attempt tag ph q) →
     s.xchg tag = some x → x.dest = .station n →
     (judgeReply tag x bytes = .early → exec (.replyReceived bytes) s = .next
       { s with line := { s.line with settling := true } }) ∧
     ∀ v, judgeReply tag x bytes = .outcome v → ∃ t, exec (.replyReceived bytes) s = .next t ∧
       t.line.job = none ∧ t.line.txFrame = none ∧ t.line.settling = false ∧
       t.line.rate = s.line.rate ∧ t.line.readyPending = s.line.readyPending ∧ t.line.frameWhole = s.line.frameWhole ∧
       t.regs = s.regs ∧ t.sweep = s.sweep ∧ t.pointer = s.pointer ∧ t.portLast = s.portLast ∧ t.bus = s.bus ∧
       t.views = s.views ∧ t.irq.enable = s.irq.enable ∧ t.dir.rediscovery = s.dir.rediscovery ∧
       ((∃ r, v = .reply r) → t.line.lastFault = s.line.lastFault ∧ t.line.state = .guard ∧ t.line.faultCount = 0 ∧
         t.line.timer = some s.regs.guardTime) ∧
       (∀ k h, v = .sound k h → t.line.state = .guard ∧ t.line.faultCount = 0 ∧ t.store = s.store ∧
         t.line.lastFault = some { kind := k, station := stnField n, tag := tag }) ∧
       (v = .lost .crc ∨ v = .lost .framing →
         (∃ k, v = .lost k ∧ t.line.lastFault = some { kind := k, station := stnField n, tag := tag }) ∧
         (s.line.faultCount + 1 < s.regs.lineFaultLimit →
           t.line.state = .guard ∧ t.line.faultCount = s.line.faultCount + 1 ∧ t.store = s.store) ∧
         (s.regs.lineFaultLimit ≤ s.line.faultCount + 1 →
           t.line.state = .break ∧ t.line.breakKind = some .short ∧ t.line.breakCause = some .lineFault ∧
           t.line.faultCount = 0 ∧ t.line.timer = some 32 ∧ t.irq.edge.getLsbD 5 = true ∧ t.store = s.store)) ∧
       (v = .lost .wrongStation → t.line.state = .guard ∧ t.line.faultCount = 0 ∧ t.store = s.store ∧
         t.line.lastFault = some { kind := .wrongStation, station := stnField n, tag := tag })) ∧
  (∀ (s : State) (tag : Tag) (ph : Phase) (q : ReqKind) (x : Exchange) (n : Stn) (bytes : List Byte) (v : Verdict)
     (h : ReplyHead), s.line.state = .receiving → s.line.settling = false → s.line.job = some (.attempt tag ph q) →
     s.xchg tag = some x → x.state = .onLine → x.dest = .station n →
     x.kind = .write ∨ x.kind = .signal ∨ x.kind = .read → judgeReply tag x bytes = .outcome v →
     (∃ r, v = .reply r ∧ r.head = h) ∨ (∃ k, v = .sound k h) → (s.entry n).epoch = some h.epoch →
     let heardIn (l : List StnState) : Prop := (s.entry n).state ∈ l
     let known : List StnState := [.present, .suspect, .resync]
     let kept : List StnState := [.held, .recovering]
     ∃ t, exec (.replyReceived bytes) s = .next t ∧
       (∀ t' y, t' ≠ tag → s.xchg t' = some y → y.dest = .station n → y.state = .parked → y.phase = .collect →
         t.xchg t' = some (if h.attReady = true ∧ heardIn known then { y with state := .waiting } else y)) ∧
       (∀ r, v = .reply r → r.kind = .notReady → x.expired = false → x.phase = .collect →
         s.cancelOf x.owner = .none → ∃ y, t.xchg tag = some y ∧ y.state = .parked) ∧
       (t.entry n).keptReady = ((s.entry n).keptReady || (h.attReady && decide (heardIn kept))) ∧
       (t.entry n).eventPending = ((s.entry n).eventPending || (h.attEvent && decide (heardIn (known ++ kept)))))

/-- Accepted replies on which the exchange goes on (R106, R109, R112, R119, R9, R14, R102, R108): DEFER enters COLLECT,
PARKED, with the deadline loaded, and the station's deferred count rises; NOT_READY parks again, or with the expired
mark enters ABANDON; BUSY below BUSY_LIMIT enters BACKOFF. The station's failures are cleared, a SUSPECT station is
PRESENT, and nothing else changes. Read for a reply of the recorded epoch with clear attention flags and no
cancellation. -/
def Obligations.ReplyKeepsTheExchange : Prop :=
  ∀ (s : State) (tag : Tag) (ph : Phase) (q : ReqKind) (x : Exchange) (n : Stn) (bytes : List Byte) (r : Reply),
    CountsAgree s → s.line.state = .receiving → s.line.settling = false → s.line.job = some (.attempt tag ph q) →
    s.xchg tag = some x → x.state = .onLine → x.dest = .station n → judgeReply tag x bytes = .outcome (.reply r) →
    (s.entry n).epoch = some r.head.epoch → r.head.attReady = false → r.head.attEvent = false →
    s.cancelOf x.owner = .none →
    let after (y : Exchange) (deferred : Nat) : Prop :=
      exec (.replyReceived bytes) s = .next
        { s with
          table := { s.table with xs := s.table.xs.set tag (some y) }
          dir := { s.dir with
            entries := s.dir.entries.set n { s.entry n with
              failures := 0, deferred := deferred
              state := if (s.entry n).state = .suspect then .present else (s.entry n).state }
            changes := if (s.entry n).state = .suspect then s.dir.changes ||| 1#32 <<< addrOf n else s.dir.changes }
          line := { s.line with
            state := .guard, job := none, txFrame := none, timer := some s.regs.guardTime, settling := false
            contentionWait := false, breakKind := none, breakCause := none, faultCount := 0 } }
    (x.kind = .read → x.phase = .issue → r.kind = .defer → 1 ≤ (s.entry n).capacity →
      after { x with
        epochSeen := some r.head.epoch, phase := .collect, state := .parked, attempts := 0
        deadline := some (.running (s.regs.deferDeadline * 1024)) } ((s.entry n).deferred + 1)) ∧
    (x.kind = .read → x.phase = .collect → r.kind = .notReady → x.expired = false →
      after { x with epochSeen := some r.head.epoch, state := .parked, attempts := 0 } (s.entry n).deferred) ∧
    (x.kind = .read → x.phase = .collect → r.kind = .notReady → x.expired = true →
      after { x with
        epochSeen := some r.head.epoch, phase := .abandon, state := .waiting, attempts := 0, backoff := none
        deadline := none, expired := false, carried := some { status := .deferExpired, fault := none } }
        (s.entry n).deferred) ∧
    (x.phase = .issue → r.kind = .busy → x.busyCount + 1 < s.regs.busyLimit →
      after { x with
        epochSeen := some r.head.epoch, unanswered := x.unanswered && !x.kind.nonIdem, busyCount := x.busyCount + 1
        attempts := 0, state := .backoff, backoff := some (s.regs.busyGap * 64) } (s.entry n).deferred)

/-- Replies that complete a channel's exchange (R106, R109, R116, R120, R14, R15, R17): ACCEPT of a WRITE or SIGNAL,
DATA of a READ, whose bytes are then in its units, REFUSE, and UNEXPECTED in the ISSUE phase. The record is COMPLETE
with the result, and its tag stands in the completion list.
How collection and abandonment end, and what else completes a channel's exchange (R38, R107, R109, R110, R112, R113, R114,
R119): ACCEPT and UNKNOWN_TAG end the ABANDON phase with the carried status; an ABANDON that cannot be completed ends so
too and sets the purge-needed mark; a COLLECT goes to ABANDON when its retries are used up or its expired mark is set, and
completes PROTOCOL on UNKNOWN_TAG, and on a sound fault, with the mark where the station can defer; a READ in the ISSUE
phase completes PROTOCOL on a sound fault, with the mark after a second attempt, and on a DEFER from a station of capacity
0; a last BUSY completes BUSY_EXHAUSTED. The mark brings a PURGE record to a station that is in, and the deferred count
falls by 1.
That a REFUSE or a last BUSY leaves the repeat flag of the result no is the model's reading (log entry 39). -/
def Obligations.ReplyCompletesAChannelsExchange : Prop :=
  (∀ (s : State) (tag : Tag) (ph : Phase) (q : ReqKind) (x : Exchange) (n : Stn) (c : Chan) (bytes : List Byte),
     ListsAgree s → s.line.state = .receiving → s.line.settling = false → s.line.job = some (.attempt tag ph q) →
     s.xchg tag = some x → x.state = .onLine → x.dest = .station n → x.owner = .list c →
     let completes (st : Status) (d : Option Detail) (len : Nat) (rep unc : Bool) (ep : BitVec 4) : Prop :=
       ∃ t y, exec (.replyReceived bytes) s = .next t ∧ t.xchg tag = some y ∧ y.state = .complete ∧
         y.units = x.units ∧ tag ∈ t.table.compl c ∧
         (∀ r, judgeReply tag x bytes = .outcome (.reply r) → t.store = writeUnits x.units 0 r.payload s.store) ∧
         y.result = some
           { status := st, detail := d, replyLength := len, repeated := rep, uncertain := unc, epochSeen := some ep,
             attempts := x.attempts }
     (∀ r, judgeReply tag x bytes = .outcome (.reply r) → r.kind = .accept → x.kind = .write ∨ x.kind = .signal →
       x.phase = .issue → completes .ok none 0 r.repeated false r.head.epoch) ∧
     (∀ r, judgeReply tag x bytes = .outcome (.reply r) → r.kind = .data →
       completes (if r.payload.length = x.length.getD 0 then .ok else .short) none r.payload.length r.repeated false
         r.head.epoch) ∧
     (∀ r, judgeReply tag x bytes = .outcome (.reply r) → r.kind = .refuse → x.phase = .issue →
       completes .refused (some (.reason r.reason)) 0 false false r.head.epoch) ∧
     (∀ k h, judgeReply tag x bytes = .outcome (.sound k h) → x.phase = .issue →
       completes .protocol (some (.fault k)) 0 false (x.kind.nonIdem && x.unanswered) h.epoch)) ∧
  (∀ (s : State) (tag : Tag) (ph : Phase) (q : ReqKind) (x : Exchange) (n : Stn) (c : Chan) (i : Instr) (v : Verdict),
     ListsAgree s → CountsAgree s → s.line.job = some (.attempt tag ph q) → s.xchg tag = some x → x.state = .onLine →
     x.dest = .station n → x.owner = .list c →
     s.endsAttempt i tag x v →
     let noRestart (h : ReplyHead) : Prop := ∀ e, (s.entry n).epoch = some e → e = h.epoch
     let last : Prop := s.regs.retryLimit + 1 ≤ x.attempts ∧ min 15 ((s.entry n).failures + 1) < s.regs.silentThreshold
     let ended (st : Status) (d : Option Detail) (ep : Option (BitVec 4)) (attempts : Nat) (purge : Bool) : Prop :=
       ∃ t y, exec i s = .next t ∧ t.xchg tag = some y ∧ y.state = .complete ∧ tag ∈ t.table.compl c ∧
         y.result = some
           { status := st, detail := d, replyLength := 0, repeated := false, uncertain := false, epochSeen := ep,
             attempts := attempts } ∧
         (x.phase ≠ .issue → (∀ h, v.head = some h → noRestart h) →
           (t.entry n).deferred + 1 = (s.entry n).deferred) ∧
         (purge = true → (t.entry n).purgeNeeded = true ∧
           ((s.entry n).purgeNeeded = false →
             (s.entry n).state = .present ∨ (s.entry n).state = .suspect ∨ (s.entry n).state = .held →
             ∃ act, (n, act) ∈ t.dir.recovery)) ∧
         (purge = false → (∀ c', (s.chan c').state ≠ .running ∧ (s.chan c').state ≠ .paused) →
           (t.entry n).purgeNeeded = (s.entry n).purgeNeeded)
     let abandoned (ep : Option (BitVec 4)) (cr : Carried) : Prop :=
       ∃ t, exec i s = .next t ∧ t.xchg tag = some { x with
         epochSeen := ep, phase := .abandon, state := .waiting, attempts := 0, backoff := none, deadline := none
         expired := false, carried := some cr }
     let overdue : Carried :=
       { status := if s.cancelOf x.owner = .abort then .cancelled else .deferExpired, fault := none }
     (∀ r cr, v = .reply r → x.phase = .abandon → x.carried = some cr → r.kind = .accept ∨ r.kind = .unknownTag →
       ended cr.status (cr.fault.map .fault) (some r.head.epoch) x.attempts false) ∧
     (∀ k h cr, v = .sound k h → x.phase = .abandon → x.carried = some cr →
       ended cr.status (cr.fault.map .fault) (some h.epoch) x.attempts true) ∧
     (∀ k cr, v = .lost k → x.phase = .abandon → x.carried = some cr → last →
       ended cr.status (cr.fault.map .fault) x.epochSeen x.attempts true) ∧
     (∀ k, v = .lost k → x.phase = .collect → x.expired = false → last →
       (s.cancelOf x.owner = .none → abandoned x.epochSeen { status := .retryExhausted, fault := some k })) ∧
     (∀ k, v = .lost k → x.phase = .collect → x.expired = true →
       min 15 ((s.entry n).failures + 1) < s.regs.silentThreshold → abandoned x.epochSeen overdue) ∧
     (∀ k h, v = .sound k h → x.phase = .collect → x.expired = true → abandoned (some h.epoch) overdue) ∧
     (∀ k h, v = .sound k h → x.phase = .collect → x.expired = false → x.kind = .read →
       ended .protocol (some (.fault k)) (some h.epoch) x.attempts (decide (1 ≤ (s.entry n).capacity))) ∧
     (∀ r, v = .reply r → r.kind = .unknownTag → x.kind = .read → x.phase = .collect →
       (x.expired = false → ended .protocol none (some r.head.epoch) x.attempts false) ∧
       (x.expired = true → abandoned (some r.head.epoch) overdue)) ∧
     (∀ k h, v = .sound k h → x.kind = .read → x.phase = .issue →
       ended .protocol (some (.fault k)) (some h.epoch) x.attempts
         (decide (1 ≤ (s.entry n).capacity) && decide (1 < x.attempts))) ∧
     (∀ r, v = .reply r → r.kind = .defer → x.kind = .read → x.phase = .issue → (s.entry n).capacity = 0 →
       ended .protocol none (some r.head.epoch) x.attempts true) ∧
     (∀ r, v = .reply r → r.kind = .busy → x.phase = .issue → s.regs.busyLimit ≤ x.busyCount + 1 →
       ended .busyExhausted none (some r.head.epoch) 0 false))

/-- ACCEPT of a WRITE of the window (R8, R22, R123, R124, R125, R157): the record goes FREE, the fault record is as it
was, the station's sequence bit is the inverse of the bit used, its failures are 0 and a SUSPECT station is PRESENT.
Read for a reply of the recorded epoch.
The READ of the window that its own outcome completes (R14, R106, R109, R113, R114, R119, R120, R122, R159, R161): COMPLETE with
the result, OK or SHORT with the bytes in its units, the hold READY and the hold timer loaded; any result but those two is
entered in the fault record, or sets the overflow flag.
A WRITE of the window that ends REFUSED, BUSY_EXHAUSTED or PROTOCOL (R119, R120, R126, R157, R161): the record goes FREE and the
result is entered in the fault record, WINDOW_FAULT raised, or sets the overflow flag. Read where no other exchange of the
window completes in the step, which RestartEndsDeferrals has. -/
def Obligations.WindowTakesItsResults : Prop :=
  (∀ (s : State) (tag : Tag) (ph : Phase) (q : ReqKind) (x : Exchange) (n : Stn) (b : Bool) (bytes : List Byte) (r : Reply),
     ListsAgree s → s.line.state = .receiving → s.line.settling = false → s.line.job = some (.attempt tag ph q) →
     s.xchg tag = some x → x.state = .onLine → x.dest = .station n → x.owner = .window → x.kind = .write →
     x.phase = .issue → x.seqUsed = some b → judgeReply tag x bytes = .outcome (.reply r) → r.kind = .accept →
     (s.entry n).epoch = some r.head.epoch →
     ∃ t, exec (.replyReceived bytes) s = .next t ∧ t.xchg tag = none ∧ t.window = s.window ∧ t.store = s.store ∧
       t.events = s.events ∧ (t.entry n).seqBit = !b ∧ (t.entry n).failures = 0 ∧
       (t.entry n).epoch = (s.entry n).epoch ∧
       (t.entry n).state = (if (s.entry n).state = .suspect then .present else (s.entry n).state)) ∧
  (∀ (s : State) (tag : Tag) (ph : Phase) (q : ReqKind) (x : Exchange) (n : Stn) (reg : BitVec 16) (i : Instr) (v : Verdict)
     (st : Status) (d : Option Detail) (len : Nat),
     ListsAgree s → PhasesAgree s → HoldNamesItsRead s → s.line.job = some (.attempt tag ph q) → s.xchg tag = some x →
     x.state = .onLine → x.owner = .window → x.kind = .read → x.dest = .station n → x.regAddr = some reg →
     s.endsAttempt i tag x v →
     let lost (k : FaultKind) : Prop := v = .lost k ∧ s.regs.retryLimit + 1 ≤ x.attempts ∧
       (k ≠ .contention → min 15 ((s.entry n).failures + 1) < s.regs.silentThreshold)
     ((∃ r, v = .reply r ∧ r.kind = .data ∧ st = (if r.payload.length = x.length.getD 0 then .ok else .short) ∧ d = none ∧
         len = r.payload.length) ∨
       len = 0 ∧
        ((∃ r, v = .reply r ∧ r.kind = .refuse ∧ st = .refused ∧ d = some (.reason r.reason)) ∨
         (∃ r, v = .reply r ∧ r.kind = .busy ∧ s.regs.busyLimit ≤ x.busyCount + 1 ∧ st = .busyExhausted ∧ d = none) ∨
         (∃ r, v = .reply r ∧ r.kind = .defer ∧ (s.entry n).capacity = 0 ∧ st = .protocol ∧ d = none) ∨
         (∃ r, v = .reply r ∧ r.kind = .unknownTag ∧ x.phase = .collect ∧ x.expired = false ∧ st = .protocol ∧ d = none) ∨
         (∃ k h, v = .sound k h ∧ (x.phase = .issue ∨ x.phase = .collect ∧ x.expired = false) ∧ st = .protocol ∧
           d = some (.fault k)) ∨
         (∃ k, lost k ∧ x.phase = .issue ∧ (s.entry n).capacity = 0 ∧ st = .retryExhausted ∧ d = some (.fault k)) ∨
         ∃ cr, x.phase = .abandon ∧ x.carried = some cr ∧ st = cr.status ∧ d = cr.fault.map .fault ∧
           ((∃ r, v = .reply r) ∨ (∃ k h, v = .sound k h) ∨ ∃ k, lost k))) →
     ∃ t y, exec i s = .next t ∧ t.xchg tag = some y ∧ y.state = .complete ∧ y.units = x.units ∧
       y.result = some
         { status := st, detail := d, replyLength := len, repeated := false, uncertain := false
           epochSeen := (v.head.map (·.epoch)).or x.epochSeen
           attempts := if st = .busyExhausted then 0 else x.attempts } ∧
       t.store = (match v with
         | .reply r => writeUnits x.units 0 r.payload s.store
         | _ => s.store) ∧
       t.window.hold = .ready n reg tag ∧ t.window.timer = some (s.regs.windowHold * 64) ∧
       (st = .ok ∨ st = .short → t.window.fault = s.window.fault ∧ t.window.overflow = s.window.overflow) ∧
       (st ≠ .ok → st ≠ .short →
         (s.window.fault = none →
           t.window.fault = some { station := n, reg := reg, dir := .read, status := st, detail := d, uncertain := false } ∧
           t.window.overflow = s.window.overflow ∧ t.irq.edge.getLsbD 4 = true) ∧
         (s.window.fault ≠ none → t.window.fault = s.window.fault ∧ t.window.overflow = true))) ∧
  (∀ (s : State) (tag : Tag) (ph : Phase) (q : ReqKind) (x : Exchange) (n : Stn) (reg : BitVec 16) (bytes : List Byte)
     (v : Verdict) (h : ReplyHead) (st : Status) (d : Option Detail) (unc : Bool),
     ListsAgree s → s.line.state = .receiving → s.line.settling = false → s.line.job = some (.attempt tag ph q) →
     s.xchg tag = some x → x.state = .onLine → x.owner = .window → x.kind = .write → x.phase = .issue →
     x.dest = .station n → x.regAddr = some reg → judgeReply tag x bytes = .outcome v → v.head = some h →
     failsWrite s.regs x v st d unc →
     (∀ e, (s.entry n).epoch = some e → e = h.epoch) ∨
       (∀ t' y, s.xchg t' = some y → y.owner = .window → y.dest = .station n → y.phase = .issue ∨ y.live = false) →
     ∃ t, exec (.replyReceived bytes) s = .next t ∧ t.xchg tag = none ∧ tag ∉ t.table.winList ∧ t.store = s.store ∧
       t.events = s.events ∧ t.window.hold = s.window.hold ∧ t.window.timer = s.window.timer ∧
       (s.window.fault = none →
         t.window.fault = some { station := n, reg := reg, dir := .write, status := st, detail := d, uncertain := unc } ∧
         t.window.overflow = s.window.overflow ∧ t.irq.edge.getLsbD 4 = true) ∧
       (s.window.fault ≠ none → t.window.fault = s.window.fault ∧ t.window.overflow = true) ∧
       (t.entry n).failures = 0 ∧
       (unc = true → (t.entry n).seqUncertain = true ∧ ((s.entry n).state ≠ .disabled → n ∈ t.dir.census)))

/-- A sound reply that shows a restart (R127, R128, R129): the entry takes the reply's epoch and joins the change summary;
every other deferred exchange of the station ends STATION_RESTARTED. The sequence bit is the inverse of the bit used after
a reply that confirms a WRITE, SIGNAL or FETCH_EVENT; else the bit used of the one such request whose unanswered mark is
set after the outcome, the reply's own among them, finished or not (log entry 35; the reaction of a channel to the
completions comes before the choice, log entry 33); else 0.
Of the window's exchanges that one such step completes the earlier created is entered first in the fault record (R161):
the window's deferred READ, or its WRITE that the reply completes REFUSED, BUSY_EXHAUSTED or PROTOCOL. -/
def Obligations.RestartEndsDeferrals : Prop :=
  (∀ (s : State) (tag : Tag) (ph : Phase) (q : ReqKind) (x : Exchange) (n : Stn) (bytes : List Byte) (v : Verdict)
     (h : ReplyHead) (e : BitVec 4),
     s.line.state = .receiving → s.line.settling = false → s.line.job = some (.attempt tag ph q) →
     s.xchg tag = some x → x.state = .onLine → x.dest = .station n → judgeReply tag x bytes = .outcome v →
     (∃ r, v = .reply r ∧ r.head = h) ∨ (∃ k, v = .sound k h) →
     (s.entry n).epoch = some e → h.epoch ≠ e → x.kind ≠ .stationReset →
     let unanswered (y : Exchange) : Prop := y.dest = .station n ∧ y.kind.nonIdem = true ∧ y.unanswered = true
     let othersAnswered : Prop := ∀ t' y, t' ≠ tag → s.xchg t' = some y → ¬unanswered y
     ∃ t, exec (.replyReceived bytes) s = .next t ∧ (t.entry n).epoch = some h.epoch ∧
       maskHas t.dir.changes n = true ∧
       (∀ t' y z, t' ≠ tag → s.xchg t' = some y → y.dest = .station n → y.live = true → y.phase ≠ .issue →
         t.xchg t' = some z → z.live = false ∧ z.result.map (·.status) = some .stationRestarted) ∧
       (∀ r b, v = .reply r → x.seqUsed = some b →
         (x.kind = .write ∨ x.kind = .signal) ∧ r.kind = .accept ∨
           x.kind = .fetchEvent ∧ (r.kind = .event ∨ r.kind = .noEvent) → (t.entry n).seqBit = !b) ∧
       (x.kind = .read →
         (othersAnswered → (t.entry n).seqBit = false) ∧
         ∀ t' y b, t' ≠ tag → s.xchg t' = some y → unanswered y → y.seqUsed = some b →
           (∀ t'' z, t'' ≠ t' → s.xchg t'' = some z → ¬unanswered z) → (t.entry n).seqBit = b) ∧
       (∀ r, v = .reply r → x.kind.nonIdem = true → r.kind = .busy ∨ x.kind ≠ .fetchEvent ∧ r.kind = .refuse →
         othersAnswered → (t.entry n).seqBit = false) ∧
       (∀ k b, v = .sound k h → x.kind.nonIdem = true → x.unanswered = true → x.seqUsed = some b → othersAnswered →
         (t.entry n).seqBit = b)) ∧
  (∀ (s : State) (tag t' : Tag) (ph : Phase) (q : ReqKind) (x y : Exchange) (n : Stn) (reg reg' : BitVec 16)
     (bytes : List Byte) (v : Verdict) (h : ReplyHead) (st : Status) (d : Option Detail) (unc : Bool) (e : BitVec 4)
     (a b : List Tag),
     ListsAgree s → PhasesAgree s → HoldNamesItsRead s → OneOnLine s →
     s.line.state = .receiving → s.line.settling = false →
     s.line.job = some (.attempt tag ph q) → s.xchg tag = some x → x.state = .onLine → x.owner = .window →
     x.kind = .write → x.dest = .station n → x.regAddr = some reg → judgeReply tag x bytes = .outcome v →
     v.head = some h → failsWrite s.regs x v st d unc →
     (s.entry n).epoch = some e → h.epoch ≠ e → s.xchg t' = some y → y.owner = .window → y.kind = .read →
     y.dest = .station n → y.regAddr = some reg' → y.live = true → y.phase ≠ .issue → s.window.fault = none →
     s.table.winList = a ++ t' :: b →
     let ofRead : WinFault :=
       { station := n, reg := reg', dir := .read, status := .stationRestarted, detail := none, uncertain := false }
     let ofWrite : WinFault :=
       { station := n, reg := reg, dir := .write, status := st, detail := d, uncertain := unc }
     ∃ t, exec (.replyReceived bytes) s = .next t ∧ t.xchg tag = none ∧ t.window.overflow = true ∧
       t.window.hold = .ready n reg' t' ∧ t.window.timer = some (s.regs.windowHold * 64) ∧
       t.irq.edge.getLsbD 4 = true ∧
       (tag ∈ b → t.window.fault = some ofRead) ∧ (tag ∈ a → t.window.fault = some ofWrite))

/-- What the directory and the Event Unit do with a reply to an INTERNAL exchange (R31, R37, R131, R163, R165): IDENT
from a station that comes in; ACCEPT of a PURGE and of a STATION_RESET, which ends the station's other deferred exchanges
STATION_RESTARTED (R19); EVENT and NO_EVENT, with the attention EVENT flag taken after them (R104). The record goes FREE in the
same step.
IDENT of a station that is already in (R32): its identity is adopted after a restart and checked against the entry
otherwise; the bit is adopted, and a bit or identity that does not agree is a station fault. A census without an IDENT
(R33, R28, R126): last census has the status, a RECOVERING station is SILENT, and a station with the sequence-uncertain
mark is in the census list again, in whatever state (log entry 34). A PURGE or STATION_RESET that is not accepted makes the
station SILENT (R37, R133). CENSUS_DONE is raised with an empty census list. A FETCH_EVENT that ends BUSY_EXHAUSTED,
RETRY_EXHAUSTED or PROTOCOL (R165, R126): its record is FREE, the queue stays, the event-pending flag is set by the attention
EVENT of the reply alone, and a request in doubt marks the station and asks for a census. -/
def Obligations.DirectoryTakesInternalReplies : Prop :=
  (∀ (s : State) (tag : Tag) (ph : Phase) (q : ReqKind) (x : Exchange) (n : Stn) (bytes : List Byte) (r : Reply),
     s.line.state = .receiving → s.line.settling = false → s.line.job = some (.attempt tag ph q) →
     s.xchg tag = some x → x.state = .onLine → x.dest = .station n → x.owner = .internal →
     x.kind = .census ∨ x.kind = .purge ∨ x.kind = .stationReset ∨ x.kind = .fetchEvent → x.phase = .issue →
     judgeReply tag x bytes = .outcome (.reply r) → r.kind ≠ .busy →
     ∃ t, exec (.replyReceived bytes) s = .next t ∧ t.xchg tag = none ∧ (t.entry n).failures = 0 ∧
       (x.kind = .census →
         (s.entry n).state = .vacant ∨ (s.entry n).state = .silent ∨ (s.entry n).state = .recovering →
         (t.entry n).cls = r.payload[0]? ∧ (t.entry n).revision = r.payload[1]? ∧
         (t.entry n).capacity = min 3 (r.payload.getD 2 0#8).toNat ∧
         (t.entry n).seqBit = (r.payload.getD 3 0#8).getLsbD 0 ∧ (t.entry n).seqUncertain = false ∧
         (t.entry n).epoch = some r.head.epoch ∧ maskHas t.dir.changes n = true ∧
         (t.entry n).lastCensus = some { status := .ok, stationFault := false } ∧
         ((s.entry n).state = .vacant → (t.entry n).wasPresent = true) ∧
         ((s.entry n).state ≠ .vacant → (t.entry n).wasPresent = (s.entry n).wasPresent) ∧
         ((s.entry n).state = .recovering → (t.entry n).keptReady = false) ∧
         ((s.entry n).state = .recovering ∨ (s.entry n).state = .vacant ∧ (s.entry n).wasPresent = false →
           (t.entry n).state = .present) ∧
         ((s.entry n).state = .silent ∨ (s.entry n).state = .vacant ∧ (s.entry n).wasPresent = true →
           (t.entry n).state = .resync ∧ ∃ act, (n, act) ∈ t.dir.recovery)) ∧
       (x.kind = .purge → (t.entry n).purgeNeeded = false ∧
         ((s.entry n).state = .resync → (t.entry n).state = .present)) ∧
       (x.kind = .stationReset →
         (t.entry n).state = .recovering ∧ (t.entry n).holdTimer = some (s.regs.resetHold * 1024) ∧
         (t.entry n).seqBit = false ∧ (t.entry n).epoch = none ∧ (t.entry n).purgeNeeded = false ∧
         (t.entry n).deferred = 0 ∧ maskHas t.dir.changes n = true ∧
         ∀ t' y z, t' ≠ tag → s.xchg t' = some y → y.dest = .station n → y.live = true → y.phase ≠ .issue →
           t.xchg t' = some z → z.live = false ∧ z.result.map (·.status) = some .stationRestarted) ∧
       (x.kind = .fetchEvent → r.kind = .event →
         t.events = { s.events with queue := s.events.queue ++
           [{ station := n, epoch := r.head.epoch
              code := BitVec.ofNat 16 ((r.payload.getD 0 0#8).toNat + 256 * (r.payload.getD 1 0#8).toNat)
              detail := r.payload.drop 2 }] } ∧
         (r.head.attEvent = false → (t.entry n).eventPending = false)) ∧
       (x.kind = .fetchEvent → r.kind = .noEvent → t.events = s.events ∧
         (r.head.attEvent = false → (t.entry n).eventPending = false)) ∧
       (x.kind = .fetchEvent → r.head.attEvent = true → (s.entry n).state.takesSigns = true →
         (t.entry n).eventPending = true)) ∧
  (∀ (s : State) (tag : Tag) (ph : Phase) (q : ReqKind) (x : Exchange) (n : Stn) (bytes : List Byte) (r : Reply),
     s.line.state = .receiving → s.line.settling = false → s.line.job = some (.attempt tag ph q) →
     s.xchg tag = some x → x.state = .onLine → x.dest = .station n → x.owner = .internal → x.kind = .census →
     x.phase = .issue → judgeReply tag x bytes = .outcome (.reply r) →
     (s.entry n).state = .present ∨ (s.entry n).state = .suspect ∨ (s.entry n).state = .held →
     let restarted : Prop := ∃ e, (s.entry n).epoch = some e ∧ r.head.epoch ≠ e
     let capacity := min 3 (r.payload.getD 2 0#8).toNat
     let bit := (r.payload.getD 3 0#8).getLsbD 0
     let same : Prop :=
       (s.entry n).cls = r.payload[0]? ∧ (s.entry n).revision = r.payload[1]? ∧ (s.entry n).capacity = capacity
     let agrees : Prop := same ∧ ((s.entry n).seqUncertain = true ∨ (s.entry n).seqBit = bit)
     ∃ t, exec (.replyReceived bytes) s = .next t ∧ t.xchg tag = none ∧ (t.entry n).failures = 0 ∧
       (t.entry n).state = (if (s.entry n).state = .suspect then .present else (s.entry n).state) ∧
       (t.entry n).seqBit = bit ∧ (t.entry n).seqUncertain = false ∧
       (restarted → (t.entry n).cls = r.payload[0]? ∧ (t.entry n).revision = r.payload[1]? ∧
         (t.entry n).capacity = capacity) ∧
       (¬restarted → (t.entry n).cls = (s.entry n).cls ∧ (t.entry n).revision = (s.entry n).revision ∧
         (t.entry n).capacity = (s.entry n).capacity) ∧
       (restarted ∨ agrees → (t.entry n).lastCensus = some { status := .ok, stationFault := false }) ∧
       (¬restarted → ¬agrees → (t.entry n).lastCensus = some { status := .protocol, stationFault := true } ∧
         maskHas t.dir.changes n = true) ∧
       (t.dir.census = [] → t.irq.edge.getLsbD 6 = true)) ∧
  (∀ (s : State) (tag : Tag) (ph : Phase) (q : ReqKind) (x : Exchange) (n : Stn) (i : Instr) (v : Verdict),
     s.line.job = some (.attempt tag ph q) → s.xchg tag = some x → x.state = .onLine → x.dest = .station n →
     x.owner = .internal → x.phase = .issue → s.endsAttempt i tag x v →
     let sound : Prop := ∃ k h, v = .sound k h
     let exhausted : Prop := (∃ k, v = .lost k) ∧ s.regs.retryLimit + 1 ≤ x.attempts
     (x.kind = .census → sound ∨ exhausted ∧ min 15 ((s.entry n).failures + 1) < s.regs.silentThreshold →
       ∃ t, exec i s = .next t ∧ t.xchg tag = none ∧
         (sound → (t.entry n).lastCensus = some { status := .protocol, stationFault := false }) ∧
         (exhausted → (t.entry n).lastCensus = some { status := .retryExhausted, stationFault := false }) ∧
         ((s.entry n).seqUncertain = true → (s.entry n).state ≠ .disabled → n ∈ t.dir.census) ∧
         ((s.entry n).state = .recovering → (t.entry n).state = .silent) ∧
         ((s.entry n).state = .vacant ∨ (s.entry n).state = .silent ∨ (s.entry n).state = .held →
           (t.entry n).state = (s.entry n).state) ∧
         (sound → (s.entry n).state = .present ∨ (s.entry n).state = .suspect → (t.entry n).state = .present) ∧
         (t.dir.census = [] → t.irq.edge.getLsbD 6 = true)) ∧
     (x.kind = .purge ∨ x.kind = .stationReset → sound ∨ exhausted →
       ∃ t, exec i s = .next t ∧ t.xchg tag = none ∧ (t.entry n).state = .silent ∧
         (t.entry n).purgeNeeded = false ∧ (t.entry n).holdTimer = none ∧ (∀ rec ∈ t.dir.recovery, rec.1 ≠ n) ∧
         maskHas t.dir.changes n = true) ∧
     (ListsAgree s → x.kind = .fetchEvent →
       sound ∨ (∃ r, v = .reply r ∧ r.kind = .busy ∧ s.regs.busyLimit ≤ x.busyCount + 1) ∨
         (∃ k, v = .lost k ∧ s.regs.retryLimit + 1 ≤ x.attempts ∧
           (k ≠ .contention → min 15 ((s.entry n).failures + 1) < s.regs.silentThreshold)) →
       ∃ t, exec i s = .next t ∧ t.xchg tag = none ∧ tag ∉ t.table.intList ∧ t.events = s.events ∧
         ((t.entry n).eventPending = true ↔ (s.entry n).eventPending = true ∨
           (s.entry n).state.takesSigns = true ∧ ∃ h, v.head = some h ∧ h.attEvent = true) ∧
         (x.unanswered = true → (∀ r, v ≠ .reply r) →
           (t.entry n).seqUncertain = true ∧ ((s.entry n).state ≠ .disabled → n ∈ t.dir.census))))


/-- SILENT_THRESHOLD reached (R124, R39, R19, R18): the station is SILENT, its flags, hold timer and recovery record
go, it joins the change summary, and no exchange to it stays in flight but a CENSUS and the FILLING ones, which carry
a fill end mark.
Each unfinished exchange of a channel to the station, the attempt's own too where it would have been retried, is COMPLETE
with STATION_LOST, its tag in the completion list (R19). -/
def Obligations.FailuresMakeAStationSilent : Prop :=
  (∀ (s : State) (tag : Tag) (ph : Phase) (q : ReqKind) (x : Exchange) (n : Stn),
     s.line.state = .await → s.line.job = some (.attempt tag ph q) → s.xchg tag = some x → x.state = .onLine →
     x.dest = .station n →
     (s.entry n).state = .present ∨ (s.entry n).state = .suspect ∨ (s.entry n).state = .held →
     s.regs.silentThreshold ≤ min 15 ((s.entry n).failures + 1) →
     ∃ t, exec .replyWindowExpiry s = .next t ∧ t.line.state = .guard ∧
       t.store = s.store ∧ t.events = s.events ∧ t.regs = s.regs ∧ t.sweep = s.sweep ∧ t.pointer = s.pointer ∧
       t.portLast = s.portLast ∧ t.bus = s.bus ∧ t.views = s.views ∧ t.irq.enable = s.irq.enable ∧
       t.dir.rediscovery = s.dir.rediscovery ∧ t.line.rate = s.line.rate ∧ t.line.readyPending = s.line.readyPending ∧
       (t.entry n).state = .silent ∧ (t.entry n).eventPending = false ∧ (t.entry n).purgeNeeded = false ∧
       (t.entry n).keptReady = false ∧ (t.entry n).holdTimer = none ∧ (∀ r ∈ t.dir.recovery, r.1 ≠ n) ∧
       maskHas t.dir.changes n = true ∧
       ∀ t' y, t.xchg t' = some y → y.dest = .station n → y.live = true →
         y.kind = .census ∨ y.state = .filling ∧ y.fillEnd.isSome = true) ∧
  (∀ (s : State) (tag : Tag) (ph : Phase) (q : ReqKind) (x : Exchange) (n : Stn), ListsAgree s →
     s.line.state = .await → s.line.job = some (.attempt tag ph q) → s.xchg tag = some x → x.state = .onLine →
     x.dest = .station n → x.attempts < s.regs.retryLimit + 1 → ¬(x.phase = .collect ∧ x.expired = true) →
     s.cancelOf x.owner = .none →
     (s.entry n).state = .present ∨ (s.entry n).state = .suspect ∨ (s.entry n).state = .held →
     s.regs.silentThreshold ≤ min 15 ((s.entry n).failures + 1) →
     ∃ t, exec .replyWindowExpiry s = .next t ∧
       ∀ t' y c, s.xchg t' = some y → y.dest = .station n → y.owner = .list c → y.kind ≠ .census →
         (y.live = true → y.state ≠ .filling → t' ∈ t.table.compl c ∧
           ∃ z, t.xchg t' = some z ∧ z.state = .complete ∧ KeepsRequest y z ∧ z.result = some
             { status := .stationLost, detail := none, replyLength := 0, repeated := false
               uncertain := y.kind.nonIdem && y.unanswered, epochSeen := y.epochSeen, attempts := y.attempts }) ∧
         (y.state = .filling → y.fillEnd = none →
           ∃ z, t.xchg t' = some z ∧ z.state = .filling ∧ z.fillEnd = some .stationLost))

/-- SLOTS_END (R74, R100 to R103, R105): every slot acts by its station's state, a GARBLED one as BOTH; the new census
requests join in address order; the line is in GUARD; nothing else changes. -/
def Obligations.SlotsEnd : Prop :=
  ∀ (s : State) (slots : List SlotSeen) (hl : slots.length = 30), CountsAgree s → s.line.state = .slots →
    let seen (n : Stn) : SlotOutcome := readSlot (slots[n.val]'(by rw [hl]; exact n.isLt))
    let ready (n : Stn) : Bool := seen n == .ready || seen n == .both || seen n == .garbled
    let event (n : Stn) : Bool := seen n == .event || seen n == .both || seen n == .garbled
    let known (n : Stn) : Bool :=
      (s.entry n).state == .present || (s.entry n).state == .suspect || (s.entry n).state == .resync
    let kept (n : Stn) : Bool := (s.entry n).state == .held || (s.entry n).state == .recovering
    ∃ t, exec (.slotsEnd slots) s = .next t ∧
      (∀ n, t.entry n = { s.entry n with
        eventPending := (s.entry n).eventPending || (event n && (known n || kept n))
        keptReady := (s.entry n).keptReady || (ready n && kept n) }) ∧
      (∀ tag, t.xchg tag = (s.xchg tag).map fun x =>
        if x.state = .parked ∧ ∃ n, x.dest = .station n ∧ ready n = true ∧ known n = true then
          { x with state := .waiting } else x) ∧
      t = { s with
        table := { s.table with xs := t.table.xs }
        dir := { s.dir with
          entries := t.dir.entries
          census := s.dir.census ++ allStns.filter fun n =>
            (ready n || event n) && !s.dir.census.contains n &&
              ((s.entry n).state == .silent || (s.entry n).state == .vacant && maskHas s.regs.censusMask n) }
        line := { s.line with
          state := .guard, job := none, txFrame := none, timer := some s.regs.guardTime, settling := false
          contentionWait := false, breakKind := none, breakCause := none } }

/-! ## Timers of the table and the directory -/

/-- BACKOFF_EXPIRY, DEADLINE_EXPIRY and HOLD_TIMER_EXPIRY (R10, R5, R111, R118, R132, R28): an exchange leaves BACKOFF
for
WAITING, or for ABANDON when its deadline has run out; a deadline acts by the exchange's state; the hold timer of a
RECOVERING station goes and the station joins the census list. Nothing else changes. -/
def Obligations.ExchangeAndHoldTimers : Prop :=
  (∀ (s : State) (tag : Tag) (x : Exchange), CountsAgree s → PhasesAgree s → s.xchg tag = some x →
    let becomes (y : Exchange) : State := { s with table := { s.table with xs := s.table.xs.set tag (some y) } }
    let gone : Exchange := { x with
      phase := .abandon, state := .waiting, attempts := 0, backoff := none, deadline := none, expired := false
      carried := some { status := .deferExpired, fault := none } }
    (x.state = .backoff → x.deadline ≠ some .ranOut →
      exec (.backoffExpiry tag) s = .next (becomes { x with state := .waiting, backoff := none })) ∧
    (x.state = .backoff → x.deadline = some .ranOut → exec (.backoffExpiry tag) s = .next (becomes gone)) ∧
    ∀ bt, x.deadline = some (.running bt) →
      (x.state = .parked ∨ x.state = .waiting → exec (.deadlineExpiry tag) s = .next (becomes gone)) ∧
      (x.state = .onLine →
        exec (.deadlineExpiry tag) s = .next (becomes { x with expired := true, deadline := some .ranOut })) ∧
      (x.state = .backoff → exec (.deadlineExpiry tag) s = .next (becomes { x with deadline := some .ranOut }))) ∧
  ∀ (s : State) (n : Stn), (s.entry n).state = .recovering → (s.entry n).holdTimer ≠ none →
    exec (.holdTimerExpiry n) s = .next
      { s with dir := { s.dir with
          entries := s.dir.entries.set n { s.entry n with holdTimer := none }
          census := if n ∈ s.dir.census then s.dir.census else s.dir.census ++ [n] } }

/-! ## The creations the part makes of itself -/

/-- CENSUS_CREATION, RECOVERY_CREATION and FETCH_EVENT_CREATION (R29, R36, R164, R2, R11): with the line not OFF, the
quota free and a record and unit at hand, the first station in the list whose state admits it leaves the list and gets
a WAITING exchange of the directory; of the stations with an event pending that are PRESENT or SUSPECT and have no
FETCH_EVENT, the next in address order after the last served gets one, and with none in flight and two places free the
next after that one gets a second in the same step, so that at most two are in flight and the queue has a place for each;
otherwise nothing changes. The other records stay.
PAYLOAD_GRANT (R13, R140): with too few units free, or nobody waiting, nothing changes; otherwise the head of the wait
list leaves it, and its descriptor's exchange is created FILLING or WAITING with the units asked for, or, at a station
that takes none, the descriptor is taken in NOT_PRESENT without an exchange. -/
def Obligations.CreationsAndGrant : Prop :=
  ((∀ (s : State) (tag : Tag) (u : UnitNo) (n : Stn), CountsAgree s →
      s.xchg tag = none → (∀ t', t' < tag → s.xchg t' ≠ none) →
      8 ≤ u.val → u.val < 12 → s.unitHeld u = false → (∀ u' : UnitNo, 8 ≤ u'.val → u'.val < u.val → s.unitHeld u' = true) →
      let created (k : Kind) (us : List UnitNo) : Table := { s.table with
        intList := s.table.intList ++ [tag]
        xs := s.table.xs.set tag (some
          { owner := .internal, kind := k, dest := .station n, regAddr := none, length := none, signalOp := none,
            units := us, phase := .issue, state := .waiting, attempts := 0, busyCount := 0, seqUsed := none,
            unanswered := false, fence := false, expired := false, fillEnd := none, carried := none, backoff := none,
            deadline := none, epochSeen := none, result := none }) }
      let ready (m : Stn) : Prop :=
        (s.entry m).state = .vacant ∨ (s.entry m).state = .silent ∨ (s.entry m).state = .present ∨
        (s.entry m).state = .suspect ∨ (s.entry m).state = .recovering ∧ (s.entry m).holdTimer = none
      let admitted (m : Stn) (act : RecAction) : Prop :=
        match act with
        | .purge => (s.entry m).deferred = 0 ∧
            ((s.entry m).state = .present ∨ (s.entry m).state = .suspect ∨ (s.entry m).state = .resync)
        | .reset => (s.entry m).state = .present ∨ (s.entry m).state = .suspect ∨ (s.entry m).state = .resync ∨
            (s.entry m).state = .recovering
      (∀ a b, s.line.state ≠ .off → s.dir.census = a ++ n :: b → (∀ m ∈ a, ¬ready m) → ready n →
        (∀ t' x, s.xchg t' = some x → x.kind ≠ .census) →
        exec .censusCreation s = .next
          { s with
            table := created .census [u]
            dir := { s.dir with census := s.dir.census.filter (· != n) } }) ∧
      (∀ a b act, s.line.state ≠ .off → s.dir.recovery = a ++ (n, act) :: b → (∀ r ∈ a, ¬admitted r.1 r.2) →
        admitted n act → (∀ t' x, s.xchg t' = some x → x.kind ≠ .purge ∧ x.kind ≠ .stationReset) →
        exec .recoveryCreation s = .next
          { s with
            table := created (match act with | .purge => .purge | .reset => .stationReset) []
            dir := { s.dir with recovery := s.dir.recovery.filter fun r => r.1 != n } }) ∧
      -- a station whose event may be fetched, and the stations in the order of the search after station m
      let qualifies (m : Stn) : Prop := (s.entry m).eventPending = true ∧
        ((s.entry m).state = .present ∨ (s.entry m).state = .suspect) ∧
        ∀ t' x, s.xchg t' = some x → x.kind = .fetchEvent → x.dest ≠ .station m
      let after (m : Stn) : List Nat := (List.range 30).map fun i => (m.val + 1 + i) % 30
      let fetches := s.countX fun x => x.kind == .fetchEvent
      ((∀ m, ¬qualifies m) ∨ 2 ≤ fetches ∨ 16 ≤ s.events.queue.length + fetches → exec .fetchEventCreation s = .next s) ∧
      (∀ a b, after s.events.lastServed = a ++ n.val :: b → (∀ m : Stn, m.val ∈ a → ¬qualifies m) → qualifies n →
        s.events.queue.length + fetches < 16 →
        (fetches = 1 ∨ fetches = 0 ∧ ((∀ m, m ≠ n → ¬qualifies m) ∨ s.events.queue.length = 15) →
          exec .fetchEventCreation s = .next
            { s with
              table := created .fetchEvent [u]
              events := { s.events with lastServed := n } }) ∧
        ∀ (tag₂ : Tag) (u₂ : UnitNo) (m : Stn) (a₂ b₂ : List Nat), fetches = 0 → s.events.queue.length < 15 →
          tag < tag₂ → s.xchg tag₂ = none → (∀ t', tag < t' → t' < tag₂ → s.xchg t' ≠ none) →
          u.val < u₂.val → u₂.val < 12 → s.unitHeld u₂ = false →
          (∀ u' : UnitNo, u.val < u'.val → u'.val < u₂.val → s.unitHeld u' = true) →
          after n = a₂ ++ m.val :: b₂ → (∀ m' : Stn, m'.val ∈ a₂ → ¬qualifies m') → qualifies m → m ≠ n →
          exec .fetchEventCreation s = .next
            { s with
              table := { created .fetchEvent [u] with
                intList := s.table.intList ++ [tag, tag₂]
                xs := (created .fetchEvent [u]).xs.set tag₂ (some
                  { owner := .internal, kind := .fetchEvent, dest := .station m, regAddr := none, length := none,
                    signalOp := none, units := [u₂], phase := .issue, state := .waiting, attempts := 0, busyCount := 0,
                    seqUsed := none, unanswered := false, fence := false, expired := false, fillEnd := none,
                    carried := none, backoff := none, deadline := none, epochSeen := none, result := none }) }
              events := { s.events with lastServed := m } })) ∧
   (∀ s : State, CountsAgree s →
      (s.table.waitList = [] → exec .payloadGrant s = .next s) ∧
      ∀ c k rest, s.table.waitList = (c, k) :: rest →
        ((s.freeUnits (.list c)).length < k → exec .payloadGrant s = .next s) ∧
        (k ≤ (s.freeUnits (.list c)).length → ∀ d kd, (s.chan c).pendingDesc = some d → d.kind.kind = some kd →
          unitsNeeded kd (some d.length) = k → kd ≠ .signal →
          let closed (n : Stn) :=
            (s.entry n).state = .vacant ∨ (s.entry n).state = .silent ∨ (s.entry n).state = .disabled
          ∃ t, exec .payloadGrant s = .next t ∧ t.line = s.line ∧ t.store = s.store ∧
            (∀ n, d.dest = .station n → closed n → d.stopOnFail = false → s.hasFailure c = false →
              t.table.waitList = rest ∧ (∀ tag, t.xchg tag = s.xchg tag) ∧ t.dir = s.dir ∧
              t.chan c = { s.chan c with
                pendingDesc := none, next := if d.last then d.addr else d.next, endMark := (s.chan c).endMark || d.last
                queue := (s.chan c).queue ++ [d.record none (some .notPresent) true] }) ∧
            (∀ n, d.dest = .station n → closed n → d.stopOnFail = true → (s.chan c).state = .running →
              (∀ e ∈ t.table.waitList, e.1 ≠ c) ∧ (t.chan c).pendingDesc = none ∧ (t.chan c).state = .stopping ∧
              (t.chan c).haltCause = some .failed ∧ ∃ q, q.length = (s.chan c).queue.length ∧
                (t.chan c).queue = q ++ [d.record none (some .notPresent) true]) ∧
            (∀ tag, (∀ n, d.dest = .station n → ¬closed n) →
              s.countX (fun x => x.owner == .list c) < 10 → s.xchg tag = none → (∀ t', t' < tag → s.xchg t' ≠ none) →
              t.xchg tag = some
                { owner := .list c, kind := kd, dest := d.dest, regAddr := some d.regAddr, length := some d.length
                  signalOp := none, units := (s.freeUnits (.list c)).take k, phase := .issue
                  state := if kd = .write ∨ kd = .bcastWrite then .filling else .waiting
                  attempts := 0, busyCount := 0, seqUsed := none, unanswered := false, fence := d.fence
                  expired := false, fillEnd := none, carried := none, backoff := none, deadline := none
                  epochSeen := none, result := none } ∧
              (∀ t', t' ≠ tag → t.xchg t' = s.xchg t') ∧ t.table.waitList = rest ∧ t.dir = s.dir ∧
              t.table.creation (.list c) = s.table.creation (.list c) ++ [tag] ∧
              t.chan c = { s.chan c with
                pendingDesc := none, next := if d.last then d.addr else d.next, endMark := (s.chan c).endMark || d.last
                queue := (s.chan c).queue ++ [d.record (some tag) none false] })))) ∧
  (∀ s : State,
     (s.line.state = .off ∨ (∃ tag x, s.xchg tag = some x ∧ x.kind = .census) ∨
         (∀ m ∈ s.dir.census, ¬((s.entry m).state = .vacant ∨ (s.entry m).state = .silent ∨ (s.entry m).state = .present ∨
           (s.entry m).state = .suspect ∨ (s.entry m).state = .recovering ∧ (s.entry m).holdTimer = none)) →
       exec .censusCreation s = .next s) ∧
     (s.line.state = .off ∨ (∃ tag x, s.xchg tag = some x ∧ (x.kind = .purge ∨ x.kind = .stationReset)) ∨
         (∀ rec ∈ s.dir.recovery, match rec.2 with
           | .purge => ¬((s.entry rec.1).deferred = 0 ∧ ((s.entry rec.1).state = .present ∨
               (s.entry rec.1).state = .suspect ∨ (s.entry rec.1).state = .resync))
           | .reset => ¬((s.entry rec.1).state = .present ∨ (s.entry rec.1).state = .suspect ∨
               (s.entry rec.1).state = .resync ∨ (s.entry rec.1).state = .recovering)) →
       exec .recoveryCreation s = .next s))

/-! ## The master port and the channels -/

/-- PORT_OPERATION_START (R138, R143): with an operation under way or none due nothing starts; a channel's drain comes
before its intake; where both channels are ready the one not served last starts; a drain takes its tag from the
completion list and its exchange is DRAINING.
What a channel starts next (R138, R139, R141): the drain of the head of its completion list; with that list empty, the fill
of its FILLING exchange; with none, the status write that is due, of the first such record; with none, the fetch exactly
where R139 allows it: RUNNING, no end-of-list mark, fewer than 10 records, no pending descriptor and no unfinished NOP. -/
def Obligations.PortOperationStart : Prop :=
  ∀ s : State, ListsAgree s → CountsAgree s → PortNamesItsOwn s →
    (∀ c op, (s.chan c).portOp = some op → exec .portOperationStart s = .next s) ∧
    ((∀ c, (s.chan c).portOp = none) →
      (s.nextOp .A = none → s.nextOp .B = none → exec .portOperationStart s = .next s) ∧
      ∀ c op, s.nextOp c = some op → (∀ c', c' ≠ c → s.nextOp c' = none ∨ s.portLast = c') →
        ∃ t, exec .portOperationStart s = .next t ∧ (t.chan c).portOp = some op ∧ t.portLast = c ∧
          t.line = s.line ∧ t.dir = s.dir ∧ t.store = s.store ∧
          (∀ c', c' ≠ c → t.chan c' = s.chan c') ∧
          (∀ tag, op = .drain tag → tag ∉ t.table.compl c ∧
            t.xchg tag = (s.xchg tag).map (fun x => { x with state := .draining }) ∧
            ∀ t', t' ≠ tag → t.xchg t' = s.xchg t') ∧
          ((∀ tag, op ≠ .drain tag) → t.table = s.table)) ∧
    ∀ c,
      let ch := s.chan c
      let filling (tag : Tag) : Prop := ∃ x, s.xchg tag = some x ∧ x.owner = .list c ∧ x.state = .filling
      let due (r : QRec) : Prop := r.tag = none ∧ r.finished = true ∧ r.written = false ∧ r.faulted = false
      let openNop (r : QRec) : Prop := r.tag = none ∧ r.finished = false ∧ r.faulted = false
      (∀ tag rest, s.table.compl c = tag :: rest → s.nextOp c = some (.drain tag)) ∧
      (∀ tag, s.nextOp c = some (.drain tag) → ∃ rest, s.table.compl c = tag :: rest) ∧
      (s.table.compl c = [] →
        (∀ tag, s.nextOp c = some (.fill tag) → filling tag) ∧
        (∀ tag, filling tag → (∀ tag', filling tag' → tag' = tag) → s.nextOp c = some (.fill tag)) ∧
        ((∀ tag, ¬filling tag) →
          (s.nextOp c = some .statusWrite ↔ ∃ r ∈ ch.queue, due r) ∧
          ((∀ r ∈ ch.queue, ¬due r) →
            (s.nextOp c = some (.fetch false) ↔ ch.state = .running ∧ ch.endMark = false ∧ ch.queue.length < 10 ∧
              ch.pendingDesc = none ∧ ∀ r ∈ ch.queue, ¬openNop r)))) ∧
      (∀ tag, s.nextOp c = some (.fill tag) → s.table.compl c = []) ∧
      (s.nextOp c = some .statusWrite → s.table.compl c = [] ∧ (∀ tag, ¬filling tag) ∧
        ∃ a r b, ch.queue = a ++ r :: b ∧ due r ∧ (∀ r' ∈ a, ¬due r') ∧ ch.dueRec = some r) ∧
      (∀ d, s.nextOp c = some (.fetch d) → d = false ∧ s.table.compl c = [] ∧ (∀ tag, ¬filling tag) ∧
        (∀ r ∈ ch.queue, ¬due r) ∧ ch.state = .running ∧ ch.endMark = false ∧ ch.queue.length < 10 ∧
        ch.pendingDesc = none ∧ ∀ r ∈ ch.queue, ¬openNop r)


/-- DESCRIPTOR_FETCH_END (R134, R135, R137, R139, R140, R142, R148, R177): a fetch marked to be dropped only ends; a NOP is
taken in with a record, finished unless it is fenced; an INVALID descriptor, and one whose units are at hand but whose
station is VACANT, SILENT or DISABLED, is taken in finished with its status and no exchange, and with STOP_ON_FAIL makes a
RUNNING channel STOPPING with cause FAILED; a WRITE, READ or BCAST_WRITE whose units are not at hand becomes the pending
descriptor and joins the wait list; otherwise the exchange of the descriptor is created and its record taken in. -/
def Obligations.DescriptorFetchEnd : Prop :=
  ∀ (s : State) (c : Chan) (w0 w1 w2 w3 w4 : Word), CountsAgree s →
    let ended := { s.chan c with portOp := none }
    let last := w0.getLsbD 19
    let nextAddr := w4 &&& 0xFFFFFFE0#32
    let record (tag : Option Tag) (st : Option Status) (fin : Bool) : QRec :=
      { addr := (s.chan c).next, next := if last then none else some nextAddr, irq := w0.getLsbD 17
        stopOnFail := w0.getLsbD 18, tag := tag, status := st, finished := fin, written := false, faulted := false
        buffer := w3 }
    let taken (r : QRec) : Channel := { ended with
      queue := (s.chan c).queue ++ [r], pendingDesc := none
      next := if last then (s.chan c).next else nextAddr
      endMark := (s.chan c).endMark || last }
    let run := exec (.descriptorFetchEnd c w0 w1 w2 w3 w4) s
    let without (st : Status) : Prop :=
      (w0.getLsbD 18 = false → s.hasFailure c = false →
        run = .next (s.setChan c (taken (record none (some st) true)))) ∧
      (w0.getLsbD 18 = true → (s.chan c).state = .running →
        ∃ t q, run = .next t ∧ (t.chan c).state = .stopping ∧ (t.chan c).haltCause = some .failed ∧
          (t.chan c).pendingDesc = none ∧ (t.chan c).queue = q ++ [record none (some st) true] ∧
          q.length = (s.chan c).queue.length ∧ t.line = s.line ∧ t.store = s.store)
    let kind := w0.toNat % 8
    let station := w0.toNat / 256 % 32
    let need := if kind = 3 then 0 else (w2.toNat % 256 + 32) / 32
    let valid := (kind = 1 ∨ kind = 2) ∧ station ≠ 0 ∧ station ≠ 31 ∧ w3.toNat % 4 = 0 ∨
      kind = 3 ∧ station ≠ 0 ∧ station ≠ 31 ∨ kind = 4 ∧ station = 31 ∧ w3.toNat % 4 = 0
    let granted := need = 0 ∨ s.table.waitList = [] ∧ need ≤ (s.freeUnits (.list c)).length
    let closed (n : Stn) := (s.entry n).state = .vacant ∨ (s.entry n).state = .silent ∨ (s.entry n).state = .disabled
    ((s.chan c).portOp = some (.fetch true) → run = .next (s.setChan c ended)) ∧
    ((s.chan c).portOp = some (.fetch false) →
      (kind = 5 → run = .next (s.setChan c (taken (record none (some .ok) (!w0.getLsbD 16))))) ∧
      (kind ≠ 5 → ¬valid → without .invalid) ∧
      (∀ n, valid → station = addrOf n → closed n → granted → without .notPresent) ∧
      (∀ dk, valid → ¬granted →
        dk = (if kind = 1 then .write else if kind = 2 then .read else .bcastWrite) →
        run = .next
          { s.setChan c { ended with
              pendingDesc := some
                { addr := (s.chan c).next, kind := dk, station := BitVec.ofNat 5 station, fence := w0.getLsbD 16
                  irq := w0.getLsbD 17, stopOnFail := w0.getLsbD 18, last := last, regAddr := w1.extractLsb' 0 16
                  signalOp := w1.extractLsb' 16 8, length := w2.toNat % 256 + 1, buffer := w3, next := nextAddr } } with
            table := { s.table with waitList := s.table.waitList ++ [(c, need)] } }) ∧
      ∀ dest kd tag, valid → granted →
        (dest = .broadcast ∧ kind = 4 ∨ ∃ n, dest = .station n ∧ station = addrOf n ∧ ¬closed n) →
        kd = (if kind = 1 then .write else if kind = 2 then .read else if kind = 3 then .signal else .bcastWrite) →
        s.countX (fun x => x.owner == .list c) < 10 → s.xchg tag = none → (∀ t', t' < tag → s.xchg t' ≠ none) →
        ∃ t, run = .next t ∧
          t.xchg tag = some
            { owner := .list c, kind := kd, dest := dest, regAddr := some (w1.extractLsb' 0 16)
              length := if kind = 3 then none else some (w2.toNat % 256 + 1)
              signalOp := if kind = 3 then some (w1.extractLsb' 16 8) else none
              units := (s.freeUnits (.list c)).take need, phase := .issue
              state := if kind = 1 ∨ kind = 4 then .filling else .waiting
              attempts := 0, busyCount := 0, seqUsed := none, unanswered := false, fence := w0.getLsbD 16
              expired := false, fillEnd := none, carried := none, backoff := none, deadline := none
              epochSeen := none, result := none } ∧
          (∀ t', t' ≠ tag → t.xchg t' = s.xchg t') ∧ t.chan c = taken (record (some tag) none false) ∧
          t.table.creation (.list c) = s.table.creation (.list c) ++ [tag] ∧
          t.dir = s.dir ∧ t.line = s.line ∧ t.store = s.store)

/-- FILL_END (R141, R18): the bytes read stand in the exchange's units; without a fill end mark it is WAITING; with
one it is
COMPLETE with that status, in the channel's completion list. -/
def Obligations.FillEnd : Prop :=
  ∀ (s : State) (c : Chan) (tag : Tag) (x : Exchange) (bytes : List Byte), CountsAgree s → ListsAgree s →
    (s.chan c).portOp = some (.fill tag) → s.xchg tag = some x → x.owner = .list c → x.state = .filling →
    x.phase = .issue → x.length = some bytes.length →
    (x.fillEnd = none → exec (.fillEnd c bytes) s = .next
      { s.setChan c { s.chan c with portOp := none } with
        table := { s.table with xs := s.table.xs.set tag (some { x with state := .waiting }) }
        store := writeUnits x.units 0 bytes s.store }) ∧
    ∀ m, x.fillEnd = some m → ∃ t, exec (.fillEnd c bytes) s = .next t ∧
      t.store = writeUnits x.units 0 bytes s.store ∧ t.line = s.line ∧ (t.chan c).portOp = none ∧
      tag ∈ t.table.compl c ∧ ∃ y, t.xchg tag = some y ∧ y.state = .complete ∧ y.units = x.units ∧
        y.result = some
          { status := (match m with
              | .linkReset => .linkReset
              | .stationLost => .stationLost
              | .cancelled => .cancelled)
            detail := none, replyLength := 0, repeated := false, uncertain := x.kind.nonIdem && x.unanswered
            epochSeen := x.epochSeen, attempts := x.attempts }

/-- DRAIN_END (R143, R144, R22, R177): the byte writes of an OK or SHORT READ go to the buffer and the status word to
the descriptor's sixth word; the record goes FREE and its descriptor is written; the channel retires every written
record at its head. -/
def Obligations.DrainEnd : Prop :=
  ∀ (s : State) (c : Chan) (tag : Tag) (x : Exchange) (res : Result) (r : QRec), CountsAgree s →
    (s.chan c).portOp = some (.drain tag) → s.xchg tag = some x → x.state = .draining → x.owner = .list c →
    x.result = some res → (s.chan c).recOf tag = some r →
    ∃ t, exec (.drainEnd c) s = .next t ∧ t.xchg tag = none ∧ (∀ t', t' ≠ tag → t.xchg t' = s.xchg t') ∧
      t.bus.status = some (r.addr + 0x14#32, statusWord res) ∧
      t.bus.data = (if x.kind = .read ∧ (res.status = .ok ∨ res.status = .short) then
          (List.range res.replyLength).map fun i => (r.buffer + BitVec.ofNat 32 i, readUnit x.units s.store i)
        else []) ∧
      t.bus.answer = s.bus.answer ∧ (t.chan c).portOp = none ∧ t.store = s.store ∧ t.line = s.line ∧ t.dir = s.dir ∧
      t.window = s.window ∧ t.events = s.events ∧
      (∀ r' ∈ (t.chan c).queue.head?, r'.written = false) ∧
      ∃ gone : List QRec, ((s.chan c).queue.map fun r' =>
          if r'.tag = some tag ∧ r'.written = false ∧ r'.faulted = false then { r' with written := true } else r') =
        gone ++ (t.chan c).queue ∧ (∀ r' ∈ gone, r'.written = true) ∧
        (t.chan c).retired = (s.chan c).retired + BitVec.ofNat 32 gone.length ∧
        (∀ r', gone.getLast? = some r' → (t.chan c).head = r'.next.getD r'.addr) ∧
        ((∃ r' ∈ gone, r'.irq = true) → t.irq.edge &&& causeNote c ≠ 0#32) ∧
        ((∃ r' ∈ gone, r'.next = none) → (s.chan c).state = .running ∨ (s.chan c).state = .paused →
          (t.chan c).state = .idle)

/-- INTAKE_STATUS_WRITE_END and NOP_FENCE_FINISH (R135, R142, R143, R144, R177): the status word of the finished record
without an exchange is written at its sixth word, and the written records at the head retire; a fenced NOP finishes once
no exchange of the channel is in flight.
CHANNEL_HALT and ABORT_END (R149, R151): with nothing of the channel in flight a STOPPING channel is HALTED with an
empty queue, its cause kept and LIST_x_HALT raised, and an ABORTING channel is IDLE with an empty queue; otherwise
nothing changes.
The fields of the status word (R177): done, status, reason or fault kind, attempts, repeat and uncertain flags, epoch and
reply length, each with its code; every other bit is 0. -/
def Obligations.StatusWritesNopsAndChannelEnds : Prop :=
  ((let due (r : QRec) : Prop := r.tag = none ∧ r.finished = true ∧ r.written = false ∧ r.faulted = false
    (∀ (s : State) (c : Chan) (r : QRec) (a b : List QRec), (s.chan c).portOp = some .statusWrite →
      (s.chan c).queue = a ++ r :: b → (∀ r' ∈ a, ¬due r') → due r →
      ∃ t gone, exec (.intakeStatusWriteEnd c) s = .next t ∧
        t.bus = { s.bus with
          status := some (r.addr + 0x14#32, plainStatusWord (r.status.getD .ok)), data := [] } ∧
        (t.chan c).portOp = none ∧ t.table = s.table ∧ t.dir = s.dir ∧ t.line = s.line ∧ t.store = s.store ∧
        a ++ { r with written := true } :: b = gone ++ (t.chan c).queue ∧ (∀ r' ∈ gone, r'.written = true) ∧
        (∀ r' ∈ (t.chan c).queue.head?, r'.written = false) ∧
        (t.chan c).retired = (s.chan c).retired + BitVec.ofNat 32 gone.length) ∧
    ∀ (s : State) (c : Chan),
      ((∃ tag x, s.xchg tag = some x ∧ x.owner = .list c ∧ x.live = true) → exec (.nopFenceFinish c) s = .next s) ∧
      ((∀ tag x, s.xchg tag = some x → x.owner = .list c → x.live = false) → exec (.nopFenceFinish c) s = .next
        (s.setChan c { s.chan c with queue := (s.chan c).queue.map fun r =>
          if r.tag = none ∧ r.finished = false ∧ r.faulted = false then { r with finished := true } else r }))) ∧
   (∀ (s : State) (c : Chan),
      let done := (∀ tag x, s.xchg tag = some x → x.owner ≠ .list c) ∧ (s.chan c).portOp = none ∧
        ∀ r ∈ (s.chan c).queue, r.written = true ∨ r.faulted = true
      ((s.chan c).state = .stopping → done → exec (.channelHalt c) s = .next
        { s.setChan c { s.chan c with state := .halted, queue := [], cancel := .none } with
          irq := { s.irq with edge := s.irq.edge ||| (match c with | .A => 0x2#32 | .B => 0x8#32) } }) ∧
      ((s.chan c).state ≠ .stopping ∨ ¬done → exec (.channelHalt c) s = .next s) ∧
      ((s.chan c).state = .aborting → done → exec (.abortEnd c) s = .next
        (s.setChan c { s.chan c with state := .idle, queue := [], haltCause := none, cancel := .none })) ∧
      ((s.chan c).state ≠ .aborting ∨ ¬done → exec (.abortEnd c) s = .next s))) ∧
  (∀ r : Result, r.attempts < 16 → r.replyLength ≤ 256 →
     let w := statusWord r
     let codes : List (Status × Nat) :=
       [(.ok, 0), (.short, 1), (.refused, 2), (.busyExhausted, 3), (.retryExhausted, 4), (.protocol, 5),
        (.stationLost, 6), (.stationRestarted, 7), (.deferExpired, 8), (.cancelled, 9), (.linkReset, 10),
        (.notPresent, 11), (.invalid, 12), (.discarded, 14)]
     let details : List (Option Detail × Nat) :=
       [(none, 0), (some (.reason .badAddress), 1), (some (.reason .badLength), 2), (some (.reason .readOnly), 3),
        (some (.reason .unsupported), 4), (some (.reason .stationFault), 5), (some (.fault .timeout), 8),
        (some (.fault .crc), 9), (some (.fault .framing), 10), (some (.fault .contention), 11),
        (some (.fault .wrongStation), 12), (some (.fault .overrun), 13), (some (.fault .unexpected), 14)]
     w.getLsbD 31 = true ∧
     (r.status, (w.extractLsb' 27 4).toNat) ∈ codes ∧ (r.detail, (w.extractLsb' 23 4).toNat) ∈ details ∧
     (w.extractLsb' 19 4).toNat = r.attempts ∧ w.getLsbD 18 = r.repeated ∧ w.getLsbD 17 = r.uncertain ∧
     w.getLsbD 16 = r.epochSeen.isSome ∧ w.extractLsb' 12 4 = r.epochSeen.getD 0#4 ∧ w.extractLsb' 9 3 = 0#3 ∧
     (w.extractLsb' 0 9).toNat = r.replyLength ∧
     ∀ st, plainStatusWord st = statusWord
       { status := st, detail := none, replyLength := 0, repeated := false, uncertain := false, epochSeen := none
         attempts := 0 })

/-- MEMORY_FAULT (R138, R149, R150): the operation ends and the first fault since LIST_START is recorded with the
operation, the descriptor and the address; the exchange of a fill or a drain goes FREE and its record is faulted, never
written, and for a fill without a tag; a fault of an intake status write faults its record; the other records keep their
marks; a RUNNING or PAUSED channel is STOPPING or HALTED and a STOPPING one stays so, with cause MEMORY_FAULT; an ABORTING
one stays so; a dropped fetch only ends. That nothing changes where no operation is under way, and that a fill leaves the
Payload Store as it was, are the model's choices (log entries 1 and 38). -/
def Obligations.MemoryFault : Prop :=
  ∀ (s : State) (c : Chan) (a : Word),
    ((s.chan c).portOp = none → exec (.memoryFault c a) s = .next s) ∧
    ((s.chan c).portOp = some (.fetch true) →
      exec (.memoryFault c a) s = .next (s.setChan c { s.chan c with portOp := none })) ∧
    let ch := s.chan c
    -- the step ends the operation and faults the records with property `hit`, whose tag becomes `tag'`
    let stops (t : State) (op : FaultOp) (desc : Word) (hit : QRec → Bool) (tag' : Option Tag) : Prop :=
      exec (.memoryFault c a) s = .next t ∧ (t.chan c).portOp = none ∧
      (t.chan c).memFault = (if ch.memFault = none then some { op := op, desc := desc, address := a } else ch.memFault) ∧
      t.store = s.store ∧ t.line = s.line ∧ (t.chan c).next = ch.next ∧ (t.chan c).head = ch.head ∧
      (t.chan c).retired = ch.retired ∧ (t.chan c).endMark = ch.endMark ∧ (t.chan c).base = ch.base ∧
      (ch.state = .running ∨ ch.state = .paused →
        ((t.chan c).state = .stopping ∨ (t.chan c).state = .halted) ∧ (t.chan c).haltCause = some .memoryFault) ∧
      (ch.state = .stopping → (t.chan c).state = .stopping ∧ (t.chan c).haltCause = some .memoryFault) ∧
      (ch.state = .aborting → (t.chan c).state = .aborting ∧ (t.chan c).haltCause = ch.haltCause) ∧
      ∃ q : List QRec, ((t.chan c).queue = q ∨
          (t.chan c).state = .halted ∧ (t.chan c).queue = [] ∧ ∀ r ∈ q, r.written = true ∨ r.faulted = true) ∧
        q.length = ch.queue.length ∧
        ∀ (i : Nat) (r r' : QRec), ch.queue[i]? = some r → q[i]? = some r' →
          r'.addr = r.addr ∧ r'.next = r.next ∧ r'.irq = r.irq ∧ r'.stopOnFail = r.stopOnFail ∧ r'.buffer = r.buffer ∧
          r'.written = r.written ∧
          (hit r = true → r'.faulted = true ∧ r'.tag = tag' ∧ r'.written = false) ∧
          (hit r = false → r'.faulted = r.faulted ∧ r'.tag = r.tag)
    let others (t : State) (tag : Tag) : Prop :=
      t.xchg tag = none ∧ (ch.state ≠ .running → ch.state ≠ .paused → ∀ t', t' ≠ tag → t.xchg t' = s.xchg t')
    (ch.portOp = some (.fetch false) → ∃ t, stops t .fetch ch.next (fun _ => false) none) ∧
    (∀ tag r, ch.portOp = some (.fill tag) → ch.recOf tag = some r →
      ∃ t, stops t .fill r.addr (fun r' => r'.tag == some tag && !r'.written && !r'.faulted) none ∧ others t tag) ∧
    (∀ tag r, ch.portOp = some (.drain tag) → ch.recOf tag = some r →
      ∃ t, stops t .drain r.addr (fun r' => r'.tag == some tag && !r'.written && !r'.faulted) (some tag) ∧ others t tag) ∧
    ∀ r x y, ch.portOp = some .statusWrite → ch.queue = x ++ r :: y →
      (∀ r' ∈ x, ¬(r'.tag = none ∧ r'.finished = true ∧ r'.written = false ∧ r'.faulted = false)) →
      r.tag = none → r.finished = true → r.written = false → r.faulted = false → (∀ r' ∈ x ++ y, r' ≠ r) →
      ∃ t, stops t .drain r.addr (fun r' => r' == r) none

/-! ## What every step keeps -/

/-- After RESET_N every invariant of this section holds. -/
def Obligations.InvariantsHoldAtReset : Prop :=
  Memory.wf State.reset.store = true ∧ State.reset.regs.InRange ∧ CountsInRange State.reset ∧ LineShape State.reset ∧
  OneOnLine State.reset ∧ OneUnsettled State.reset ∧ ListsAgree State.reset ∧ QuotasHold State.reset ∧ UnitsDisjoint State.reset ∧
  CountsAgree State.reset ∧ PhasesAgree State.reset ∧ PortNamesItsOwn State.reset ∧ HoldNamesItsRead State.reset ∧
  DirectoryLists State.reset ∧ EventRoom State.reset ∧ DisabledIsIdle State.reset ∧ DeferralsFit State.reset

/-- Every step keeps the Payload Store canonical, the registers in their ranges, and the counts and cause sets in theirs
(R25, R67, R77, R167, R169, R172). -/
def Obligations.EveryStepKeepsTheRanges : Prop :=
  ∀ s t : State, step s = .next t →
    (Memory.wf s.store = true → Memory.wf t.store = true) ∧ (s.regs.InRange → t.regs.InRange) ∧
    (s.regs.InRange → CountsInRange s → CountsInRange t)

/-- Every step keeps the line record of a piece and at most one exchange ON_LINE, the current job's (R6, R68), and for each
station at most one non-idempotent exchange that is ON_LINE, in BACKOFF or unanswered, and none ON_LINE while the station's
sequence-uncertain mark is set (R87). -/
def Obligations.EveryStepKeepsOneOnLine : Prop :=
  ∀ s t : State, step s = .next t → LineShape s →
    LineShape t ∧ (OneOnLine s → OneOnLine t) ∧
    (OneOnLine s → PhasesAgree s → PortNamesItsOwn s → HoldNamesItsRead s → OneUnsettled s → OneUnsettled t)

/-- Every step keeps the creation lists in agreement with the records (R4), the quotas (R3) and the units apart (R11).
-/
def Obligations.EveryStepKeepsListsQuotasAndUnits : Prop :=
  ∀ s t : State, step s = .next t →
    (ListsAgree s → ListsAgree t) ∧ (QuotasHold s → QuotasHold t) ∧ (UnitsDisjoint s → UnitsDisjoint t)

/-- Every step keeps each station's deferred count equal to the number of its unfinished exchanges in COLLECT or ABANDON
(R25, R108), and no greater than its deferral capacity (R25, R89, R106). -/
def Obligations.EveryStepKeepsTheDeferredCounts : Prop :=
  ∀ s t : State, step s = .next t → CountsAgree s →
    CountsAgree t ∧
    (LineShape s → OneOnLine s → PhasesAgree s → DisabledIsIdle s → DeferralsFit s → DeferralsFit t)

/-- Every step keeps phase, state and their fields in agreement (R1, R5, R6), the port operations and completion lists
of a channel naming its own exchanges (R15, R138), and the read hold naming the window's one READ (R158, R159). Whatever
command completes exchanges of a channel, and by whichever rules of the step, their tags join its completion list in the
channel's creation order (R15). -/
def Obligations.EveryStepKeepsPhasesPortsAndHold : Prop :=
  (∀ s t : State, step s = .next t → ListsAgree s → PortNamesItsOwn s → HoldNamesItsRead s →
     PortNamesItsOwn t ∧ HoldNamesItsRead t ∧ (PhasesAgree s → PhasesAgree t)) ∧
  (∀ (i : Instr) (s t : State) (c : Chan), i ≠ .resetN → exec i s = .next t → ListsAgree s →
     ∃ kept done : List Tag, t.table.compl c = kept ++ done ∧ kept.Sublist (s.table.compl c) ∧
       done.Sublist (s.table.creation (.list c)) ∧
       ∀ tag ∈ done, (∃ x, s.xchg tag = some x ∧ x.state ≠ .complete) ∧ ∃ y, t.xchg tag = some y ∧ y.state = .complete)

/-- Whatever happens but RESET_N, an exchange keeps what its owner asked for, and a finished one its result, until its
record goes FREE (R2, R7). -/
def Obligations.ExchangesKeepTheirRequest : Prop :=
  ∀ (c : Instr) (s t : State), c ≠ .resetN → exec c s = .next t →
    ∀ tag x y, s.xchg tag = some x → t.xchg tag = some y → KeepsRequest x y

/-- Every step keeps the census and recovery lists without repeats and the census list free of DISABLED stations (R28,
R35), a place in the event queue for every FETCH_EVENT in flight (R163, R164), and DISABLED stations without exchanges
in flight (R42). -/
def Obligations.EveryStepKeepsTheDirectoryLists : Prop :=
  ∀ s t : State, step s = .next t →
    (DirectoryLists s → DirectoryLists t) ∧ (QuotasHold s → EventRoom s → EventRoom t) ∧
    (DisabledIsIdle s → DisabledIsIdle t)

end
end

