-- ==== Sys2Proof/Laws/State.lean ====
section
/-! SUPPORT. What each update of the state leaves alone, one lemma a field, true by computation, and what it writes. -/

namespace Sys2Proof.Machine.State

@[simp] theorem setXchg_store (s : State) (t : Tag) (x : Option Exchange) : (s.setXchg t x).store = s.store := rfl
@[simp] theorem setXchg_dir (s : State) (t : Tag) (x : Option Exchange) : (s.setXchg t x).dir = s.dir := rfl
@[simp] theorem setXchg_line (s : State) (t : Tag) (x : Option Exchange) : (s.setXchg t x).line = s.line := rfl
@[simp] theorem setXchg_pointer (s : State) (t : Tag) (x : Option Exchange) : (s.setXchg t x).pointer = s.pointer := rfl
@[simp] theorem setXchg_sweep (s : State) (t : Tag) (x : Option Exchange) : (s.setXchg t x).sweep = s.sweep := rfl
@[simp] theorem setXchg_chanA (s : State) (t : Tag) (x : Option Exchange) : (s.setXchg t x).chanA = s.chanA := rfl
@[simp] theorem setXchg_chanB (s : State) (t : Tag) (x : Option Exchange) : (s.setXchg t x).chanB = s.chanB := rfl
@[simp] theorem setXchg_portLast (s : State) (t : Tag) (x : Option Exchange) : (s.setXchg t x).portLast = s.portLast := rfl
@[simp] theorem setXchg_window (s : State) (t : Tag) (x : Option Exchange) : (s.setXchg t x).window = s.window := rfl
@[simp] theorem setXchg_events (s : State) (t : Tag) (x : Option Exchange) : (s.setXchg t x).events = s.events := rfl
@[simp] theorem setXchg_irq (s : State) (t : Tag) (x : Option Exchange) : (s.setXchg t x).irq = s.irq := rfl
@[simp] theorem setXchg_regs (s : State) (t : Tag) (x : Option Exchange) : (s.setXchg t x).regs = s.regs := rfl
@[simp] theorem setXchg_views (s : State) (t : Tag) (x : Option Exchange) : (s.setXchg t x).views = s.views := rfl
@[simp] theorem setXchg_bus (s : State) (t : Tag) (x : Option Exchange) : (s.setXchg t x).bus = s.bus := rfl
@[simp] theorem setXchg_freeCount (s : State) (t : Tag) (x : Option Exchange) : (s.setXchg t x).freeCount = s.freeCount := rfl
@[simp] theorem setXchg_pending (s : State) (t : Tag) (x : Option Exchange) : (s.setXchg t x).pending = s.pending := rfl

@[simp] theorem mapX_store (s : State) (f : Tag → Exchange → Exchange) : (s.mapX f).store = s.store := rfl
@[simp] theorem mapX_dir (s : State) (f : Tag → Exchange → Exchange) : (s.mapX f).dir = s.dir := rfl
@[simp] theorem mapX_line (s : State) (f : Tag → Exchange → Exchange) : (s.mapX f).line = s.line := rfl
@[simp] theorem mapX_pointer (s : State) (f : Tag → Exchange → Exchange) : (s.mapX f).pointer = s.pointer := rfl
@[simp] theorem mapX_sweep (s : State) (f : Tag → Exchange → Exchange) : (s.mapX f).sweep = s.sweep := rfl
@[simp] theorem mapX_chanA (s : State) (f : Tag → Exchange → Exchange) : (s.mapX f).chanA = s.chanA := rfl
@[simp] theorem mapX_chanB (s : State) (f : Tag → Exchange → Exchange) : (s.mapX f).chanB = s.chanB := rfl
@[simp] theorem mapX_portLast (s : State) (f : Tag → Exchange → Exchange) : (s.mapX f).portLast = s.portLast := rfl
@[simp] theorem mapX_window (s : State) (f : Tag → Exchange → Exchange) : (s.mapX f).window = s.window := rfl
@[simp] theorem mapX_events (s : State) (f : Tag → Exchange → Exchange) : (s.mapX f).events = s.events := rfl
@[simp] theorem mapX_irq (s : State) (f : Tag → Exchange → Exchange) : (s.mapX f).irq = s.irq := rfl
@[simp] theorem mapX_regs (s : State) (f : Tag → Exchange → Exchange) : (s.mapX f).regs = s.regs := rfl
@[simp] theorem mapX_views (s : State) (f : Tag → Exchange → Exchange) : (s.mapX f).views = s.views := rfl
@[simp] theorem mapX_bus (s : State) (f : Tag → Exchange → Exchange) : (s.mapX f).bus = s.bus := rfl
@[simp] theorem mapX_freeCount (s : State) (f : Tag → Exchange → Exchange) : (s.mapX f).freeCount = s.freeCount := rfl
@[simp] theorem mapX_pending (s : State) (f : Tag → Exchange → Exchange) : (s.mapX f).pending = s.pending := rfl

@[simp] theorem withdraw_store (s : State) (c : Chan) : (s.withdraw c).store = s.store := rfl
@[simp] theorem withdraw_dir (s : State) (c : Chan) : (s.withdraw c).dir = s.dir := rfl
@[simp] theorem withdraw_line (s : State) (c : Chan) : (s.withdraw c).line = s.line := rfl
@[simp] theorem withdraw_pointer (s : State) (c : Chan) : (s.withdraw c).pointer = s.pointer := rfl
@[simp] theorem withdraw_sweep (s : State) (c : Chan) : (s.withdraw c).sweep = s.sweep := rfl
@[simp] theorem withdraw_chanA (s : State) (c : Chan) : (s.withdraw c).chanA = s.chanA := rfl
@[simp] theorem withdraw_chanB (s : State) (c : Chan) : (s.withdraw c).chanB = s.chanB := rfl
@[simp] theorem withdraw_portLast (s : State) (c : Chan) : (s.withdraw c).portLast = s.portLast := rfl
@[simp] theorem withdraw_window (s : State) (c : Chan) : (s.withdraw c).window = s.window := rfl
@[simp] theorem withdraw_events (s : State) (c : Chan) : (s.withdraw c).events = s.events := rfl
@[simp] theorem withdraw_irq (s : State) (c : Chan) : (s.withdraw c).irq = s.irq := rfl
@[simp] theorem withdraw_regs (s : State) (c : Chan) : (s.withdraw c).regs = s.regs := rfl
@[simp] theorem withdraw_views (s : State) (c : Chan) : (s.withdraw c).views = s.views := rfl
@[simp] theorem withdraw_bus (s : State) (c : Chan) : (s.withdraw c).bus = s.bus := rfl
@[simp] theorem withdraw_freeCount (s : State) (c : Chan) : (s.withdraw c).freeCount = s.freeCount := rfl
@[simp] theorem withdraw_pending (s : State) (c : Chan) : (s.withdraw c).pending = s.pending := rfl

@[simp] theorem setEntry_table (s : State) (n : Stn) (e : Entry) : (s.setEntry n e).table = s.table := rfl
@[simp] theorem setEntry_store (s : State) (n : Stn) (e : Entry) : (s.setEntry n e).store = s.store := rfl
@[simp] theorem setEntry_line (s : State) (n : Stn) (e : Entry) : (s.setEntry n e).line = s.line := rfl
@[simp] theorem setEntry_pointer (s : State) (n : Stn) (e : Entry) : (s.setEntry n e).pointer = s.pointer := rfl
@[simp] theorem setEntry_sweep (s : State) (n : Stn) (e : Entry) : (s.setEntry n e).sweep = s.sweep := rfl
@[simp] theorem setEntry_chanA (s : State) (n : Stn) (e : Entry) : (s.setEntry n e).chanA = s.chanA := rfl
@[simp] theorem setEntry_chanB (s : State) (n : Stn) (e : Entry) : (s.setEntry n e).chanB = s.chanB := rfl
@[simp] theorem setEntry_portLast (s : State) (n : Stn) (e : Entry) : (s.setEntry n e).portLast = s.portLast := rfl
@[simp] theorem setEntry_window (s : State) (n : Stn) (e : Entry) : (s.setEntry n e).window = s.window := rfl
@[simp] theorem setEntry_events (s : State) (n : Stn) (e : Entry) : (s.setEntry n e).events = s.events := rfl
@[simp] theorem setEntry_irq (s : State) (n : Stn) (e : Entry) : (s.setEntry n e).irq = s.irq := rfl
@[simp] theorem setEntry_regs (s : State) (n : Stn) (e : Entry) : (s.setEntry n e).regs = s.regs := rfl
@[simp] theorem setEntry_views (s : State) (n : Stn) (e : Entry) : (s.setEntry n e).views = s.views := rfl
@[simp] theorem setEntry_bus (s : State) (n : Stn) (e : Entry) : (s.setEntry n e).bus = s.bus := rfl
@[simp] theorem setEntry_freeCount (s : State) (n : Stn) (e : Entry) : (s.setEntry n e).freeCount = s.freeCount := rfl
@[simp] theorem setEntry_pending (s : State) (n : Stn) (e : Entry) : (s.setEntry n e).pending = s.pending := rfl

@[simp] theorem modEntry_table (s : State) (n : Stn) (f : Entry → Entry) : (s.modEntry n f).table = s.table := rfl
@[simp] theorem modEntry_store (s : State) (n : Stn) (f : Entry → Entry) : (s.modEntry n f).store = s.store := rfl
@[simp] theorem modEntry_line (s : State) (n : Stn) (f : Entry → Entry) : (s.modEntry n f).line = s.line := rfl
@[simp] theorem modEntry_pointer (s : State) (n : Stn) (f : Entry → Entry) : (s.modEntry n f).pointer = s.pointer := rfl
@[simp] theorem modEntry_sweep (s : State) (n : Stn) (f : Entry → Entry) : (s.modEntry n f).sweep = s.sweep := rfl
@[simp] theorem modEntry_chanA (s : State) (n : Stn) (f : Entry → Entry) : (s.modEntry n f).chanA = s.chanA := rfl
@[simp] theorem modEntry_chanB (s : State) (n : Stn) (f : Entry → Entry) : (s.modEntry n f).chanB = s.chanB := rfl
@[simp] theorem modEntry_portLast (s : State) (n : Stn) (f : Entry → Entry) : (s.modEntry n f).portLast = s.portLast := rfl
@[simp] theorem modEntry_window (s : State) (n : Stn) (f : Entry → Entry) : (s.modEntry n f).window = s.window := rfl
@[simp] theorem modEntry_events (s : State) (n : Stn) (f : Entry → Entry) : (s.modEntry n f).events = s.events := rfl
@[simp] theorem modEntry_irq (s : State) (n : Stn) (f : Entry → Entry) : (s.modEntry n f).irq = s.irq := rfl
@[simp] theorem modEntry_regs (s : State) (n : Stn) (f : Entry → Entry) : (s.modEntry n f).regs = s.regs := rfl
@[simp] theorem modEntry_views (s : State) (n : Stn) (f : Entry → Entry) : (s.modEntry n f).views = s.views := rfl
@[simp] theorem modEntry_bus (s : State) (n : Stn) (f : Entry → Entry) : (s.modEntry n f).bus = s.bus := rfl
@[simp] theorem modEntry_freeCount (s : State) (n : Stn) (f : Entry → Entry) : (s.modEntry n f).freeCount = s.freeCount := rfl
@[simp] theorem modEntry_pending (s : State) (n : Stn) (f : Entry → Entry) : (s.modEntry n f).pending = s.pending := rfl

@[simp] theorem mapEntries_table (s : State) (f : Stn → Entry → Entry) : (s.mapEntries f).table = s.table := rfl
@[simp] theorem mapEntries_store (s : State) (f : Stn → Entry → Entry) : (s.mapEntries f).store = s.store := rfl
@[simp] theorem mapEntries_line (s : State) (f : Stn → Entry → Entry) : (s.mapEntries f).line = s.line := rfl
@[simp] theorem mapEntries_pointer (s : State) (f : Stn → Entry → Entry) : (s.mapEntries f).pointer = s.pointer := rfl
@[simp] theorem mapEntries_sweep (s : State) (f : Stn → Entry → Entry) : (s.mapEntries f).sweep = s.sweep := rfl
@[simp] theorem mapEntries_chanA (s : State) (f : Stn → Entry → Entry) : (s.mapEntries f).chanA = s.chanA := rfl
@[simp] theorem mapEntries_chanB (s : State) (f : Stn → Entry → Entry) : (s.mapEntries f).chanB = s.chanB := rfl
@[simp] theorem mapEntries_portLast (s : State) (f : Stn → Entry → Entry) : (s.mapEntries f).portLast = s.portLast := rfl
@[simp] theorem mapEntries_window (s : State) (f : Stn → Entry → Entry) : (s.mapEntries f).window = s.window := rfl
@[simp] theorem mapEntries_events (s : State) (f : Stn → Entry → Entry) : (s.mapEntries f).events = s.events := rfl
@[simp] theorem mapEntries_irq (s : State) (f : Stn → Entry → Entry) : (s.mapEntries f).irq = s.irq := rfl
@[simp] theorem mapEntries_regs (s : State) (f : Stn → Entry → Entry) : (s.mapEntries f).regs = s.regs := rfl
@[simp] theorem mapEntries_views (s : State) (f : Stn → Entry → Entry) : (s.mapEntries f).views = s.views := rfl
@[simp] theorem mapEntries_bus (s : State) (f : Stn → Entry → Entry) : (s.mapEntries f).bus = s.bus := rfl
@[simp] theorem mapEntries_freeCount (s : State) (f : Stn → Entry → Entry) : (s.mapEntries f).freeCount = s.freeCount := rfl
@[simp] theorem mapEntries_pending (s : State) (f : Stn → Entry → Entry) : (s.mapEntries f).pending = s.pending := rfl

@[simp] theorem noteChange_table (s : State) (n : Stn) : (s.noteChange n).table = s.table := rfl
@[simp] theorem noteChange_store (s : State) (n : Stn) : (s.noteChange n).store = s.store := rfl
@[simp] theorem noteChange_line (s : State) (n : Stn) : (s.noteChange n).line = s.line := rfl
@[simp] theorem noteChange_pointer (s : State) (n : Stn) : (s.noteChange n).pointer = s.pointer := rfl
@[simp] theorem noteChange_sweep (s : State) (n : Stn) : (s.noteChange n).sweep = s.sweep := rfl
@[simp] theorem noteChange_chanA (s : State) (n : Stn) : (s.noteChange n).chanA = s.chanA := rfl
@[simp] theorem noteChange_chanB (s : State) (n : Stn) : (s.noteChange n).chanB = s.chanB := rfl
@[simp] theorem noteChange_portLast (s : State) (n : Stn) : (s.noteChange n).portLast = s.portLast := rfl
@[simp] theorem noteChange_window (s : State) (n : Stn) : (s.noteChange n).window = s.window := rfl
@[simp] theorem noteChange_events (s : State) (n : Stn) : (s.noteChange n).events = s.events := rfl
@[simp] theorem noteChange_irq (s : State) (n : Stn) : (s.noteChange n).irq = s.irq := rfl
@[simp] theorem noteChange_regs (s : State) (n : Stn) : (s.noteChange n).regs = s.regs := rfl
@[simp] theorem noteChange_views (s : State) (n : Stn) : (s.noteChange n).views = s.views := rfl
@[simp] theorem noteChange_bus (s : State) (n : Stn) : (s.noteChange n).bus = s.bus := rfl
@[simp] theorem noteChange_freeCount (s : State) (n : Stn) : (s.noteChange n).freeCount = s.freeCount := rfl
@[simp] theorem noteChange_pending (s : State) (n : Stn) : (s.noteChange n).pending = s.pending := rfl

@[simp] theorem moveTo_table (s : State) (n : Stn) (st : StnState) : (s.moveTo n st).table = s.table := rfl
@[simp] theorem moveTo_store (s : State) (n : Stn) (st : StnState) : (s.moveTo n st).store = s.store := rfl
@[simp] theorem moveTo_line (s : State) (n : Stn) (st : StnState) : (s.moveTo n st).line = s.line := rfl
@[simp] theorem moveTo_pointer (s : State) (n : Stn) (st : StnState) : (s.moveTo n st).pointer = s.pointer := rfl
@[simp] theorem moveTo_sweep (s : State) (n : Stn) (st : StnState) : (s.moveTo n st).sweep = s.sweep := rfl
@[simp] theorem moveTo_chanA (s : State) (n : Stn) (st : StnState) : (s.moveTo n st).chanA = s.chanA := rfl
@[simp] theorem moveTo_chanB (s : State) (n : Stn) (st : StnState) : (s.moveTo n st).chanB = s.chanB := rfl
@[simp] theorem moveTo_portLast (s : State) (n : Stn) (st : StnState) : (s.moveTo n st).portLast = s.portLast := rfl
@[simp] theorem moveTo_window (s : State) (n : Stn) (st : StnState) : (s.moveTo n st).window = s.window := rfl
@[simp] theorem moveTo_events (s : State) (n : Stn) (st : StnState) : (s.moveTo n st).events = s.events := rfl
@[simp] theorem moveTo_irq (s : State) (n : Stn) (st : StnState) : (s.moveTo n st).irq = s.irq := rfl
@[simp] theorem moveTo_regs (s : State) (n : Stn) (st : StnState) : (s.moveTo n st).regs = s.regs := rfl
@[simp] theorem moveTo_views (s : State) (n : Stn) (st : StnState) : (s.moveTo n st).views = s.views := rfl
@[simp] theorem moveTo_bus (s : State) (n : Stn) (st : StnState) : (s.moveTo n st).bus = s.bus := rfl
@[simp] theorem moveTo_freeCount (s : State) (n : Stn) (st : StnState) : (s.moveTo n st).freeCount = s.freeCount := rfl
@[simp] theorem moveTo_pending (s : State) (n : Stn) (st : StnState) : (s.moveTo n st).pending = s.pending := rfl

@[simp] theorem dropRecovery_table (s : State) (n : Stn) : (s.dropRecovery n).table = s.table := rfl
@[simp] theorem dropRecovery_store (s : State) (n : Stn) : (s.dropRecovery n).store = s.store := rfl
@[simp] theorem dropRecovery_line (s : State) (n : Stn) : (s.dropRecovery n).line = s.line := rfl
@[simp] theorem dropRecovery_pointer (s : State) (n : Stn) : (s.dropRecovery n).pointer = s.pointer := rfl
@[simp] theorem dropRecovery_sweep (s : State) (n : Stn) : (s.dropRecovery n).sweep = s.sweep := rfl
@[simp] theorem dropRecovery_chanA (s : State) (n : Stn) : (s.dropRecovery n).chanA = s.chanA := rfl
@[simp] theorem dropRecovery_chanB (s : State) (n : Stn) : (s.dropRecovery n).chanB = s.chanB := rfl
@[simp] theorem dropRecovery_portLast (s : State) (n : Stn) : (s.dropRecovery n).portLast = s.portLast := rfl
@[simp] theorem dropRecovery_window (s : State) (n : Stn) : (s.dropRecovery n).window = s.window := rfl
@[simp] theorem dropRecovery_events (s : State) (n : Stn) : (s.dropRecovery n).events = s.events := rfl
@[simp] theorem dropRecovery_irq (s : State) (n : Stn) : (s.dropRecovery n).irq = s.irq := rfl
@[simp] theorem dropRecovery_regs (s : State) (n : Stn) : (s.dropRecovery n).regs = s.regs := rfl
@[simp] theorem dropRecovery_views (s : State) (n : Stn) : (s.dropRecovery n).views = s.views := rfl
@[simp] theorem dropRecovery_bus (s : State) (n : Stn) : (s.dropRecovery n).bus = s.bus := rfl
@[simp] theorem dropRecovery_freeCount (s : State) (n : Stn) : (s.dropRecovery n).freeCount = s.freeCount := rfl
@[simp] theorem dropRecovery_pending (s : State) (n : Stn) : (s.dropRecovery n).pending = s.pending := rfl

@[simp] theorem recount_table (s : State)  : (s.recount).table = s.table := rfl
@[simp] theorem recount_store (s : State)  : (s.recount).store = s.store := rfl
@[simp] theorem recount_line (s : State)  : (s.recount).line = s.line := rfl
@[simp] theorem recount_pointer (s : State)  : (s.recount).pointer = s.pointer := rfl
@[simp] theorem recount_sweep (s : State)  : (s.recount).sweep = s.sweep := rfl
@[simp] theorem recount_chanA (s : State)  : (s.recount).chanA = s.chanA := rfl
@[simp] theorem recount_chanB (s : State)  : (s.recount).chanB = s.chanB := rfl
@[simp] theorem recount_portLast (s : State)  : (s.recount).portLast = s.portLast := rfl
@[simp] theorem recount_window (s : State)  : (s.recount).window = s.window := rfl
@[simp] theorem recount_events (s : State)  : (s.recount).events = s.events := rfl
@[simp] theorem recount_irq (s : State)  : (s.recount).irq = s.irq := rfl
@[simp] theorem recount_regs (s : State)  : (s.recount).regs = s.regs := rfl
@[simp] theorem recount_views (s : State)  : (s.recount).views = s.views := rfl
@[simp] theorem recount_bus (s : State)  : (s.recount).bus = s.bus := rfl
@[simp] theorem recount_freeCount (s : State)  : (s.recount).freeCount = s.freeCount := rfl
@[simp] theorem recount_pending (s : State)  : (s.recount).pending = s.pending := rfl

@[simp] theorem setChan_table (s : State) (c : Chan) (ch : Channel) : (s.setChan c ch).table = s.table := by cases c <;> rfl
@[simp] theorem setChan_store (s : State) (c : Chan) (ch : Channel) : (s.setChan c ch).store = s.store := by cases c <;> rfl
@[simp] theorem setChan_dir (s : State) (c : Chan) (ch : Channel) : (s.setChan c ch).dir = s.dir := by cases c <;> rfl
@[simp] theorem setChan_line (s : State) (c : Chan) (ch : Channel) : (s.setChan c ch).line = s.line := by cases c <;> rfl
@[simp] theorem setChan_pointer (s : State) (c : Chan) (ch : Channel) : (s.setChan c ch).pointer = s.pointer := by cases c <;> rfl
@[simp] theorem setChan_sweep (s : State) (c : Chan) (ch : Channel) : (s.setChan c ch).sweep = s.sweep := by cases c <;> rfl
@[simp] theorem setChan_portLast (s : State) (c : Chan) (ch : Channel) : (s.setChan c ch).portLast = s.portLast := by cases c <;> rfl
@[simp] theorem setChan_window (s : State) (c : Chan) (ch : Channel) : (s.setChan c ch).window = s.window := by cases c <;> rfl
@[simp] theorem setChan_events (s : State) (c : Chan) (ch : Channel) : (s.setChan c ch).events = s.events := by cases c <;> rfl
@[simp] theorem setChan_irq (s : State) (c : Chan) (ch : Channel) : (s.setChan c ch).irq = s.irq := by cases c <;> rfl
@[simp] theorem setChan_regs (s : State) (c : Chan) (ch : Channel) : (s.setChan c ch).regs = s.regs := by cases c <;> rfl
@[simp] theorem setChan_views (s : State) (c : Chan) (ch : Channel) : (s.setChan c ch).views = s.views := by cases c <;> rfl
@[simp] theorem setChan_bus (s : State) (c : Chan) (ch : Channel) : (s.setChan c ch).bus = s.bus := by cases c <;> rfl
@[simp] theorem setChan_freeCount (s : State) (c : Chan) (ch : Channel) : (s.setChan c ch).freeCount = s.freeCount := by cases c <;> rfl
@[simp] theorem setChan_pending (s : State) (c : Chan) (ch : Channel) : (s.setChan c ch).pending = s.pending := by cases c <;> rfl

@[simp] theorem modChan_table (s : State) (c : Chan) (f : Channel → Channel) : (s.modChan c f).table = s.table := by cases c <;> rfl
@[simp] theorem modChan_store (s : State) (c : Chan) (f : Channel → Channel) : (s.modChan c f).store = s.store := by cases c <;> rfl
@[simp] theorem modChan_dir (s : State) (c : Chan) (f : Channel → Channel) : (s.modChan c f).dir = s.dir := by cases c <;> rfl
@[simp] theorem modChan_line (s : State) (c : Chan) (f : Channel → Channel) : (s.modChan c f).line = s.line := by cases c <;> rfl
@[simp] theorem modChan_pointer (s : State) (c : Chan) (f : Channel → Channel) : (s.modChan c f).pointer = s.pointer := by cases c <;> rfl
@[simp] theorem modChan_sweep (s : State) (c : Chan) (f : Channel → Channel) : (s.modChan c f).sweep = s.sweep := by cases c <;> rfl
@[simp] theorem modChan_portLast (s : State) (c : Chan) (f : Channel → Channel) : (s.modChan c f).portLast = s.portLast := by cases c <;> rfl
@[simp] theorem modChan_window (s : State) (c : Chan) (f : Channel → Channel) : (s.modChan c f).window = s.window := by cases c <;> rfl
@[simp] theorem modChan_events (s : State) (c : Chan) (f : Channel → Channel) : (s.modChan c f).events = s.events := by cases c <;> rfl
@[simp] theorem modChan_irq (s : State) (c : Chan) (f : Channel → Channel) : (s.modChan c f).irq = s.irq := by cases c <;> rfl
@[simp] theorem modChan_regs (s : State) (c : Chan) (f : Channel → Channel) : (s.modChan c f).regs = s.regs := by cases c <;> rfl
@[simp] theorem modChan_views (s : State) (c : Chan) (f : Channel → Channel) : (s.modChan c f).views = s.views := by cases c <;> rfl
@[simp] theorem modChan_bus (s : State) (c : Chan) (f : Channel → Channel) : (s.modChan c f).bus = s.bus := by cases c <;> rfl
@[simp] theorem modChan_freeCount (s : State) (c : Chan) (f : Channel → Channel) : (s.modChan c f).freeCount = s.freeCount := by cases c <;> rfl
@[simp] theorem modChan_pending (s : State) (c : Chan) (f : Channel → Channel) : (s.modChan c f).pending = s.pending := by cases c <;> rfl

@[simp] theorem raise_table (s : State) (k : Word) : (s.raise k).table = s.table := rfl
@[simp] theorem raise_store (s : State) (k : Word) : (s.raise k).store = s.store := rfl
@[simp] theorem raise_dir (s : State) (k : Word) : (s.raise k).dir = s.dir := rfl
@[simp] theorem raise_line (s : State) (k : Word) : (s.raise k).line = s.line := rfl
@[simp] theorem raise_pointer (s : State) (k : Word) : (s.raise k).pointer = s.pointer := rfl
@[simp] theorem raise_sweep (s : State) (k : Word) : (s.raise k).sweep = s.sweep := rfl
@[simp] theorem raise_chanA (s : State) (k : Word) : (s.raise k).chanA = s.chanA := rfl
@[simp] theorem raise_chanB (s : State) (k : Word) : (s.raise k).chanB = s.chanB := rfl
@[simp] theorem raise_portLast (s : State) (k : Word) : (s.raise k).portLast = s.portLast := rfl
@[simp] theorem raise_window (s : State) (k : Word) : (s.raise k).window = s.window := rfl
@[simp] theorem raise_events (s : State) (k : Word) : (s.raise k).events = s.events := rfl
@[simp] theorem raise_regs (s : State) (k : Word) : (s.raise k).regs = s.regs := rfl
@[simp] theorem raise_views (s : State) (k : Word) : (s.raise k).views = s.views := rfl
@[simp] theorem raise_bus (s : State) (k : Word) : (s.raise k).bus = s.bus := rfl
@[simp] theorem raise_freeCount (s : State) (k : Word) : (s.raise k).freeCount = s.freeCount := rfl
@[simp] theorem raise_pending (s : State) (k : Word) : (s.raise k).pending = s.pending := rfl

@[simp] theorem answer_table (s : State) (a : Answer) : (s.answer a).table = s.table := rfl
@[simp] theorem answer_store (s : State) (a : Answer) : (s.answer a).store = s.store := rfl
@[simp] theorem answer_dir (s : State) (a : Answer) : (s.answer a).dir = s.dir := rfl
@[simp] theorem answer_line (s : State) (a : Answer) : (s.answer a).line = s.line := rfl
@[simp] theorem answer_pointer (s : State) (a : Answer) : (s.answer a).pointer = s.pointer := rfl
@[simp] theorem answer_sweep (s : State) (a : Answer) : (s.answer a).sweep = s.sweep := rfl
@[simp] theorem answer_chanA (s : State) (a : Answer) : (s.answer a).chanA = s.chanA := rfl
@[simp] theorem answer_chanB (s : State) (a : Answer) : (s.answer a).chanB = s.chanB := rfl
@[simp] theorem answer_portLast (s : State) (a : Answer) : (s.answer a).portLast = s.portLast := rfl
@[simp] theorem answer_window (s : State) (a : Answer) : (s.answer a).window = s.window := rfl
@[simp] theorem answer_events (s : State) (a : Answer) : (s.answer a).events = s.events := rfl
@[simp] theorem answer_irq (s : State) (a : Answer) : (s.answer a).irq = s.irq := rfl
@[simp] theorem answer_regs (s : State) (a : Answer) : (s.answer a).regs = s.regs := rfl
@[simp] theorem answer_views (s : State) (a : Answer) : (s.answer a).views = s.views := rfl
@[simp] theorem answer_freeCount (s : State) (a : Answer) : (s.answer a).freeCount = s.freeCount := rfl
@[simp] theorem answer_pending (s : State) (a : Answer) : (s.answer a).pending = s.pending := rfl

@[simp] theorem command_table (s : State) (v : CmdVerdict) (k : Nat) (f : CmdFields) : (s.command v k f).table = s.table := rfl
@[simp] theorem command_store (s : State) (v : CmdVerdict) (k : Nat) (f : CmdFields) : (s.command v k f).store = s.store := rfl
@[simp] theorem command_dir (s : State) (v : CmdVerdict) (k : Nat) (f : CmdFields) : (s.command v k f).dir = s.dir := rfl
@[simp] theorem command_line (s : State) (v : CmdVerdict) (k : Nat) (f : CmdFields) : (s.command v k f).line = s.line := rfl
@[simp] theorem command_pointer (s : State) (v : CmdVerdict) (k : Nat) (f : CmdFields) : (s.command v k f).pointer = s.pointer := rfl
@[simp] theorem command_sweep (s : State) (v : CmdVerdict) (k : Nat) (f : CmdFields) : (s.command v k f).sweep = s.sweep := rfl
@[simp] theorem command_chanA (s : State) (v : CmdVerdict) (k : Nat) (f : CmdFields) : (s.command v k f).chanA = s.chanA := rfl
@[simp] theorem command_chanB (s : State) (v : CmdVerdict) (k : Nat) (f : CmdFields) : (s.command v k f).chanB = s.chanB := rfl
@[simp] theorem command_portLast (s : State) (v : CmdVerdict) (k : Nat) (f : CmdFields) : (s.command v k f).portLast = s.portLast := rfl
@[simp] theorem command_window (s : State) (v : CmdVerdict) (k : Nat) (f : CmdFields) : (s.command v k f).window = s.window := rfl
@[simp] theorem command_events (s : State) (v : CmdVerdict) (k : Nat) (f : CmdFields) : (s.command v k f).events = s.events := rfl
@[simp] theorem command_irq (s : State) (v : CmdVerdict) (k : Nat) (f : CmdFields) : (s.command v k f).irq = s.irq := rfl
@[simp] theorem command_views (s : State) (v : CmdVerdict) (k : Nat) (f : CmdFields) : (s.command v k f).views = s.views := rfl
@[simp] theorem command_freeCount (s : State) (v : CmdVerdict) (k : Nat) (f : CmdFields) : (s.command v k f).freeCount = s.freeCount := rfl
@[simp] theorem command_pending (s : State) (v : CmdVerdict) (k : Nat) (f : CmdFields) : (s.command v k f).pending = s.pending := rfl

@[simp] theorem enterGuard_table (s : State)  : (s.enterGuard).table = s.table := rfl
@[simp] theorem enterGuard_store (s : State)  : (s.enterGuard).store = s.store := rfl
@[simp] theorem enterGuard_dir (s : State)  : (s.enterGuard).dir = s.dir := rfl
@[simp] theorem enterGuard_pointer (s : State)  : (s.enterGuard).pointer = s.pointer := rfl
@[simp] theorem enterGuard_sweep (s : State)  : (s.enterGuard).sweep = s.sweep := rfl
@[simp] theorem enterGuard_chanA (s : State)  : (s.enterGuard).chanA = s.chanA := rfl
@[simp] theorem enterGuard_chanB (s : State)  : (s.enterGuard).chanB = s.chanB := rfl
@[simp] theorem enterGuard_portLast (s : State)  : (s.enterGuard).portLast = s.portLast := rfl
@[simp] theorem enterGuard_window (s : State)  : (s.enterGuard).window = s.window := rfl
@[simp] theorem enterGuard_events (s : State)  : (s.enterGuard).events = s.events := rfl
@[simp] theorem enterGuard_irq (s : State)  : (s.enterGuard).irq = s.irq := rfl
@[simp] theorem enterGuard_regs (s : State)  : (s.enterGuard).regs = s.regs := rfl
@[simp] theorem enterGuard_views (s : State)  : (s.enterGuard).views = s.views := rfl
@[simp] theorem enterGuard_bus (s : State)  : (s.enterGuard).bus = s.bus := rfl
@[simp] theorem enterGuard_freeCount (s : State)  : (s.enterGuard).freeCount = s.freeCount := rfl
@[simp] theorem enterGuard_pending (s : State)  : (s.enterGuard).pending = s.pending := rfl

@[simp] theorem enterBreak_table (s : State) (k : BreakKind) (b : BreakCause) : (s.enterBreak k b).table = s.table := rfl
@[simp] theorem enterBreak_store (s : State) (k : BreakKind) (b : BreakCause) : (s.enterBreak k b).store = s.store := rfl
@[simp] theorem enterBreak_dir (s : State) (k : BreakKind) (b : BreakCause) : (s.enterBreak k b).dir = s.dir := rfl
@[simp] theorem enterBreak_pointer (s : State) (k : BreakKind) (b : BreakCause) : (s.enterBreak k b).pointer = s.pointer := rfl
@[simp] theorem enterBreak_sweep (s : State) (k : BreakKind) (b : BreakCause) : (s.enterBreak k b).sweep = s.sweep := rfl
@[simp] theorem enterBreak_chanA (s : State) (k : BreakKind) (b : BreakCause) : (s.enterBreak k b).chanA = s.chanA := rfl
@[simp] theorem enterBreak_chanB (s : State) (k : BreakKind) (b : BreakCause) : (s.enterBreak k b).chanB = s.chanB := rfl
@[simp] theorem enterBreak_portLast (s : State) (k : BreakKind) (b : BreakCause) : (s.enterBreak k b).portLast = s.portLast := rfl
@[simp] theorem enterBreak_window (s : State) (k : BreakKind) (b : BreakCause) : (s.enterBreak k b).window = s.window := rfl
@[simp] theorem enterBreak_events (s : State) (k : BreakKind) (b : BreakCause) : (s.enterBreak k b).events = s.events := rfl
@[simp] theorem enterBreak_irq (s : State) (k : BreakKind) (b : BreakCause) : (s.enterBreak k b).irq = s.irq := rfl
@[simp] theorem enterBreak_regs (s : State) (k : BreakKind) (b : BreakCause) : (s.enterBreak k b).regs = s.regs := rfl
@[simp] theorem enterBreak_views (s : State) (k : BreakKind) (b : BreakCause) : (s.enterBreak k b).views = s.views := rfl
@[simp] theorem enterBreak_bus (s : State) (k : BreakKind) (b : BreakCause) : (s.enterBreak k b).bus = s.bus := rfl
@[simp] theorem enterBreak_freeCount (s : State) (k : BreakKind) (b : BreakCause) : (s.enterBreak k b).freeCount = s.freeCount := rfl
@[simp] theorem enterBreak_pending (s : State) (k : BreakKind) (b : BreakCause) : (s.enterBreak k b).pending = s.pending := rfl

@[simp] theorem noteFault_table (s : State) (k : FaultKind) (d : Dest) (t : Tag) : (s.noteFault k d t).table = s.table := rfl
@[simp] theorem noteFault_store (s : State) (k : FaultKind) (d : Dest) (t : Tag) : (s.noteFault k d t).store = s.store := rfl
@[simp] theorem noteFault_dir (s : State) (k : FaultKind) (d : Dest) (t : Tag) : (s.noteFault k d t).dir = s.dir := rfl
@[simp] theorem noteFault_pointer (s : State) (k : FaultKind) (d : Dest) (t : Tag) : (s.noteFault k d t).pointer = s.pointer := rfl
@[simp] theorem noteFault_sweep (s : State) (k : FaultKind) (d : Dest) (t : Tag) : (s.noteFault k d t).sweep = s.sweep := rfl
@[simp] theorem noteFault_chanA (s : State) (k : FaultKind) (d : Dest) (t : Tag) : (s.noteFault k d t).chanA = s.chanA := rfl
@[simp] theorem noteFault_chanB (s : State) (k : FaultKind) (d : Dest) (t : Tag) : (s.noteFault k d t).chanB = s.chanB := rfl
@[simp] theorem noteFault_portLast (s : State) (k : FaultKind) (d : Dest) (t : Tag) : (s.noteFault k d t).portLast = s.portLast := rfl
@[simp] theorem noteFault_window (s : State) (k : FaultKind) (d : Dest) (t : Tag) : (s.noteFault k d t).window = s.window := rfl
@[simp] theorem noteFault_events (s : State) (k : FaultKind) (d : Dest) (t : Tag) : (s.noteFault k d t).events = s.events := rfl
@[simp] theorem noteFault_irq (s : State) (k : FaultKind) (d : Dest) (t : Tag) : (s.noteFault k d t).irq = s.irq := rfl
@[simp] theorem noteFault_regs (s : State) (k : FaultKind) (d : Dest) (t : Tag) : (s.noteFault k d t).regs = s.regs := rfl
@[simp] theorem noteFault_views (s : State) (k : FaultKind) (d : Dest) (t : Tag) : (s.noteFault k d t).views = s.views := rfl
@[simp] theorem noteFault_bus (s : State) (k : FaultKind) (d : Dest) (t : Tag) : (s.noteFault k d t).bus = s.bus := rfl
@[simp] theorem noteFault_freeCount (s : State) (k : FaultKind) (d : Dest) (t : Tag) : (s.noteFault k d t).freeCount = s.freeCount := rfl
@[simp] theorem noteFault_pending (s : State) (k : FaultKind) (d : Dest) (t : Tag) : (s.noteFault k d t).pending = s.pending := rfl

end Sys2Proof.Machine.State
end

