-- ==== Sys2Proof/Laws/Frames.lean ====
section
/-! SUPPORT. What the shared operations leave alone: the directory operations change the directory only, and no
completion, cancellation, halt or directory move touches the outer blocks of the state. -/

namespace Sys2Proof.Machine

/-- The blocks that completions, cancellations and the directory's own moves never touch. -/
structure Outer where
  store : List Host.Cell
  line : Line
  pointer : Requester
  sweep : Sweep
  portLast : Chan
  events : Events
  enable : Word
  regs : Regs
  views : Views
  bus : Bus
  freeCount : Nat
  pending : List Instr
  rediscovery : Option Nat

/-- The outer blocks of a state. -/
def State.outer (s : State) : Outer where
  store := s.store
  line := s.line
  pointer := s.pointer
  sweep := s.sweep
  portLast := s.portLast
  events := s.events
  enable := s.irq.enable
  regs := s.regs
  views := s.views
  bus := s.bus
  freeCount := s.freeCount
  pending := s.pending
  rediscovery := s.dir.rediscovery

/-! ## The plain updates -/

@[simp] theorem setXchg_outer (s : State) (t : Tag) (x : Option Exchange) : (s.setXchg t x).outer = s.outer := rfl
@[simp] theorem mapX_outer (s : State) (f : Tag → Exchange → Exchange) : (s.mapX f).outer = s.outer := rfl
@[simp] theorem withdraw_outer (s : State) (c : Chan) : (s.withdraw c).outer = s.outer := rfl
@[simp] theorem setEntry_outer (s : State) (n : Stn) (e : Entry) : (s.setEntry n e).outer = s.outer := rfl
@[simp] theorem modEntry_outer (s : State) (n : Stn) (f : Entry → Entry) : (s.modEntry n f).outer = s.outer := rfl
@[simp] theorem mapEntries_outer (s : State) (f : Stn → Entry → Entry) : (s.mapEntries f).outer = s.outer := rfl
@[simp] theorem noteChange_outer (s : State) (n : Stn) : (s.noteChange n).outer = s.outer := rfl
@[simp] theorem moveTo_outer (s : State) (n : Stn) (st : StnState) : (s.moveTo n st).outer = s.outer := rfl
@[simp] theorem dropRecovery_outer (s : State) (n : Stn) : (s.dropRecovery n).outer = s.outer := rfl
@[simp] theorem recount_outer (s : State) : s.recount.outer = s.outer := rfl
@[simp] theorem setChan_outer (s : State) (c : Chan) (ch : Channel) : (s.setChan c ch).outer = s.outer := by cases c <;> rfl
@[simp] theorem modChan_outer (s : State) (c : Chan) (f : Channel → Channel) : (s.modChan c f).outer = s.outer := by
  cases c <;> rfl
@[simp] theorem raise_outer (s : State) (k : Word) : (s.raise k).outer = s.outer := rfl

/-! ## Operations of the directory -/

/-- `t` differs from `s` in the directory alone. -/
def OnlyDir (s t : State) : Prop := t = { s with dir := t.dir }

theorem OnlyDir.refl (s : State) : OnlyDir s s := rfl

theorem OnlyDir.trans {s t u : State} (h : OnlyDir s t) (k : OnlyDir t u) : OnlyDir s u := by
  unfold OnlyDir at *; rw [k, h]

theorem OnlyDir.foldl {α : Type} {f : State → α → State} (h : ∀ s a, OnlyDir s (f s a)) (l : List α) (s : State) :
    OnlyDir s (l.foldl f s) := by
  induction l generalizing s with
  | nil => exact OnlyDir.refl s
  | cons a l ih => exact (h s a).trans (ih _)

theorem OnlyDir.table {s t : State} (h : OnlyDir s t) : t.table = s.table := by rw [h]

theorem OnlyDir.chan {s t : State} (h : OnlyDir s t) (c : Chan) : t.chan c = s.chan c := by rw [h]; cases c <;> rfl

theorem OnlyDir.window {s t : State} (h : OnlyDir s t) : t.window = s.window := by rw [h]

theorem OnlyDir.irq {s t : State} (h : OnlyDir s t) : t.irq = s.irq := by rw [h]

theorem onlyDir_modEntry (s : State) (n : Stn) (f : Entry → Entry) : OnlyDir s (s.modEntry n f) := rfl

theorem onlyDir_mapEntries (s : State) (f : Stn → Entry → Entry) : OnlyDir s (s.mapEntries f) := rfl

theorem onlyDir_noteChange (s : State) (n : Stn) : OnlyDir s (s.noteChange n) := rfl

theorem onlyDir_moveTo (s : State) (n : Stn) (st : StnState) : OnlyDir s (s.moveTo n st) := rfl

theorem onlyDir_dropRecovery (s : State) (n : Stn) : OnlyDir s (s.dropRecovery n) := rfl

theorem onlyDir_recount (s : State) : OnlyDir s s.recount := rfl

theorem onlyDir_joinCensus (s : State) (n : Stn) : OnlyDir s (s.joinCensus n) := by
  unfold State.joinCensus; split <;> rfl

theorem onlyDir_joinCensusAll (s : State) (ns : List Stn) : OnlyDir s (s.joinCensusAll ns) :=
  OnlyDir.foldl onlyDir_joinCensus ns s

theorem onlyDir_censusToHead (s : State) (n : Stn) : OnlyDir s (s.censusToHead n) := by
  unfold State.censusToHead; split <;> rfl

theorem onlyDir_placePurge (s : State) (n : Stn) : OnlyDir s (s.placePurge n) := by
  unfold State.placePurge; split <;> rfl

theorem onlyDir_placeReset (s : State) (n : Stn) : OnlyDir s (s.placeReset n) := by
  unfold State.placeReset; split <;> rfl

theorem onlyDir_setPurge (s : State) (n : Stn) : OnlyDir s (s.setPurge n) := by
  unfold State.setPurge
  split
  · rfl
  · split <;> first | exact (onlyDir_modEntry s n _).trans (onlyDir_placePurge _ n) | rfl

theorem onlyDir_noteUnknown (s : State) (n : Stn) : OnlyDir s (s.noteUnknown n) :=
  (onlyDir_modEntry s n _).trans (onlyDir_joinCensus _ n)

/-- A directory operation that keeps the rediscovery timer keeps the outer blocks. -/
theorem OnlyDir.outer {s t : State} (h : OnlyDir s t) (k : t.dir.rediscovery = s.dir.rediscovery) : t.outer = s.outer := by
  have e : t.outer = { s.outer with rediscovery := t.dir.rediscovery } := by rw [h]; rfl
  rw [e, k]; rfl

@[simp] theorem joinCensus_outer (s : State) (n : Stn) : (s.joinCensus n).outer = s.outer := by
  unfold State.joinCensus; split <;> rfl

theorem foldl_outer {α : Type} {f : State → α → State} (h : ∀ s a, (f s a).outer = s.outer) (l : List α) (s : State) :
    (l.foldl f s).outer = s.outer := by
  induction l generalizing s with
  | nil => rfl
  | cons a l ih => exact (ih _).trans (h s a)

@[simp] theorem joinCensusAll_outer (s : State) (ns : List Stn) : (s.joinCensusAll ns).outer = s.outer :=
  foldl_outer joinCensus_outer ns s

@[simp] theorem censusToHead_outer (s : State) (n : Stn) : (s.censusToHead n).outer = s.outer := by
  unfold State.censusToHead; split <;> rfl

@[simp] theorem placePurge_outer (s : State) (n : Stn) : (s.placePurge n).outer = s.outer := by
  unfold State.placePurge; split <;> rfl

@[simp] theorem placeReset_outer (s : State) (n : Stn) : (s.placeReset n).outer = s.outer := by
  unfold State.placeReset; split <;> rfl

@[simp] theorem setPurge_outer (s : State) (n : Stn) : (s.setPurge n).outer = s.outer := by
  unfold State.setPurge
  split
  · rfl
  · split <;> simp

@[simp] theorem noteUnknown_outer (s : State) (n : Stn) : (s.noteUnknown n).outer = s.outer := by
  simp [State.noteUnknown]

/-! ## Creation and retirement -/

theorem create_outer {s t : State} {r : Request} {tag : Tag} (h : s.create r = some (tag, t)) : t.outer = s.outer := by
  unfold State.create at h
  split at h
  · split at h
    · simp at h
    · dsimp only at h
      split at h
      · simp only [Option.some.injEq, Prod.mk.injEq] at h
        rw [← h.2]; rfl
      · simp at h
  · simp at h

@[simp] theorem free_outer (s : State) (t : Tag) : (s.free t).outer = s.outer := by
  unfold State.free
  split
  · rfl
  · dsimp only; split <;> rfl

/-! ## Completions -/

@[simp] theorem enterWindowFault_outer (s : State) (f : WinFault) : (s.enterWindowFault f).outer = s.outer := by
  unfold State.enterWindowFault; split <;> rfl

@[simp] theorem windowTake_outer (s : State) (t : Tag) (x : Exchange) (n : Stn) (r : Result) :
    (s.windowTake t x n r).outer = s.outer := by
  unfold State.windowTake
  dsimp only
  split
  · split
    · rw [enterWindowFault_outer]; rfl
    · rfl
  · split <;> simp
  all_goals rfl

@[simp] theorem windowTakeTag_outer (s : State) (t : Tag) : (s.windowTakeTag t).outer = s.outer := by
  unfold State.windowTakeTag
  split
  · rfl
  · split <;> simp

@[simp] theorem completeBatch_outer (s : State) (sel : Sel) : (s.completeBatch sel).outer = s.outer := rfl

@[simp] theorem complete_outer (s : State) (sel : Sel) : (s.complete sel).outer = s.outer := by
  unfold State.complete
  rw [foldl_outer noteUnknown_outer, completeBatch_outer]

@[simp] theorem handOver_outer (s before : State) : (s.handOver before).outer = s.outer := by
  have h := foldl_outer windowTakeTag_outer (s.table.winList.filter (s.newlyDone before)) s
  unfold State.handOver
  exact h

@[simp] theorem endStep_outer (s before : State) : (s.endStep before).outer = s.outer := by
  simp [State.endStep]

@[simp] theorem endStep_store (s before : State) : (s.endStep before).store = s.store :=
  congrArg Outer.store (endStep_outer s before)

@[simp] theorem endStep_events (s before : State) : (s.endStep before).events = s.events :=
  congrArg Outer.events (endStep_outer s before)

/-! ## Channels -/

@[simp] theorem leaveRunning_outer (s : State) (c : Chan) : (s.leaveRunning c).outer = s.outer := by
  simp [State.leaveRunning]

@[simp] theorem cancelIssue_outer (s : State) (c : Chan) : (s.cancelIssue c).outer = s.outer := by
  unfold State.cancelIssue
  dsimp only
  rw [mapX_outer, foldl_outer setPurge_outer, complete_outer]

@[simp] theorem settleCancel_outer (s : State) (c : Chan) : (s.settleCancel c).outer = s.outer := by
  unfold State.settleCancel; split <;> simp

@[simp] theorem haltIfDone_outer (s : State) (c : Chan) : (s.haltIfDone c).outer = s.outer := by
  unfold State.haltIfDone; split <;> simp

@[simp] theorem endAbortIfDone_outer (s : State) (c : Chan) : (s.endAbortIfDone c).outer = s.outer := by
  unfold State.endAbortIfDone; split <;> simp

@[simp] theorem enterStopping_outer (s : State) (c : Chan) (k : HaltCause) : (s.enterStopping c k).outer = s.outer := by
  simp [State.enterStopping]

@[simp] theorem stopOnFailure_outer (s : State) (c : Chan) : (s.stopOnFailure c).outer = s.outer := by
  unfold State.stopOnFailure; split <;> simp

@[simp] theorem stopOnFailures_outer (s : State) : s.stopOnFailures.outer = s.outer := by
  simp [State.stopOnFailures]

@[simp] theorem declareSilent_outer (s : State) (n : Stn) : (s.declareSilent n).outer = s.outer := by
  simp [State.declareSilent]

@[simp] theorem memFaultStops_outer (s : State) (c : Chan) : (s.memFaultStops c).outer = s.outer := by
  unfold State.memFaultStops; split <;> simp

@[simp] theorem takeIn_outer (s : State) (c : Chan) (d : Desc) (r : QRec) : (s.takeIn c d r).outer = s.outer := by
  simp [State.takeIn]

@[simp] theorem retire_outer (s : State) (c : Chan) : (s.retire c).outer = s.outer := by
  unfold State.retire; dsimp only; split <;> simp

@[simp] theorem createFor_outer (s : State) (c : Chan) (d : Desc) (k : Kind) : (s.createFor c d k).outer = s.outer := by
  unfold State.createFor
  split
  · rename_i h; simp [create_outer h]
  · simp

@[simp] theorem grant_outer (s : State) (c : Chan) (d : Desc) : (s.grant c d).outer = s.outer := by
  unfold State.grant
  split
  · rfl
  · split <;> simp

/-! ## Outcomes -/

@[simp] theorem applyMove_outer (s : State) (t : Tag) (m : Move × Exchange) : (s.applyMove t m).outer = s.outer := by
  unfold State.applyMove; split <;> simp

@[simp] theorem takeRestart_outer (s : State) (n : Stn) (own : Tag) (x : Exchange) (v : Verdict) :
    (s.takeRestart n own x v).outer = s.outer := by
  unfold State.takeRestart; split <;> simp

@[simp] theorem comesIn_outer (s : State) (n : Stn) (ep : BitVec 4) (i : Identity) :
    (s.comesIn n ep i).outer = s.outer := by
  unfold State.comesIn; dsimp only
  split
  · simp
  · split <;> simp
  all_goals simp

@[simp] theorem checkIdent_outer (s : State) (n : Stn) (b : Bool) (i : Identity) :
    (s.checkIdent n b i).outer = s.outer := by
  unfold State.checkIdent; dsimp only
  split
  · simp
  · split <;> simp

@[simp] theorem takeIdent_outer (s : State) (n : Stn) (b : Bool) (ep : BitVec 4) (i : Identity) :
    (s.takeIdent n b ep i).outer = s.outer := by
  unfold State.takeIdent; split <;> simp

@[simp] theorem censusFailed_outer (s : State) (n : Stn) (st : CensusStatus) : (s.censusFailed n st).outer = s.outer := by
  unfold State.censusFailed; dsimp only
  split <;> simp

@[simp] theorem stationResetAccepted_outer (s : State) (n : Stn) (own : Tag) :
    (s.stationResetAccepted n own).outer = s.outer := by
  simp [State.stationResetAccepted]

@[simp] theorem purgeAccepted_outer (s : State) (n : Stn) : (s.purgeAccepted n).outer = s.outer := by
  unfold State.purgeAccepted; dsimp only; split <;> simp

/-- A fetched event changes the event queue, and nothing else of the outer blocks. -/
theorem eventFetched_outer (s : State) (n : Stn) (r : Reply) :
    (s.eventFetched n r).outer = { s.outer with events := (s.eventFetched n r).events } := by
  unfold State.eventFetched; dsimp only; split <;> rfl

theorem ownerActs_outer (s : State) (n : Stn) (own : Tag) (x : Exchange) (b : Bool) (m : Move) (v : Verdict) :
    (s.ownerActs n own x b m v).outer = { s.outer with events := (s.ownerActs n own x b m v).events } := by
  have same : ∀ u : State, u.outer = s.outer → u.outer = { s.outer with events := u.events } := by
    intro u h
    have he : u.events = s.events := congrArg Outer.events h
    rw [h, he]; rfl
  unfold State.ownerActs
  split
  · rfl
  · split
    · exact same _ (by simp)
    · exact same _ (by simp)
    · exact same _ (by simp)
    · exact same _ (by simp)
    · split
      · exact eventFetched_outer _ _ _
      · rfl
    · rfl

@[simp] theorem countOutcome_outer (s : State) (n : Stn) (v : Verdict) : (s.countOutcome n v).outer = s.outer := by
  unfold State.countOutcome; dsimp only
  split
  · split <;> simp
  · split
    · split <;> simp
    · rfl

@[simp] theorem setSeqBit_outer (s : State) (n : Stn) (x : Exchange) (b : Bool) (v : Verdict) :
    (s.setSeqBit n x b v).outer = s.outer := by
  unfold State.setSeqBit; split <;> simp

@[simp] theorem readySign_outer (s : State) (n : Stn) (own : Option Tag) : (s.readySign n own).outer = s.outer := by
  unfold State.readySign; split <;> simp

@[simp] theorem eventSign_outer (s : State) (n : Stn) : (s.eventSign n).outer = s.outer := by
  unfold State.eventSign; split <;> simp

@[simp] theorem takeAttention_outer (s : State) (n : Stn) (own : Tag) (v : Verdict) :
    (s.takeAttention n own v).outer = s.outer := by
  unfold State.takeAttention; split
  · rfl
  · dsimp only; split <;> split <;> simp

@[simp] theorem censusDone_outer (s : State) (x : Exchange) (m : Move) : (s.censusDone x m).outer = s.outer := by
  unfold State.censusDone; split
  · split <;> simp
  · rfl

/-- The directory's steps on an outcome change the event queue, and nothing else of the outer blocks. -/
theorem directoryActs_outer (s : State) (n : Stn) (own : Tag) (x : Exchange) (m : Move) (v : Verdict) :
    (s.directoryActs n own x m v).outer = { s.outer with events := (s.directoryActs n own x m v).events } := by
  have key : ∀ (r : State) (b : Bool), (s.takeRestart n own x v).ownerActs n own x b m v = r → ∀ u : State,
      u.outer = r.outer → u.outer = { s.outer with events := u.events } := by
    intro r b hr u hu
    have h := ownerActs_outer (s.takeRestart n own x v) n own x b m v
    rw [hr] at h
    have he : u.events = r.events := congrArg Outer.events hu
    rw [hu, h, takeRestart_outer, he]
  unfold State.directoryActs
  dsimp only
  refine key _ (s.showsRestart n v) rfl _ ?_
  split <;> split <;> simp

/-- An outcome changes the store and the event queue, and nothing else of the outer blocks. -/
theorem applyVerdict_outer (s : State) (t : Tag) (v : Verdict) :
    (s.applyVerdict t v).outer =
      { s.outer with store := (s.applyVerdict t v).store, events := (s.applyVerdict t v).events } := by
  unfold State.applyVerdict
  split
  · rfl
  · rename_i x _
    split
    · dsimp only
      have h0 : ((s.keepPayload x v).applyMove t (s.moveOf x v)).outer
          = { s.outer with store := (s.keepPayload x v).store } := by
        rw [applyMove_outer]; unfold State.keepPayload; split <;> rfl
      split
      · rename_i n _
        have h1 := directoryActs_outer ((s.keepPayload x v).applyMove t (s.moveOf x v)) n t x (s.moveOf x v).1 v
        have h2 : ((((s.keepPayload x v).applyMove t (s.moveOf x v)).directoryActs n t x (s.moveOf x v).1 v)).store
            = (s.keepPayload x v).store := by
          have := congrArg Outer.store h1
          rw [h0] at this
          exact this
        rw [endStep_outer, h1, h0]
        simp only [endStep_store, endStep_events, h2]
      · have h2 := congrArg Outer.store h0
        have h3 := congrArg Outer.events h0
        rw [endStep_outer, h0]
        simp only [endStep_store, endStep_events]
        have h2' : ((s.keepPayload x v).applyMove t (s.moveOf x v)).store = (s.keepPayload x v).store := h2
        have h3' : ((s.keepPayload x v).applyMove t (s.moveOf x v)).events = s.events := h3
        rw [h2', h3']; rfl
    · rfl

/-- The store after an outcome: unchanged, or with the bytes of a reply in units of it. -/
theorem applyVerdict_store (s : State) (t : Tag) (v : Verdict) :
    (s.applyVerdict t v).store = s.store ∨ ∃ us bs, (s.applyVerdict t v).store = writeUnits us 0 bs s.store := by
  unfold State.applyVerdict
  split
  · exact Or.inl rfl
  · rename_i x _
    split
    · dsimp only
      have h0 : ((s.keepPayload x v).applyMove t (s.moveOf x v)).store = (s.keepPayload x v).store :=
        congrArg Outer.store (applyMove_outer _ _ _)
      have h1 : (s.keepPayload x v).store = s.store ∨ ∃ us bs, (s.keepPayload x v).store = writeUnits us 0 bs s.store := by
        unfold State.keepPayload
        split
        · exact Or.inr ⟨_, _, rfl⟩
        all_goals exact Or.inl rfl
      split
      · rename_i n _
        have h2 : (((s.keepPayload x v).applyMove t (s.moveOf x v)).directoryActs n t x (s.moveOf x v).1 v).store
            = ((s.keepPayload x v).applyMove t (s.moveOf x v)).store :=
          congrArg Outer.store (directoryActs_outer _ n t x (s.moveOf x v).1 v)
        rw [endStep_store, h2, h0]; exact h1
      · rw [endStep_store, h0]; exact h1
    · exact Or.inl rfl

end Sys2Proof.Machine
end

