-- ==== Sys2Proof/Laws/Table.lean ====
section
/-! SUPPORT. The Exchange Table: what each shared operation leaves in a record. -/

namespace Sys2Proof.Machine

/-! ## Records -/

theorem xchg_of_table {s t : State} (h : t.table = s.table) (tag : Tag) : t.xchg tag = s.xchg tag := by
  simp [State.xchg, h]

@[simp] theorem xchg_setXchg (s : State) (t t' : Tag) (x : Option Exchange) :
    (s.setXchg t x).xchg t' = if t' = t then x else s.xchg t' := by
  simp only [State.xchg, State.setXchg, Fin.getElem_fin, Vector.getElem_set]
  by_cases h : t' = t
  · subst h; simp
  · have : ¬ (t : Nat) = (t' : Nat) := fun e => h (Fin.ext e.symm)
    simp [h, this]

theorem getElem_mapXs (f : Tag → Exchange → Option Exchange) (xs : Vector (Option Exchange) 32) (t : Tag) :
    (mapXs f xs)[t] = xs[t].bind (f t) := by
  simp [mapXs]

@[simp] theorem xchg_mapX (s : State) (f : Tag → Exchange → Exchange) (t : Tag) :
    (s.mapX f).xchg t = (s.xchg t).map (f t) := by
  simp only [State.xchg, State.mapX, getElem_mapXs]
  cases s.table.xs[t] <;> rfl

@[simp] theorem xchg_withdraw (s : State) (c : Chan) (t : Tag) : (s.withdraw c).xchg t = s.xchg t := rfl

@[simp] theorem xchg_raise (s : State) (k : Word) (t : Tag) : (s.raise k).xchg t = s.xchg t := rfl

@[simp] theorem xchg_modChan (s : State) (c : Chan) (f : Channel → Channel) (t : Tag) :
    (s.modChan c f).xchg t = s.xchg t := xchg_of_table (by simp) t

@[simp] theorem xchg_setChan (s : State) (c : Chan) (ch : Channel) (t : Tag) :
    (s.setChan c ch).xchg t = s.xchg t := xchg_of_table (by simp) t

@[simp] theorem xchg_setEntry (s : State) (n : Stn) (e : Entry) (t : Tag) : (s.setEntry n e).xchg t = s.xchg t := rfl

@[simp] theorem xchg_modEntry (s : State) (n : Stn) (f : Entry → Entry) (t : Tag) :
    (s.modEntry n f).xchg t = s.xchg t := rfl

@[simp] theorem xchg_moveTo (s : State) (n : Stn) (st : StnState) (t : Tag) : (s.moveTo n st).xchg t = s.xchg t := rfl

@[simp] theorem xchg_noteChange (s : State) (n : Stn) (t : Tag) : (s.noteChange n).xchg t = s.xchg t := rfl

@[simp] theorem xchg_dropRecovery (s : State) (n : Stn) (t : Tag) : (s.dropRecovery n).xchg t = s.xchg t := rfl

@[simp] theorem xchg_recount (s : State) (t : Tag) : s.recount.xchg t = s.xchg t := rfl

theorem OnlyDir.xchg {s t : State} (h : OnlyDir s t) (tag : Tag) : t.xchg tag = s.xchg tag := xchg_of_table h.table tag

theorem windowTake_table (s : State) (t : Tag) (x : Exchange) (n : Stn) (r : Result) :
    (s.windowTake t x n r).table = s.table := by
  have he : ∀ (u : State) (f : WinFault), (u.enterWindowFault f).table = u.table := by
    intro u f; unfold State.enterWindowFault; split <;> rfl
  unfold State.windowTake
  dsimp only
  split
  · split
    · rw [he]
    · rfl
  · split
    · rfl
    · rw [he]
  all_goals rfl

theorem windowTakeTag_table (s : State) (t : Tag) : (s.windowTakeTag t).table = s.table := by
  unfold State.windowTakeTag
  split
  · rfl
  · split <;> first | exact windowTake_table _ _ _ _ _ | rfl

theorem foldl_table {α : Type} {f : State → α → State} (h : ∀ s a, (f s a).table = s.table) (l : List α) (s : State) :
    (l.foldl f s).table = s.table := by
  induction l generalizing s with
  | nil => rfl
  | cons a l ih => exact (ih _).trans (h s a)

/-- A batch of completions changes the records alone in the table. -/
theorem completeBatch_table (s : State) (sel : Sel) : (s.completeBatch sel).table = (s.mapX (afterSel sel)).table := rfl

theorem complete_table (s : State) (sel : Sel) : (s.complete sel).table = (s.completeBatch sel).table := by
  unfold State.complete
  exact foldl_table (fun u n => (onlyDir_noteUnknown u n).table) _ _

/-- A record after a batch of completions: untouched, or COMPLETE. -/
@[simp] theorem xchg_completeBatch (s : State) (sel : Sel) (t : Tag) :
    (s.completeBatch sel).xchg t = (s.xchg t).map (afterSel sel t) :=
  xchg_mapX s (afterSel sel) t

@[simp] theorem xchg_complete (s : State) (sel : Sel) (t : Tag) :
    (s.complete sel).xchg t = (s.xchg t).map (afterSel sel t) := by
  rw [← xchg_completeBatch]; exact xchg_of_table (complete_table s sel) t

/-- The table after the owners have taken the completions of a step. -/
theorem handOver_table (s before : State) :
    (s.handOver before).table =
      { s.table with
        xs := mapXs (fun t x => if s.retiresNow before t then none else some x) s.table.xs
        winList := s.table.winList.filter fun t => !s.retiresNow before t
        intList := s.table.intList.filter fun t => !s.retiresNow before t
        complA := s.table.complA ++ s.table.listAList.filter (s.newlyDone before)
        complB := s.table.complB ++ s.table.listBList.filter (s.newlyDone before) } := by
  have h := foldl_table windowTakeTag_table (s.table.winList.filter (s.newlyDone before)) s
  unfold State.handOver
  dsimp only
  rw [h]

/-- A record after the owners have taken the completions of a step: FREE where R22 retires it at once, else untouched. -/
@[simp] theorem xchg_handOver (s before : State) (t : Tag) :
    (s.handOver before).xchg t = if s.retiresNow before t then none else s.xchg t := by
  simp only [State.xchg, handOver_table, getElem_mapXs]
  cases s.table.xs[t] <;> simp

@[simp] theorem xchg_endStep (s before : State) (t : Tag) :
    (s.endStep before).xchg t = if s.retiresNow before t then none else s.xchg t :=
  (xchg_recount _ t).trans (xchg_handOver s before t)

/-- A record after a retirement: FREE if it is the one, untouched otherwise. -/
@[simp] theorem xchg_free (s : State) (t t' : Tag) : (s.free t).xchg t' = if t' = t then none else s.xchg t' := by
  have key : ∀ (o : Owner) (l : List Tag) (tb : Table), (tb.setCreation o l).xs = tb.xs := by
    intro o l tb; cases o with
    | list c => cases c <;> rfl
    | window => rfl
    | internal => rfl
  have key2 : ∀ (c : Chan) (l : List Tag) (tb : Table), (tb.setCompl c l).xs = tb.xs := by
    intro c l tb; cases c <;> rfl
  unfold State.free
  split
  · rename_i h
    by_cases e : t' = t
    · subst e; simp [h]
    · simp [e]
  · dsimp only
    split <;> rw [← xchg_setXchg s t t' none] <;> simp [State.xchg, key, key2]

/-! ## Moves of the table -/

/-- What every move keeps of an exchange: what it asks for; it does not go ON_LINE; and a finished one stays finished,
with its result (R7). -/
structure XStep (x y : Exchange) : Prop where
  owner : y.owner = x.owner
  kind : y.kind = x.kind
  dest : y.dest = x.dest
  regAddr : y.regAddr = x.regAddr
  length : y.length = x.length
  signalOp : y.signalOp = x.signalOp
  units : y.units = x.units
  fence : y.fence = x.fence
  onLine : y.state = .onLine → x.state = .onLine
  done : x.live = false → y.live = false ∧ y.result = x.result

theorem XStep.refl (x : Exchange) : XStep x x :=
  ⟨rfl, rfl, rfl, rfl, rfl, rfl, rfl, rfl, id, fun h => ⟨h, rfl⟩⟩

theorem XStep.trans {x y z : Exchange} (h : XStep x y) (k : XStep y z) : XStep x z where
  owner := k.owner.trans h.owner
  kind := k.kind.trans h.kind
  dest := k.dest.trans h.dest
  regAddr := k.regAddr.trans h.regAddr
  length := k.length.trans h.length
  signalOp := k.signalOp.trans h.signalOp
  units := k.units.trans h.units
  fence := k.fence.trans h.fence
  onLine e := h.onLine (k.onLine e)
  done e := ⟨(k.done (h.done e).1).1, (k.done (h.done e).1).2.trans (h.done e).2⟩

/-- A move of the table that creates nothing and puts nothing ON_LINE: each record goes FREE or makes an `XStep`, and the
creation lists lose exactly the tags that have gone FREE (R4, R7). -/
structure Reaches (s t : State) : Prop where
  recs : ∀ tag y, t.xchg tag = some y → ∃ x, s.xchg tag = some x ∧ XStep x y
  sub : ∀ o, (t.table.creation o).Sublist (s.table.creation o)
  keep : ∀ o tag x, tag ∈ t.table.creation o → s.xchg tag = some x → x.owner = o → (t.xchg tag).isSome
  drop : ∀ o tag, tag ∈ s.table.creation o → tag ∉ t.table.creation o → t.xchg tag = none

theorem Reaches.refl (s : State) : Reaches s s where
  recs _ y h := ⟨y, h, XStep.refl y⟩
  sub _ := List.Sublist.refl _
  keep _ _ x _ h _ := by simp [h]
  drop _ _ h k := absurd h k

theorem Reaches.trans {s t u : State} (h : Reaches s t) (k : Reaches t u) : Reaches s u where
  recs tag z hz := by
    obtain ⟨y, hy, yz⟩ := k.recs tag z hz
    obtain ⟨x, hx, xy⟩ := h.recs tag y hy
    exact ⟨x, hx, xy.trans yz⟩
  sub o := (k.sub o).trans (h.sub o)
  keep o tag x hm hx ho := by
    have hsome := h.keep o tag x ((k.sub o).subset hm) hx ho
    obtain ⟨y, hy⟩ := Option.isSome_iff_exists.mp hsome
    obtain ⟨x', hx', xy⟩ := h.recs tag y hy
    rw [hx] at hx'
    cases hx'
    exact k.keep o tag y hm hy (xy.owner.trans ho)
  drop o tag hm hn := by
    by_cases ht : tag ∈ t.table.creation o
    · exact k.drop o tag ht hn
    · have := h.drop o tag hm ht
      cases hu : u.xchg tag with
      | none => rfl
      | some z =>
        obtain ⟨y, hy, _⟩ := k.recs tag z hu
        rw [this] at hy
        cases hy

theorem Reaches.of_same {s t : State} (hx : t.table.xs = s.table.xs) (hc : ∀ o, t.table.creation o = s.table.creation o) :
    Reaches s t where
  recs tag y h := ⟨y, by simpa [State.xchg, hx] using h, XStep.refl y⟩
  sub o := by rw [hc o]
  keep o tag x _ h _ := by
    have : t.xchg tag = s.xchg tag := by simp [State.xchg, hx]
    simp [this, h]
  drop o tag h k := absurd h (hc o ▸ k)

theorem Reaches.of_table {s t : State} (h : t.table = s.table) : Reaches s t :=
  Reaches.of_same (by rw [h]) (fun o => by rw [h])

theorem OnlyDir.reaches {s t : State} (h : OnlyDir s t) : Reaches s t := Reaches.of_table h.table

theorem Reaches.foldl {α : Type} {f : State → α → State} (h : ∀ s a, Reaches s (f s a)) (l : List α) (s : State) :
    Reaches s (l.foldl f s) := by
  induction l generalizing s with
  | nil => exact Reaches.refl s
  | cons a l ih => exact (h s a).trans (ih _)

theorem reaches_setXchg {s : State} {tag : Tag} {x y : Exchange} (hx : s.xchg tag = some x) (h : XStep x y) :
    Reaches s (s.setXchg tag (some y)) where
  recs tag' z hz := by
    rw [xchg_setXchg] at hz
    split at hz
    · rename_i e; subst e; cases hz; exact ⟨x, hx, h⟩
    · exact ⟨z, hz, XStep.refl z⟩
  sub o := by cases o with
    | list c => cases c <;> exact List.Sublist.refl _
    | window => exact List.Sublist.refl _
    | internal => exact List.Sublist.refl _
  keep o tag' z _ hz _ := by rw [xchg_setXchg]; split <;> simp [hz]
  drop o tag' hm hn := absurd hm (by
    cases o with
    | list c => cases c <;> exact hn
    | window => exact hn
    | internal => exact hn)

theorem reaches_mapX {s : State} {f : Tag → Exchange → Exchange} (h : ∀ tag x, XStep x (f tag x)) :
    Reaches s (s.mapX f) where
  recs tag z hz := by
    rw [xchg_mapX] at hz
    cases hx : s.xchg tag with
    | none => simp [hx] at hz
    | some x => simp [hx] at hz; exact ⟨x, rfl, hz ▸ h tag x⟩
  sub o := by cases o with
    | list c => cases c <;> exact List.Sublist.refl _
    | window => exact List.Sublist.refl _
    | internal => exact List.Sublist.refl _
  keep o tag' z _ hz _ := by rw [xchg_mapX, hz]; rfl
  drop o tag' hm hn := absurd hm (by
    cases o with
    | list c => cases c <;> exact hn
    | window => exact hn
    | internal => exact hn)

theorem xStep_finish {x : Exchange} (c : Completion) (h : x.live = true) : XStep x (x.finish c) :=
  ⟨rfl, rfl, rfl, rfl, rfl, rfl, rfl, rfl, fun e => by simp [Exchange.finish] at e, fun e => by rw [h] at e; cases e⟩

/-- Completions of unfinished exchanges are a move of the table. -/
theorem reaches_completeBatch {s : State} {sel : Sel}
    (h : ∀ tag x, s.xchg tag = some x → (sel tag x).isSome → x.live = true) : Reaches s (s.completeBatch sel) where
  recs tag z hz := by
    rw [xchg_completeBatch] at hz
    cases hx : s.xchg tag with
    | none => simp [hx] at hz
    | some x =>
      simp only [hx, Option.map_some, Option.some.injEq, afterSel] at hz
      refine ⟨x, rfl, ?_⟩
      split at hz
      · rw [← hz]; exact XStep.refl _
      · rename_i c hc
        rw [← hz]; exact xStep_finish c (h tag x hx (by simp [hc]))
  sub o := by
    have : (s.completeBatch sel).table.creation o = s.table.creation o := by
      cases o with
      | list c => cases c <;> rfl
      | window => rfl
      | internal => rfl
    rw [this]
  keep o tag x _ hx _ := by rw [xchg_completeBatch, hx]; rfl
  drop o tag hm hn := absurd hm (by
    cases o with
    | list c => cases c <;> exact hn
    | window => exact hn
    | internal => exact hn)

theorem reaches_complete_of {s : State} {sel : Sel}
    (h : ∀ tag x, s.xchg tag = some x → (sel tag x).isSome → x.live = true) : Reaches s (s.complete sel) :=
  (reaches_completeBatch h).trans (Reaches.of_table (complete_table s sel))

/-- What the owners do with the completions of a step is a move of the table. -/
theorem reaches_handOver (s before : State) : Reaches s (s.handOver before) where
  recs tag z hz := by
    rw [xchg_handOver] at hz
    split at hz
    · cases hz
    · exact ⟨z, hz, XStep.refl z⟩
  sub o := by
    rw [handOver_table]
    cases o with
    | list c => cases c <;> exact List.Sublist.refl _
    | window => exact List.filter_sublist
    | internal => exact List.filter_sublist
  keep o tag x hm hx ho := by
    have fin : ∀ l : List Tag, tag ∈ l.filter (fun t => !s.retiresNow before t) → s.retiresNow before tag = false :=
      fun l h => by simpa using (List.mem_filter.mp h).2
    rw [handOver_table] at hm
    have k : s.retiresNow before tag = false := by
      cases o with
      | list c => simp [State.retiresNow, hx, Exchange.retiredAtOnce, ho]
      | window => exact fin _ hm
      | internal => exact fin _ hm
    rw [xchg_handOver, k, hx]
    rfl
  drop o tag hm hn := by
    rw [handOver_table] at hn
    have fin : ∀ l : List Tag, tag ∈ l → tag ∉ l.filter (fun t => !s.retiresNow before t) → s.retiresNow before tag = true := by
      intro l h1 h2
      by_contra k
      exact h2 (List.mem_filter.mpr ⟨h1, by simpa using k⟩)
    rw [xchg_handOver]
    cases o with
    | list c => cases c <;> exact absurd hm hn
    | window => rw [fin _ hm hn]; rfl
    | internal => rw [fin _ hm hn]; rfl

theorem reaches_endStep (s before : State) : Reaches s (s.endStep before) :=
  (reaches_handOver s before).trans (Reaches.of_table rfl)

theorem reaches_complete {s : State} {sel : Sel} (h : ∀ tag x, (sel tag x).isSome → x.live = true) :
    Reaches s (s.complete sel) := reaches_complete_of fun tag x _ => h tag x

/-- The creation lists after a retirement. -/
theorem creation_free (s : State) (t : Tag) (x : Exchange) (hx : s.xchg t = some x) (o : Owner) :
    (s.free t).table.creation o =
      if o = x.owner then (s.table.creation o).filter (· != t) else s.table.creation o := by
  simp only [State.free, hx]
  obtain ⟨owner, _⟩ := x
  dsimp only
  cases owner with
  | list c => cases c <;> cases o with
    | list c' => cases c' <;> rfl
    | window => rfl
    | internal => rfl
  | window => cases o with
    | list c' => cases c' <;> rfl
    | window => rfl
    | internal => rfl
  | internal => cases o with
    | list c' => cases c' <;> rfl
    | window => rfl
    | internal => rfl

theorem reaches_free (s : State) (t : Tag) : Reaches s (s.free t) := by
  cases hx : s.xchg t with
  | none =>
    have : s.free t = s := by simp [State.free, hx]
    rw [this]; exact Reaches.refl s
  | some x =>
    refine ⟨?_, ?_, ?_, ?_⟩
    · intro tag y hy
      rw [xchg_free] at hy
      split at hy
      · cases hy
      · exact ⟨y, hy, XStep.refl y⟩
    · intro o; rw [creation_free s t x hx]; split
      · exact List.filter_sublist
      · exact List.Sublist.refl _
    · intro o tag z hm hz ho
      rw [creation_free s t x hx] at hm
      rw [xchg_free]
      by_cases e : tag = t
      · subst e
        rw [hx] at hz
        cases hz
        simp [ho] at hm
      · simp [e, hz]
    · intro o tag hm hn
      rw [creation_free s t x hx] at hn
      rw [xchg_free]
      by_cases e : tag = t
      · simp [e]
      · exfalso
        apply hn
        split
        · exact List.mem_filter.mpr ⟨hm, by simpa using e⟩
        · exact hm

end Sys2Proof.Machine
end

