-- ==== Sys2Proof/Laws/Directory.lean ====
section
/-! SUPPORT. The directory: what an update of an entry reads back, the deferred counts, stations joining the census list and
the change summary, and the invariant of the directory's lists under the operations over them. -/

namespace Sys2Proof.Machine

/-! ## Entries -/

@[simp] theorem entry_setEntry (s : State) (n m : Stn) (e : Entry) :
    (s.setEntry n e).entry m = if m = n then e else s.entry m := by
  simp only [State.entry, State.setEntry, Fin.getElem_fin, Vector.getElem_set]
  by_cases h : m = n
  · subst h; simp
  · have : ¬ (n : Nat) = (m : Nat) := fun e => h (Fin.ext e.symm)
    simp [h, this]

@[simp] theorem entry_modEntry (s : State) (n m : Stn) (f : Entry → Entry) :
    (s.modEntry n f).entry m = if m = n then f (s.entry n) else s.entry m := by
  rw [State.modEntry, entry_setEntry]

@[simp] theorem entry_mapEntries (s : State) (f : Stn → Entry → Entry) (m : Stn) :
    (s.mapEntries f).entry m = f m (s.entry m) := by
  simp [State.entry, State.mapEntries]

@[simp] theorem entry_noteChange (s : State) (n m : Stn) : (s.noteChange n).entry m = s.entry m := rfl

@[simp] theorem entry_moveTo (s : State) (n m : Stn) (st : StnState) :
    (s.moveTo n st).entry m = if m = n then { s.entry n with state := st } else s.entry m := by
  rw [State.moveTo, entry_noteChange, entry_modEntry]

/-- Two states agree in their entries when their directories list the same ones. -/
theorem entry_of_entries {s t : State} (h : t.dir.entries = s.dir.entries) (m : Stn) : t.entry m = s.entry m := by
  simp [State.entry, h]

/-- Entry vectors are equal when they are equal at every station. -/
theorem entries_ext {s t : State} (h : ∀ n, t.entry n = s.entry n) : t.dir.entries = s.dir.entries := by
  ext i hi
  have := h ⟨i, hi⟩
  simpa [State.entry] using congrArg id this

theorem set_entry_self (s : State) (n : Stn) : s.dir.entries.set n (s.entry n) = s.dir.entries := by
  ext i hi
  simp only [State.entry, Vector.getElem_set]
  split
  · rename_i h; subst h; rfl
  · rfl

/-! ## Deferred counts (R25, R108) -/

theorem countX_of_xchg {s t : State} (h : ∀ tag, t.xchg tag = s.xchg tag) (p : Exchange → Bool) :
    t.countX p = s.countX p := by
  simp [State.countX, h]

theorem deferredOf_of_xchg {s t : State} (h : ∀ tag, t.xchg tag = s.xchg tag) (n : Stn) : t.deferredOf n = s.deferredOf n :=
  countX_of_xchg h _

/-- The count of a property does not change when each record keeps it. -/
theorem countX_congr {s t : State} {p : Exchange → Bool} (h : ∀ tag, (t.xchg tag).any p = (s.xchg tag).any p) :
    t.countX p = s.countX p := by
  simp [State.countX, h]

@[simp] theorem entry_recount (s : State) (n : Stn) :
    s.recount.entry n = { s.entry n with deferred := s.deferredOf n } := entry_mapEntries _ _ _

theorem countsAgree_recount (s : State) : CountsAgree s.recount := fun n => by rw [entry_recount]; rfl

/-- Where the counts agree already, keeping them in step changes nothing. -/
theorem recount_self {s : State} (h : CountsAgree s) : s.recount = s := by
  have e : s.recount.dir.entries = s.dir.entries := entries_ext fun n => by rw [entry_recount, ← h n]
  calc s.recount = { s with dir := { s.dir with entries := s.recount.dir.entries } } := rfl
    _ = s := by rw [e]

/-- Counts that agree go on agreeing when entries keep their count and the table its deferred exchanges. -/
theorem countsAgree_of {s t : State} (h : CountsAgree s) (he : ∀ n, (t.entry n).deferred = (s.entry n).deferred)
    (hx : ∀ n, t.deferredOf n = s.deferredOf n) : CountsAgree t := fun n => by rw [he, h n, hx]

/-! ## The census list (R28) -/

theorem joinCensus_eq (s : State) (n : Stn) :
    s.joinCensus n = { s with dir := { s.dir with
      census := s.dir.census ++ if (s.entry n).state = .disabled ∨ n ∈ s.dir.census then [] else [n] } } := by
  unfold State.joinCensus
  split <;> simp

/-- Stations without repeats join in their order: those that are neither DISABLED nor in the list. -/
theorem joinCensusAll_eq (s : State) {l : List Stn} (hl : l.Nodup) :
    s.joinCensusAll l = { s with dir := { s.dir with
      census := s.dir.census ++ l.filter fun n => (s.entry n).state != .disabled && !s.dir.census.contains n } } := by
  induction l generalizing s with
  | nil => simp [State.joinCensusAll]
  | cons n l ih =>
    rw [List.nodup_cons] at hl
    have ih := ih (s.joinCensus n) hl.2
    have e : s.joinCensusAll (n :: l) = (s.joinCensus n).joinCensusAll l := rfl
    rw [e, ih, joinCensus_eq]
    have key : ∀ c : List Stn, (∀ m, m ∈ c ↔ m ∈ s.dir.census ∨ m = n) ∨ (∀ m, m ∈ c ↔ m ∈ s.dir.census) →
        l.filter (fun m => (s.entry m).state != .disabled && !c.contains m)
          = l.filter (fun m => (s.entry m).state != .disabled && !s.dir.census.contains m) := by
      intro c hc
      apply List.filter_congr
      intro m hm
      have hne : m ≠ n := fun e => hl.1 (e ▸ hm)
      rcases hc with hc | hc
      · have : (m ∈ c) ↔ (m ∈ s.dir.census) := by rw [hc]; simp [hne]
        simp [this]
      · simp [hc]
    by_cases h : (s.entry n).state = .disabled ∨ n ∈ s.dir.census
    · simp only [h, if_true, List.append_nil]
      have hn : ((s.entry n).state != .disabled && !s.dir.census.contains n) = false := by
        rcases h with h | h <;> simp [h]
      rw [List.filter_cons_of_neg (by simp only [hn]; exact Bool.false_ne_true)]
    · rw [not_or] at h
      simp only [h, or_self, if_false]
      have hn : ((s.entry n).state != .disabled && !s.dir.census.contains n) = true := by simp [h]
      have k := key (s.dir.census ++ [n]) (Or.inl fun m => by simp)
      have e2 : ∀ m, State.entry { s with dir := { s.dir with census := s.dir.census ++ [n] } } m = s.entry m := fun _ => rfl
      have e3 : (n :: l).filter (fun m => (s.entry m).state != .disabled && !s.dir.census.contains m)
          = n :: l.filter (fun m => (s.entry m).state != .disabled && !s.dir.census.contains m) :=
        List.filter_cons_of_pos (p := fun m => (s.entry m).state != .disabled && !s.dir.census.contains m) hn
      rw [e3]
      simp only [e2, k, List.append_assoc, List.singleton_append]

theorem allStns_nodup : allStns.Nodup := List.nodup_finRange 30

theorem mem_allStns (n : Stn) : n ∈ allStns := List.mem_finRange n

/-! ## The change summary (R44) -/

theorem addrOf_lt (n : Stn) : addrOf n < 32 := by unfold addrOf; omega

@[simp] theorem maskHas_add (m : Word) (n k : Stn) : maskHas (maskAdd m n) k = (maskHas m k || k == n) := by
  have hk := addrOf_lt k
  simp only [maskHas, maskAdd, maskOf, BitVec.getLsbD_or, BitVec.getLsbD_shiftLeft, hk, decide_true, Bool.true_and]
  congr 1
  by_cases h : k = n
  · subst h; simp
  · have hne : addrOf k ≠ addrOf n := fun e => h (Fin.ext (by unfold addrOf at e; omega))
    have : (k == n) = false := by simp [h]
    rw [this, BitVec.getLsbD_one]
    simp
    omega

theorem noteChange_foldl (s : State) (l : List Stn) :
    ∃ m, l.foldl State.noteChange s = { s with dir := { s.dir with changes := m } } ∧
      ∀ n, maskHas m n = (maskHas s.dir.changes n || l.contains n) := by
  induction l generalizing s with
  | nil => exact ⟨s.dir.changes, rfl, fun n => by simp⟩
  | cons a l ih =>
    obtain ⟨m, e, h⟩ := ih (s.noteChange a)
    refine ⟨m, by rw [List.foldl_cons, e]; rfl, fun n => ?_⟩
    rw [h]
    simp only [State.noteChange, maskHas_add, List.contains_cons, Bool.or_assoc]

end Sys2Proof.Machine
end

