-- ==== Sys2Proof/Laws/Memory.lean ====
section
/-! SUPPORT. The Payload Store: a write keeps the canonical form, and reads back. -/

namespace Sys2Proof.Machine

namespace Memory

theorem wfFrom_mono {lo lo' : Nat} (h : lo' ≤ lo) {m : List Host.Cell} (hm : wfFrom lo m = true) : wfFrom lo' m = true := by
  cases m with
  | nil => rfl
  | cons p m =>
    simp only [wfFrom, Bool.and_eq_true, decide_eq_true_eq] at hm ⊢
    exact ⟨⟨by omega, hm.1.2⟩, hm.2⟩

/-- A write at or above the bound keeps the canonical form from that bound on. -/
theorem write_wfFrom {lo a : Nat} {b : Byte} {m : List Host.Cell} (ha : lo ≤ a) (hm : wfFrom lo m = true) :
    wfFrom lo (write m a b) = true := by
  induction m generalizing lo with
  | nil => by_cases hb : b = 0#8 <;> simp [write, wfFrom, hb, ha]
  | cons p m ih =>
    obtain ⟨k, c⟩ := p
    have hm' := hm
    simp only [wfFrom, Bool.and_eq_true, decide_eq_true_eq] at hm
    obtain ⟨⟨h1, h2⟩, h3⟩ := hm
    by_cases hlt : a < k
    · by_cases hb : b = 0#8
      · simp [write, hlt, hb, hm']
      · have hk : a + 1 ≤ k := hlt
        simp [write, hlt, hb, wfFrom, ha, hk, h3]
        simpa using h2
    · by_cases heq : a = k
      · subst heq
        by_cases hb : b = 0#8
        · simpa [write, hb] using wfFrom_mono (by omega) h3
        · simp [write, hb, wfFrom, h1, h3]
      · have := ih (lo := k + 1) (by omega) h3
        simp [write, hlt, heq, wfFrom, h1, this]
        simpa using h2

/-- A write keeps the canonical form. -/
theorem write_wf {m : List Host.Cell} (a : Nat) (b : Byte) (hm : wf m = true) : wf (write m a b) = true :=
  write_wfFrom (Nat.zero_le a) hm

/-- Below its bound a canonical list reads as unwritten. -/
theorem read_below {lo a : Nat} {m : List Host.Cell} (hm : wfFrom lo m = true) (ha : a < lo) : read m a = 0#8 := by
  induction m generalizing lo with
  | nil => rfl
  | cons p m ih =>
    obtain ⟨k, c⟩ := p
    simp only [wfFrom, Bool.and_eq_true, decide_eq_true_eq] at hm
    have : k ≠ a := by omega
    simp only [read, this, if_false]
    exact ih hm.2 (by omega)

theorem read_write_from {lo a : Nat} {b : Byte} {m : List Host.Cell} (hm : wfFrom lo m = true) (a' : Nat) :
    read (write m a b) a' = if a' = a then b else read m a' := by
  induction m generalizing lo with
  | nil =>
    by_cases hb : b = 0#8
    · simp [write, hb, read]
    · by_cases h : a = a'
      · simp [write, hb, read, h]
      · simp [write, hb, read, h, Ne.symm h]
  | cons p m ih =>
    obtain ⟨k, c⟩ := p
    simp only [wfFrom, Bool.and_eq_true, decide_eq_true_eq] at hm
    obtain ⟨⟨h1, h2⟩, h3⟩ := hm
    by_cases hlt : a < k
    · have hne : k ≠ a := by omega
      by_cases hb : b = 0#8
      · by_cases h : a' = a
        · subst h
          simp [write, hlt, hb, read, hne, read_below h3 (by omega : a' < k + 1)]
        · simp [write, hlt, hb, h]
      · by_cases h : a' = a
        · subst h; simp [write, hlt, hb, read]
        · simp [write, hlt, hb, read, h, Ne.symm h]
    · by_cases heq : a = k
      · subst heq
        by_cases hb : b = 0#8
        · by_cases h : a' = a
          · subst h; simp [write, hb, read_below h3 (by omega : a' < a' + 1)]
          · simp [write, hb, read, h, Ne.symm h]
        · by_cases h : a' = a
          · subst h; simp [write, hb, read]
          · simp [write, hb, read, h, Ne.symm h]
      · by_cases h : k = a'
        · subst h
          have : ¬ k = a := fun e => heq e.symm
          simp [write, hlt, heq, read, this]
        · simp [write, hlt, heq, read, h, ih h3]

/-- A byte written reads back, and every other byte reads as before. -/
theorem read_write {m : List Host.Cell} (hm : wf m = true) (a a' : Nat) (b : Byte) :
    read (write m a b) a' = if a' = a then b else read m a' :=
  read_write_from hm a'

end Memory

/-- Placing bytes into units keeps the canonical form of the store. -/
theorem writeUnits_wf (us : List UnitNo) (i : Nat) (bs : List Byte) {m : List Host.Cell} (hm : Memory.wf m = true) :
    Memory.wf (writeUnits us i bs m) = true := by
  induction bs generalizing i m with
  | nil => exact hm
  | cons b bs ih =>
    simp only [writeUnits]
    split
    · exact ih _ (Memory.write_wf _ _ hm)
    · exact ih _ hm

/-- Placing bytes into units leaves every byte outside the places written as it was. -/
theorem read_writeUnits_other (us : List UnitNo) (i : Nat) (bs : List Byte) {m : List Host.Cell} (hm : Memory.wf m = true)
    (a : Nat) (ha : ∀ j, i ≤ j → j < i + bs.length → unitAddr us j ≠ some a) :
    Memory.read (writeUnits us i bs m) a = Memory.read m a := by
  induction bs generalizing i m with
  | nil => rfl
  | cons b bs ih =>
    simp only [writeUnits]
    have hi := ha i (Nat.le_refl i) (by simp)
    have hrest : ∀ j, i + 1 ≤ j → j < i + 1 + bs.length → unitAddr us j ≠ some a := fun j h1 h2 =>
      ha j (by omega) (by simp only [List.length_cons]; omega)
    split
    · rename_i k hk
      rw [ih (i + 1) (Memory.write_wf _ _ hm) hrest, Memory.read_write hm]
      have : a ≠ k := fun e => hi (by rw [hk, e])
      simp [this]
    · exact ih (i + 1) hm hrest

end Sys2Proof.Machine
end

