-- ==== Sys2Proof/Laws/Moves.lean ====
section
/-! SUPPORT. Every shared operation over exchanges is a move of the table (`Reaches`): attempt outcomes, cancellations,
signs, halts, drains. -/

namespace Sys2Proof.Machine

/-- The fields an exchange keeps from its creation to its retirement are equal. -/
structure SameRequest (x y : Exchange) : Prop where
  owner : y.owner = x.owner
  kind : y.kind = x.kind
  dest : y.dest = x.dest
  regAddr : y.regAddr = x.regAddr
  length : y.length = x.length
  signalOp : y.signalOp = x.signalOp
  units : y.units = x.units
  fence : y.fence = x.fence

theorem SameRequest.refl (x : Exchange) : SameRequest x x := ⟨rfl, rfl, rfl, rfl, rfl, rfl, rfl, rfl⟩

theorem SameRequest.trans {x y z : Exchange} (h : SameRequest x y) (k : SameRequest y z) : SameRequest x z :=
  ⟨k.owner.trans h.owner, k.kind.trans h.kind, k.dest.trans h.dest, k.regAddr.trans h.regAddr, k.length.trans h.length,
    k.signalOp.trans h.signalOp, k.units.trans h.units, k.fence.trans h.fence⟩

/-- An ON_LINE exchange may move to any record with the same request. -/
theorem SameRequest.xStep {x y : Exchange} (h : SameRequest x y) (hx : x.state = .onLine) : XStep x y :=
  ⟨h.owner, h.kind, h.dest, h.regAddr, h.length, h.signalOp, h.units, h.fence, fun _ => hx,
    fun e => by simp [Exchange.live, hx] at e⟩

/-- A record update that keeps the request and the state and result. -/
theorem SameRequest.keep {x y : Exchange} (h : SameRequest x y) (hs : y.state = x.state) (hr : y.result = x.result) :
    XStep x y :=
  ⟨h.owner, h.kind, h.dest, h.regAddr, h.length, h.signalOp, h.units, h.fence, fun e => hs ▸ e,
    fun e => ⟨by simpa [Exchange.live, hs] using e, hr⟩⟩

theorem SameRequest.move {x y : Exchange} (h : SameRequest x y) (hl : x.live = true) (hy : y.state ≠ .onLine) : XStep x y :=
  ⟨h.owner, h.kind, h.dest, h.regAddr, h.length, h.signalOp, h.units, h.fence, fun e => absurd e hy,
    fun e => by rw [hl] at e; cases e⟩

theorem xStep_markFill (x : Exchange) (m : FillMark) : XStep x (x.markFill m) := by
  unfold Exchange.markFill
  split
  · exact SameRequest.keep ⟨rfl, rfl, rfl, rfl, rfl, rfl, rfl, rfl⟩ rfl rfl
  · exact XStep.refl x

theorem xStep_abortCollect (c : Chan) (x : Exchange) : XStep x (abortCollect c x) := by
  unfold abortCollect
  split
  · split
    · exact SameRequest.move ⟨rfl, rfl, rfl, rfl, rfl, rfl, rfl, rfl⟩ (by simp [Exchange.live, *]) (by simp [Exchange.toAbandon])
    · exact SameRequest.move ⟨rfl, rfl, rfl, rfl, rfl, rfl, rfl, rfl⟩ (by simp [Exchange.live, *]) (by simp [Exchange.toAbandon])
    · exact SameRequest.move ⟨rfl, rfl, rfl, rfl, rfl, rfl, rfl, rfl⟩ (by simp [Exchange.live, *]) (by simp [Exchange.toAbandon])
    · exact SameRequest.keep ⟨rfl, rfl, rfl, rfl, rfl, rfl, rfl, rfl⟩ rfl rfl
    all_goals exact XStep.refl x
  · exact XStep.refl x

/-! ## The move an outcome chooses -/

theorem sameRequest_heard (x : Exchange) (v : Verdict) : SameRequest x (heard x v) := by
  unfold heard; split <;> exact ⟨rfl, rfl, rfl, rfl, rfl, rfl, rfl, rfl⟩

theorem heard_state (x : Exchange) (v : Verdict) : (heard x v).state = x.state := by
  unfold heard; split <;> rfl

/-- A move keeps the request; one that stays does not leave the exchange ON_LINE, one that completes leaves a record that
was not finished. -/
structure GoodMove (x : Exchange) (m : Move × Exchange) : Prop where
  before : SameRequest x m.2
  live : m.2.live = true
  stays : ∀ y, m.1 = .stays y → SameRequest x y ∧ y.state ≠ .onLine ∧ y.live = true

theorem goodMove_outcome (regs : Regs) (cap : Nat) (ab : Bool) (x : Exchange) (v : Verdict) (hx : x.state = .onLine) :
    GoodMove x (outcomeMove regs cap ab x v) := by
  have hl : x.live = true := by simp [Exchange.live, hx]
  have comp : ∀ c p, GoodMove x (.complete c p, x) := fun c p => ⟨SameRequest.refl x, hl, fun y h => by cases h⟩
  have stay : ∀ y, SameRequest x y → y.state ≠ .onLine ∧ y.live = true → GoodMove x (.stays y, x) := fun y h k =>
    ⟨SameRequest.refl x, hl, fun z hz => by cases hz; exact ⟨h, k⟩⟩
  have ab : ∀ c, GoodMove x (.stays (x.toAbandon c), x) := fun c =>
    stay _ ⟨rfl, rfl, rfl, rfl, rfl, rfl, rfl, rfl⟩ (by simp [Exchange.toAbandon, Exchange.live])
  have lost : ∀ m, (∃ c p, m = Move.complete c p) ∨ (∃ c, m = .stays (x.toAbandon c)) ∨ (∃ b, m = .stays (x.toBackoff b)) →
      GoodMove x (m, x) := by
    rintro m (⟨c, p, rfl⟩ | ⟨c, rfl⟩ | ⟨b, rfl⟩)
    · exact comp c p
    · exact ab c
    · exact stay _ ⟨rfl, rfl, rfl, rfl, rfl, rfl, rfl, rfl⟩ (by simp [Exchange.toBackoff, Exchange.live])
  unfold outcomeMove
  split
  · unfold replyMove
    split
    · unfold busyMove
      dsimp only
      split
      · refine ⟨⟨rfl, rfl, rfl, rfl, rfl, rfl, rfl, rfl⟩, by simp [Exchange.live, hx], fun y h => ?_⟩
        cases h
        exact ⟨⟨rfl, rfl, rfl, rfl, rfl, rfl, rfl, rfl⟩, by simp [Exchange.toBackoff, Exchange.live]⟩
      · exact ⟨⟨rfl, rfl, rfl, rfl, rfl, rfl, rfl, rfl⟩, by simp [Exchange.live, hx], fun y h => by cases h⟩
    · exact comp _ _
    · exact comp _ _
    · split
      · exact stay _ ⟨rfl, rfl, rfl, rfl, rfl, rfl, rfl, rfl⟩ (by simp [Exchange.toCollect, Exchange.live])
      · exact comp _ _
    · split
      · exact ab _
      · exact stay _ ⟨rfl, rfl, rfl, rfl, rfl, rfl, rfl, rfl⟩ (by simp [Exchange.live])
    · split
      · exact comp _ _
      · split
        · exact ab _
        · exact comp _ _
    · split <;> exact comp _ _
    · exact comp _ _
    · exact comp _ _
    · exact comp _ _
  · refine lost _ ?_
    unfold soundFaultMove
    split
    · exact Or.inl ⟨_, _, rfl⟩
    · split
      · exact Or.inr (Or.inl ⟨_, rfl⟩)
      · exact Or.inl ⟨_, _, rfl⟩
    · exact Or.inl ⟨_, _, rfl⟩
  · refine lost _ ?_
    unfold lostMove
    split
    · exact Or.inr (Or.inl ⟨_, rfl⟩)
    · split
      · exact Or.inr (Or.inr ⟨_, rfl⟩)
      · split
        · unfold exhaustedIssue
          split
          · exact Or.inr (Or.inl ⟨_, rfl⟩)
          · exact Or.inl ⟨_, _, rfl⟩
        · exact Or.inr (Or.inl ⟨_, rfl⟩)
        · exact Or.inl ⟨_, _, rfl⟩
  · exact comp _ _

theorem goodMove_cancel {x : Exchange} {m : Move × Exchange} (cancel : Cancel) (cap : Nat) (h : GoodMove x m) :
    GoodMove x (cancelMove cancel cap m) := by
  obtain ⟨m, b⟩ := m
  cases m with
  | complete c p => exact h
  | stays y =>
    have hy := h.stays y rfl
    unfold cancelMove
    dsimp only
    split
    · exact ⟨hy.1, hy.2.2, fun z hz => by cases hz⟩
    · split
      · refine ⟨hy.1, hy.2.2, fun z hz => ?_⟩
        cases hz
        exact ⟨hy.1.trans ⟨rfl, rfl, rfl, rfl, rfl, rfl, rfl, rfl⟩, by simp [Exchange.toAbandon, Exchange.live]⟩
      · exact h

theorem goodMove_moveOf (s : State) (x : Exchange) (v : Verdict) (hx : x.state = .onLine) : GoodMove x (s.moveOf x v) := by
  have hh : (heard x v).state = .onLine := (heard_state x v).trans hx
  have h := goodMove_cancel (s.cancelOf x.owner) (s.capacityOf x.dest)
    (goodMove_outcome s.regs (s.capacityOf x.dest) (s.cancelOf x.owner == .abort) (heard x v) v hh)
  exact ⟨(sameRequest_heard x v).trans h.before, h.live,
    fun y hy => ⟨(sameRequest_heard x v).trans (h.stays y hy).1, (h.stays y hy).2⟩⟩

/-! ## Stopping and cancelling -/

theorem live_of_cancelSel {c : Chan} (tag : Tag) (x : Exchange) (h : (cancelSel c tag x).isSome) : x.live = true := by
  unfold cancelSel at h
  split at h
  · rename_i k
    rcases k.2.2 with e | e <;> simp [Exchange.live, e]
  · cases h

theorem live_of_lostSel {n : Stn} (tag : Tag) (x : Exchange) (h : (lostSel n tag x).isSome) : x.live = true := by
  unfold lostSel at h
  split at h
  · rename_i k; exact k.2.1
  · cases h

theorem live_of_restartSel {n : Stn} {own : Tag} (tag : Tag) (x : Exchange) (h : (restartSel n own tag x).isSome) :
    x.live = true := by
  unfold restartSel at h
  split at h
  · rename_i k
    have := k.2.1
    simp only [Exchange.isDeferred, Bool.and_eq_true] at this
    exact this.1
  · cases h

theorem reaches_withdraw (s : State) (c : Chan) : Reaches s (s.withdraw c) :=
  Reaches.of_same rfl fun o => by
    cases o with
    | list c' => cases c' <;> rfl
    | window => rfl
    | internal => rfl

theorem reaches_modChan (s : State) (c : Chan) (f : Channel → Channel) : Reaches s (s.modChan c f) :=
  Reaches.of_table (by simp)

theorem reaches_leaveRunning (s : State) (c : Chan) : Reaches s (s.leaveRunning c) :=
  (reaches_withdraw s c).trans (reaches_modChan _ c _)

theorem reaches_cancelIssue (s : State) (c : Chan) : Reaches s (s.cancelIssue c) := by
  refine ((reaches_complete live_of_cancelSel).trans
    (Reaches.foldl (fun u n => (onlyDir_setPurge u n).reaches) _ _)).trans (reaches_mapX fun tag x => ?_)
  split
  · exact xStep_markFill x _
  · exact XStep.refl x

theorem reaches_settleCancel (s : State) (c : Chan) : Reaches s (s.settleCancel c) := by
  unfold State.settleCancel
  split
  · exact Reaches.refl s
  · exact reaches_modChan s c _

theorem reaches_haltIfDone (s : State) (c : Chan) : Reaches s (s.haltIfDone c) := by
  unfold State.haltIfDone
  split
  · exact (reaches_modChan s c _).trans (Reaches.of_table rfl)
  · exact Reaches.refl s

theorem reaches_endAbortIfDone (s : State) (c : Chan) : Reaches s (s.endAbortIfDone c) := by
  unfold State.endAbortIfDone
  split
  · exact reaches_modChan s c _
  · exact Reaches.refl s

theorem reaches_enterStopping (s : State) (c : Chan) (k : HaltCause) : Reaches s (s.enterStopping c k) :=
  ((((reaches_leaveRunning s c).trans (reaches_modChan _ c _)).trans (reaches_cancelIssue _ c)).trans
    (reaches_settleCancel _ c)).trans (reaches_haltIfDone _ c)

theorem reaches_stopOnFailure (s : State) (c : Chan) : Reaches s (s.stopOnFailure c) := by
  unfold State.stopOnFailure
  split
  · exact reaches_enterStopping s c _
  · exact Reaches.refl s

theorem reaches_stopOnFailures (s : State) : Reaches s s.stopOnFailures :=
  (reaches_stopOnFailure s .A).trans (reaches_stopOnFailure _ .B)

theorem reaches_memFaultStops (s : State) (c : Chan) : Reaches s (s.memFaultStops c) := by
  unfold State.memFaultStops
  split
  · exact reaches_enterStopping s c _
  · exact reaches_enterStopping s c _
  · exact reaches_modChan s c _
  all_goals exact Reaches.refl s

theorem reaches_aborted (s : State) (c : Chan) : Reaches s (s.aborted c) :=
  (((((reaches_leaveRunning s c).trans (reaches_modChan _ c _)).trans (reaches_cancelIssue _ c)).trans
    (reaches_mapX fun _ x => xStep_abortCollect c x)).trans (reaches_settleCancel _ c)).trans
    (reaches_endAbortIfDone _ c)

theorem reaches_declareSilent (s : State) (n : Stn) : Reaches s (s.declareSilent n) := by
  have h1 : OnlyDir s (((s.moveTo n .silent).modEntry n fun e =>
      { e with eventPending := false, purgeNeeded := false, keptReady := false, holdTimer := none }).dropRecovery n) :=
    ((onlyDir_moveTo s n _).trans (onlyDir_modEntry _ n _)).trans (onlyDir_dropRecovery _ n)
  unfold State.declareSilent
  dsimp only
  refine ((h1.reaches.trans (reaches_complete live_of_lostSel)).trans
    (reaches_mapX fun tag x => ?_)).trans (reaches_stopOnFailures _)
  split
  · exact xStep_markFill x _
  · exact XStep.refl x

/-! ## The directory's part in an outcome -/

theorem reaches_takeRestart (s : State) (n : Stn) (own : Tag) (x : Exchange) (v : Verdict) :
    Reaches s (s.takeRestart n own x v) := by
  unfold State.takeRestart
  split
  · exact ((reaches_complete live_of_restartSel).trans (reaches_stopOnFailures _)).trans (Reaches.of_table rfl)
  · exact Reaches.refl s

theorem comesIn_table (s : State) (n : Stn) (ep : BitVec 4) (i : Identity) : (s.comesIn n ep i).table = s.table := by
  have pp : ∀ (u : State), (u.placePurge n).table = u.table := fun u => (onlyDir_placePurge u n).table
  unfold State.comesIn
  dsimp only
  split
  · rfl
  · split
    · rw [pp]; rfl
    · rfl
  all_goals rw [pp]; rfl

theorem checkIdent_table (s : State) (n : Stn) (b : Bool) (i : Identity) : (s.checkIdent n b i).table = s.table := by
  unfold State.checkIdent
  dsimp only
  split
  · rfl
  · split <;> rfl

theorem censusFailed_table (s : State) (n : Stn) (st : CensusStatus) : (s.censusFailed n st).table = s.table := by
  have jc : ∀ (u : State), (u.joinCensus n).table = u.table := fun u => (onlyDir_joinCensus u n).table
  unfold State.censusFailed
  dsimp only
  split
  · rw [jc]; rfl
  · rfl

theorem reaches_ownerActs (s : State) (n : Stn) (own : Tag) (x : Exchange) (b : Bool) (m : Move) (v : Verdict) :
    Reaches s (s.ownerActs n own x b m v) := by
  unfold State.ownerActs
  split
  · exact Reaches.refl s
  · split
    · refine Reaches.of_table ?_
      unfold State.takeIdent
      split <;> first | exact comesIn_table _ _ _ _ | exact checkIdent_table _ _ _ _
    · exact Reaches.of_table (censusFailed_table _ _ _)
    · refine Reaches.of_table ?_
      unfold State.purgeAccepted
      dsimp only
      split <;> rfl
    · exact ((reaches_complete live_of_restartSel).trans (reaches_stopOnFailures _)).trans (Reaches.of_table rfl)
    · split
      · refine Reaches.of_table ?_
        unfold State.eventFetched
        dsimp only
        split <;> rfl
      · exact Reaches.refl s
    · exact Reaches.refl s

theorem reaches_readySign (s : State) (n : Stn) (own : Option Tag) : Reaches s (s.readySign n own) := by
  have w : Reaches s (s.mapX fun t x =>
      if x.dest = .station n ∧ x.state = .parked ∧ some t ≠ own then { x with state := .waiting } else x) := by
    refine reaches_mapX fun tag x => ?_
    split
    · rename_i h
      exact SameRequest.move ⟨rfl, rfl, rfl, rfl, rfl, rfl, rfl, rfl⟩ (by simp [Exchange.live, h.2.1]) (by simp)
    · exact XStep.refl x
  unfold State.readySign
  split
  all_goals first | exact w | exact Reaches.of_table rfl

theorem eventSign_table (s : State) (n : Stn) : (s.eventSign n).table = s.table := by
  unfold State.eventSign
  split <;> rfl

theorem reaches_takeAttention (s : State) (n : Stn) (own : Tag) (v : Verdict) :
    Reaches s (s.takeAttention n own v) := by
  unfold State.takeAttention
  split
  · exact Reaches.refl s
  · rename_i h _
    dsimp only
    have a : Reaches s (if h.attReady then s.readySign n (some own) else s) := by
      split
      · exact reaches_readySign s n _
      · exact Reaches.refl s
    split
    · exact a.trans (Reaches.of_table (eventSign_table _ n))
    · exact a

theorem countOutcome_table (s : State) (n : Stn) (v : Verdict) : (s.countOutcome n v).table = s.table := by
  unfold State.countOutcome
  dsimp only
  split
  · split <;> rfl
  · split
    · split <;> rfl
    · rfl

theorem setSeqBit_table (s : State) (n : Stn) (x : Exchange) (b : Bool) (v : Verdict) :
    (s.setSeqBit n x b v).table = s.table := by
  unfold State.setSeqBit
  split <;> rfl

theorem censusDone_table (s : State) (x : Exchange) (m : Move) : (s.censusDone x m).table = s.table := by
  unfold State.censusDone
  split
  · split <;> rfl
  · rfl

theorem reaches_directoryActs (s : State) (n : Stn) (own : Tag) (x : Exchange) (m : Move) (v : Verdict) :
    Reaches s (s.directoryActs n own x m v) := by
  unfold State.directoryActs
  dsimp only
  refine Reaches.trans ?_ (Reaches.of_table (censusDone_table _ _ _))
  refine Reaches.trans ?_ (reaches_takeAttention _ _ _ _)
  have a : Reaches s ((((s.takeRestart n own x v).ownerActs n own x (s.showsRestart n v) m v).countOutcome n v).setSeqBit n x
      (s.showsRestart n v) v) :=
    (((reaches_takeRestart s n own x v).trans (reaches_ownerActs _ _ _ _ _ _ _)).trans
      (Reaches.of_table (countOutcome_table _ _ _))).trans (Reaches.of_table (setSeqBit_table _ _ _ _ _))
  split
  · refine Reaches.trans ?_ (reaches_declareSilent _ n)
    split
    · exact a.trans (onlyDir_setPurge _ n).reaches
    · exact a
  · split
    · exact a.trans (onlyDir_setPurge _ n).reaches
    · exact a

theorem reaches_applyMove {s : State} {tag : Tag} {x : Exchange} {m : Move × Exchange} (hx : s.xchg tag = some x)
    (hs : x.state = .onLine) (h : GoodMove x m) : Reaches s (s.applyMove tag m) := by
  obtain ⟨m, b⟩ := m
  cases m with
  | stays y => exact reaches_setXchg hx ((h.stays y rfl).1.xStep hs)
  | complete c p =>
    let u := s.setXchg tag (some b)
    have hu : u.xchg tag = some b := by simp [u]
    have h1 : Reaches s u := reaches_setXchg hx (h.before.xStep hs)
    exact (h1.trans (reaches_complete_of fun t' y hy hsel => by
      split at hsel
      · rename_i e; subst e; rw [hu] at hy; cases hy; exact h.live
      · cases hsel)).trans (reaches_stopOnFailures _)

/-- The table and the directory act on one outcome: a move of the table. -/
theorem reaches_applyVerdict (s : State) (tag : Tag) (v : Verdict) : Reaches s (s.applyVerdict tag v) := by
  unfold State.applyVerdict
  split
  · exact Reaches.refl s
  · rename_i x hx
    split
    · rename_i hs
      have k : Reaches s (s.keepPayload x v) := Reaches.of_table (by unfold State.keepPayload; split <;> rfl)
      have kx : (s.keepPayload x v).xchg tag = some x := by
        have : (s.keepPayload x v).table = s.table := by unfold State.keepPayload; split <;> rfl
        rw [xchg_of_table this]; exact hx
      have a := k.trans (reaches_applyMove kx hs (goodMove_moveOf s x v hs))
      dsimp only
      split
      · exact (a.trans (reaches_directoryActs _ _ _ _ _ _)).trans (reaches_endStep _ _)
      · exact a.trans (reaches_endStep _ _)
    · exact Reaches.refl s

end Sys2Proof.Machine
end

