-- ==== Sys2Proof/Laws/Scheduler.lean ====
section
/-! SUPPORT. What the scheduler's choice answers: the exchange chosen is eligible, and what the conditions about the other
records say of each. -/

namespace Sys2Proof.Machine

theorem otherX_eq_false_iff {s : State} {t : Tag} {p : Exchange → Bool} :
    s.otherX t p = false ↔ ∀ t' y, t' ≠ t → s.xchg t' = some y → p y = false := by
  simp only [State.otherX, allTags, List.any_eq_false, Bool.and_eq_true, bne_iff_ne, not_and, Bool.not_eq_true]
  constructor
  · intro h t' y hne hy
    simpa [hy] using h t' (List.mem_finRange t') hne
  · intro h t' _ hne
    cases hy : s.xchg t' with
    | none => rfl
    | some y => simpa using h t' y hne hy

theorem unansweredAt_iff {x : Exchange} {n : Stn} :
    x.unansweredAt n = true ↔ x.kind.nonIdem = true ∧ x.unanswered = true ∧ x.dest = .station n := by
  simp [Exchange.unansweredAt, and_assoc]

theorem nonIdemActiveAt_iff {x : Exchange} {n : Stn} :
    x.nonIdemActiveAt n = true ↔
      x.kind.nonIdem = true ∧ x.dest = .station n ∧ x.phase = .issue ∧ (x.state = .onLine ∨ x.state = .backoff) := by
  simp [Exchange.nonIdemActiveAt, Exchange.issueActive, and_assoc]

theorem eligible_iff {s : State} {t : Tag} :
    s.eligible t = true ↔ ∃ x, s.xchg t = some x ∧ x.state = .waiting ∧ s.admits x = true ∧ s.streamOk t x = true ∧
      s.nonIdemOk t x = true ∧ s.censusOk t x = true ∧ s.readOk t x = true ∧ s.suspectOk t x = true ∧
      s.fenceOk t x = true ∧ s.bcastOk t x = true := by
  unfold State.eligible
  cases s.xchg t with
  | none => simp
  | some x => simp [and_assoc]

/-- R87 as the choice takes it: a non-idempotent exchange in the ISSUE phase is offered only while no other such exchange
to its station is active or unanswered, and the station's sequence bit is certain. -/
theorem nonIdemOk_station {s : State} {t : Tag} {x : Exchange} {n : Stn} (h : s.nonIdemOk t x = true)
    (hd : x.dest = .station n) (hk : x.kind.nonIdem = true) (hp : x.phase = .issue) :
    (s.entry n).seqUncertain = false ∧
      ∀ t' y, t' ≠ t → s.xchg t' = some y → y.nonIdemActiveAt n = false ∧ y.unansweredAt n = false := by
  simp only [State.nonIdemOk, hd, hk, hp, beq_self_eq_true, Bool.and_true, Bool.not_true, Bool.false_or,
    Bool.and_eq_true, Bool.not_eq_true'] at h
  exact ⟨h.2, fun t' y hne hy => ⟨otherX_eq_false_iff.mp h.1.1 t' y hne hy, otherX_eq_false_iff.mp h.1.2 t' y hne hy⟩⟩

theorem eligibleIn_iff {s : State} {cls : Nat} {t : Tag} :
    s.eligibleIn cls t = true ↔ s.eligible t = true ∧ ∃ x, s.xchg t = some x ∧ x.jobClass = cls := by
  unfold State.eligibleIn
  cases s.xchg t <;> simp

theorem firstOwner_eligible {s : State} {l : List Requester} {q : Requester} {t : Tag}
    (h : s.firstOwner l = some (q, t)) : s.eligibleIn 5 t = true := by
  induction l with
  | nil => cases h
  | cons r l ih =>
    unfold State.firstOwner at h
    cases ho : s.oldest r with
    | none => exact ih (by simpa [ho] using h)
    | some t' =>
      have : t' = t := by simpa [ho] using congrArg (Option.map Prod.snd) h
      exact this ▸ List.find?_some ho

/-- The exchange that the scheduler chooses is eligible (R93, R94). -/
theorem choose_eligible {s : State} {t : Tag} {p : Requester} (h : s.choose = some (.exchange t p)) :
    s.eligible t = true := by
  have of (cls : Nat) {l : List Tag} {t' : Tag} (e : l.find? (s.eligibleIn cls) = some t') : s.eligible t' = true :=
    (eligibleIn_iff.mp (List.find?_some e)).1
  unfold State.choose at h
  split at h
  · next t' e => cases h; exact of 1 e
  split at h
  · next t' e => cases h; exact of 2 e
  split at h
  · cases h
  split at h
  · next t' e => cases h; exact of 4 e
  obtain ⟨⟨t', p'⟩, hc, he⟩ := Option.map_eq_some_iff.mp h
  cases he
  unfold State.chooseOwner at hc
  split at hc
  · next t' e =>
    cases hc
    split at e
    · exact of 5 e
    · cases e
  · obtain ⟨⟨q, t'⟩, hf, he⟩ := Option.map_eq_some_iff.mp hc
    cases he
    exact (eligibleIn_iff.mp (firstOwner_eligible hf)).1

end Sys2Proof.Machine
end

