-- ==== Sys2Proof/Laws/Symbols.lean ====
section
/-! SUPPORT. The small lemmas of the symbols on the wire: a byte has 10 BT, its bits give it back, the receiver runs over a
list piece by piece, and takes a well-framed byte. -/

namespace Sys2Proof.Machine

theorem byteSyms_length (b : Byte) : (byteSyms b).length = 10 := by simp [byteSyms, byteBits]

theorem byteBits_length (b : Byte) : (byteBits b).length = 8 := by simp [byteBits]

theorem byteOf_byteBits : ∀ b : Byte, byteOf ((byteBits b).map bitSym) = b := by decide +kernel

theorem dataOnly_append (l m : List LineSym) : dataOnly (l ++ m) = (dataOnly l && dataOnly m) := by
  simp [dataOnly, List.all_append]

theorem dataOnly_map_bitSym (l : List Bool) : dataOnly (l.map bitSym) = true := by
  simp only [dataOnly, List.all_map, List.all_eq_true]
  intro b _; cases b <;> rfl

/-- What the receiver makes of a list of BT is what it makes of the rest once it has taken the beginning. -/
theorem Receiver.run_append (r : Receiver) (l m : List (Option LineSym)) :
    r.run (l ++ m) = match r.run l with
      | .goesOn r' => r'.run m
      | .ended bytes => .ended bytes
      | .early => .early := by
  induction l generalizing r with
  | nil => rfl
  | cons o os ih =>
    simp only [List.cons_append, Receiver.run]
    cases r.takeBT o with
    | goesOn r' => exact ih r'
    | ended bytes => rfl
    | early => rfl

/-- A symbol list that begins with 0 is not the beginning of an END mark. -/
theorem not_prefix_of_zero (l : List LineSym) :
    ((LineSym.zero :: l).isPrefixOf Mark.fin.pattern) = false ∧ LineSym.zero :: l ≠ Mark.fin.pattern := by
  constructor
  · rfl
  · intro h; cases h

/-- Inside a byte the receiver takes the data bits that follow its start bit. -/
theorem Receiver.run_bits (bits : List Bool) (bytes : List Byte) (done : List LineSym) (q : Nat)
    (hd : dataOnly done = true) (hlen : done.length + bits.length ≤ 8) :
    ({ bytes := bytes, part := .zero :: done, quiet := q } : Receiver).run (bits.map fun b => some (bitSym b)) =
      .goesOn { bytes := bytes, part := .zero :: done ++ bits.map bitSym, quiet := if bits = [] then q else 0 } := by
  induction bits generalizing done q with
  | nil => simp [Receiver.run]
  | cons b bs ih =>
    have hlen' : done.length + 1 + bs.length ≤ 8 := by simpa [Nat.add_assoc, Nat.add_comm 1] using hlen
    have hb : dataOnly (done ++ [bitSym b]) = true := by
      rw [dataOnly_append, hd]; cases b <;> rfl
    have hz : dataOnly (LineSym.zero :: (done ++ [bitSym b])) = true := hb
    have step : ({ bytes := bytes, part := .zero :: done, quiet := q } : Receiver).takeBT (some (bitSym b)) =
        .goesOn { bytes := bytes, part := .zero :: (done ++ [bitSym b]), quiet := 0 } := by
      have h10 : done.length + 1 + 1 < 10 := by omega
      simp [Receiver.takeBT, Receiver.takeSym, not_prefix_of_zero, hz, h10]
    simp only [List.map_cons, Receiver.run, step]
    rw [ih (done ++ [bitSym b]) 0 hb (by simpa using hlen')]
    simp [List.append_assoc]

/-- The receiver takes a well-framed byte. -/
theorem Receiver.run_byte (bytes : List Byte) (q : Nat) (b : Byte) :
    ({ bytes := bytes, part := [], quiet := q } : Receiver).run ((byteSyms b).map some) =
      .goesOn { bytes := bytes ++ [b], part := [], quiet := 0 } := by
  have start : ({ bytes := bytes, part := [], quiet := q } : Receiver).takeBT (some .zero) =
      .goesOn { bytes := bytes, part := [.zero], quiet := 0 } := rfl
  have bits := Receiver.run_bits (byteBits b) bytes [] 0 rfl (by simp [byteBits_length])
  have stop : ({ bytes := bytes, part := .zero :: (byteBits b).map bitSym, quiet := 0 } : Receiver).takeBT (some .one) =
      .goesOn { bytes := bytes ++ [b], part := [], quiet := 0 } := by
    have hz : dataOnly (LineSym.zero :: ((byteBits b).map bitSym ++ [.one])) = true := by
      show dataOnly ((byteBits b).map bitSym ++ [.one]) = true
      rw [dataOnly_append, dataOnly_map_bitSym]; rfl
    have hl : ((byteBits b).map bitSym).length = 8 := by simp [byteBits_length]
    have ht : ((byteBits b).map bitSym ++ [LineSym.one]).take 8 = (byteBits b).map bitSym := by
      rw [List.take_append_of_le_length (by omega), List.take_of_length_le (by omega)]
    simp [Receiver.takeBT, Receiver.takeSym, not_prefix_of_zero, hz, hl, ht, byteOf_byteBits]
  have shape : (byteSyms b).map some = some .zero :: ((byteBits b).map (fun b => some (bitSym b)) ++ [some .one]) := by
    simp [byteSyms, List.map_map, Function.comp_def]
  rw [shape]
  simp only [Receiver.run, start]
  rw [Receiver.run_append, bits]
  simp only [ite_self, Receiver.run]
  rw [show (LineSym.zero :: [] ++ (byteBits b).map bitSym) = .zero :: (byteBits b).map bitSym from rfl, stop]

end Sys2Proof.Machine
end

