-- ==== Sys2Proof/Tests/Slice0.lean ====
section
/-! SUPPORT. The author's own tests: the checks of WellFormed on ill-formed terms, a few steps on small states, and for
each statement with hypotheses a concrete state that meets them. -/

namespace Sys2Proof.Tests

open Sys2Proof Sys2Proof.Machine

/-! ## Well-formed terms -/

def fields (st : Nat) (c : Chan) : CmdFields := { station := BitVec.ofNat 5 st, chan := c }

theorem test_wf_code_of_the_table : wellFormed (.unknownCommand 0x1D#8 (fields 0 .A)) = false := by decide
theorem test_wf_unheld_writable : wellFormed (.parameterWrite (.unheld 0x0C8#12) 0#32) = false := by decide
theorem test_wf_unheld_misaligned : wellFormed (.parameterWrite (.unheld 0x002#12) 0#32) = false := by decide
theorem test_wf_read_misaligned : wellFormed (.viewSnapshot 0x051#12) = false := by decide
theorem test_wf_short_report : wellFormed (.slotsEnd [.quiet]) = false := by decide
theorem test_wf_empty_fill : wellFormed (.fillEnd .A []) = false := by decide
theorem test_wf_long_fill : wellFormed (.fillEnd .A (List.replicate 257 0#8)) = false := by decide +kernel
theorem test_wf_good_terms :
    wellFormed (.unknownCommand 0x1E#8 (fields 0 .A)) = true ∧ wellFormed (.parameterWrite (.unheld 0x800#12) 0#32) = true ∧
    wellFormed (.viewSnapshot 0x050#12) = true ∧ wellFormed (.slotsEnd (List.replicate 30 .quiet)) = true ∧
    wellFormed (.fillEnd .B [1#8]) = true ∧ wellFormed .resetN = true := by decide +kernel

theorem test_no_word_spells_a_command : decodeTableWord 32 0x12345678 = none := by decide

/-! ## Small states -/

/-- An exchange with the fields a fresh WAITING one has, but for those given. -/
def mk (o : Owner) (k : Kind) (d : Dest) (ph : Phase) (st : XState) (us : List UnitNo) : Exchange where
  owner := o
  kind := k
  dest := d
  regAddr := some 0x10#16
  length := some 4
  signalOp := none
  units := us
  phase := ph
  state := st
  attempts := 1
  busyCount := 0
  seqUsed := none
  unanswered := false
  fence := false
  expired := false
  fillEnd := none
  carried := none
  backoff := none
  deadline := none
  epochSeen := none
  result := none

/-- The table with one exchange, in record 0 and in its owner's creation list. -/
def oneTable (x : Exchange) : Table :=
  ({ State.reset.table with xs := State.reset.table.xs.set 0 (some x) } : Table).setCreation x.owner [0]

/-- Station 1 PRESENT, with capacity 2, epoch 3 and a deferred count. -/
def here (st : StnState) (deferred : Nat) : Entry :=
  { Entry.reset with state := st, capacity := 2, epoch := some 3#4, wasPresent := true, deferred := deferred }

/-- One exchange and the entry of station 1. -/
def one (x : Exchange) (e : Entry) : State :=
  { State.reset with table := oneTable x, dir.entries := State.reset.dir.entries.set 0 e }

/-- The line in a state, working on record 0. -/
def onJob (st : LineState) (ph : Phase) (q : ReqKind) : Line :=
  { Line.reset with state := st, job := some (.attempt 0 ph q) }

def at1 : Dest := .station 0

theorem creation_oneTable (x : Exchange) (o : Owner) : (oneTable x).creation o = if o = x.owner then [0] else [] := by
  unfold oneTable
  rcases h : x.owner with _ | c | _ <;> rcases o with _ | c' | _ <;> try rcases c with _ | _
  all_goals try rcases c' with _ | _
  all_goals rfl

theorem xs_oneTable (x : Exchange) : (oneTable x).xs = State.reset.table.xs.set 0 (some x) := by
  unfold oneTable
  rcases x.owner with _ | c | _ <;> try rcases c with _ | _
  all_goals rfl

theorem xchg_of_one {s : State} {x : Exchange} (h : s.table.xs = State.reset.table.xs.set 0 (some x)) (t : Tag) :
    s.xchg t = if t = 0 then some x else none := by
  by_cases ht : t = 0
  · subst ht; simp [State.xchg, h]
  · have : ¬ 0 = (t : Nat) := fun e => ht (Fin.ext e.symm)
    simp [State.xchg, h, ht, this, State.reset]

theorem only_one {s : State} {x y : Exchange} {t : Tag} (h : s.table.xs = State.reset.table.xs.set 0 (some x))
    (e : s.xchg t = some y) : t = 0 ∧ y = x := by
  rw [xchg_of_one h] at e
  split at e
  · next ht => exact ⟨ht, (Option.some.inj e).symm⟩
  · cases e

/-- The creation lists of a state with one exchange agree with its records. -/
theorem listsAgree_one {s : State} {x : Exchange} (hx : s.table.xs = (oneTable x).xs)
    (hc : ∀ o, s.table.creation o = (oneTable x).creation o) : ListsAgree s where
  nodup o := by
    rw [hc, creation_oneTable]; split <;> decide
  mem o tag := by
    rw [hc, creation_oneTable, xchg_of_one (hx.trans (xs_oneTable x))]
    by_cases ho : o = x.owner <;> by_cases ht : tag = 0 <;> simp [ho, ht, eq_comm]

/-- What PhasesAgree asks of one exchange, as a check. -/
def phaseOk (x : Exchange) : Bool :=
  (x.state != .filling || x.phase == .issue) && (x.state != .parked || x.phase == .collect) &&
  (x.phase == .issue || x.kind == .read) && (x.backoff.isSome == (x.state == .backoff)) &&
  (!x.deadline.isSome || (x.phase == .collect && x.live)) && (x.carried.isSome == (x.phase == .abandon && x.live)) &&
  (!x.expired || (x.phase == .collect && x.state == .onLine)) && (!x.fillEnd.isSome || x.state == .filling) &&
  (x.result.isSome == !x.live)

theorem phasesAgree_one {s : State} {x : Exchange} (hx : s.table.xs = (oneTable x).xs) (h : phaseOk x = true) :
    PhasesAgree s := by
  have key : ∀ {t y}, s.xchg t = some y → y = x := fun e => (only_one (hx.trans (xs_oneTable x)) e).2
  simp only [phaseOk, Bool.and_eq_true, Bool.or_eq_true, bne_iff_ne, beq_iff_eq, Bool.not_eq_true', ne_eq] at h
  obtain ⟨⟨⟨⟨⟨⟨⟨⟨h1, h2⟩, h3⟩, h4⟩, h5⟩, h6⟩, h7⟩, h8⟩, h9⟩ := h
  constructor <;> intro t y e <;> cases key e
  · intro a; exact h1.resolve_left (fun b => b a)
  · intro a; exact h2.resolve_left (fun b => b a)
  · intro a; exact h3.resolve_left a
  · simp [h4]
  · intro a; rcases h5 with b | b
    · simp [a] at b
    · exact b
  · simp [h6]
  · intro a; rcases h7 with b | b
    · simp [a] at b
    · exact b
  · intro a; rcases h8 with b | b
    · simp [a] at b
    · exact b
  · simp [h9]

theorem countsAgree_of {s : State} (h : (allStns.all fun n => (s.entry n).deferred == s.deferredOf n) = true) :
    CountsAgree s := by
  intro n
  have := List.all_eq_true.mp h n (by simp [allStns])
  simpa using this

/-- What ListsAgree asks, as a check. -/
def listsOk (s : State) : Bool :=
  [Owner.window, .list .A, .list .B, .internal].all fun o =>
    decide (s.table.creation o).Nodup &&
      allTags.all fun t => (s.table.creation o).contains t == (s.xchg t).any fun x => x.owner == o

theorem listsAgree_of {s : State} (h : listsOk s = true) : ListsAgree s := by
  have key : ∀ o, decide (s.table.creation o).Nodup = true ∧
      ∀ t, (s.table.creation o).contains t = (s.xchg t).any fun x => x.owner == o := by
    intro o
    have := List.all_eq_true.mp h o (by rcases o with _ | c | _ <;> try rcases c with _ | _
                                        all_goals simp)
    simpa [allTags] using this
  refine ⟨fun o => of_decide_eq_true (key o).1, fun o t => ?_⟩
  have h := (key o).2 t
  cases hx : s.xchg t with
  | none => rw [← List.contains_iff_mem, h, hx]; simp
  | some x => rw [← List.contains_iff_mem, h, hx]; simp

/-- A property of every exchange, as a check. -/
theorem all_of {s : State} {p : Exchange → Bool} (h : (allTags.all fun t => (s.xchg t).all p) = true) {t : Tag}
    {x : Exchange} (e : s.xchg t = some x) : p x = true := by
  have := List.all_eq_true.mp h t (by simp [allTags])
  simpa [e] using this

theorem phasesAgree_of {s : State} (h : (allTags.all fun t => (s.xchg t).all phaseOk) = true) : PhasesAgree s := by
  constructor <;> intro t y e <;> have g := all_of h e <;>
    simp only [phaseOk, Bool.and_eq_true, Bool.or_eq_true, bne_iff_ne, beq_iff_eq, Bool.not_eq_true', ne_eq] at g <;>
    obtain ⟨⟨⟨⟨⟨⟨⟨⟨h1, h2⟩, h3⟩, h4⟩, h5⟩, h6⟩, h7⟩, h8⟩, h9⟩ := g
  · exact fun a => h1.resolve_left (fun b => b a)
  · exact fun a => h2.resolve_left (fun b => b a)
  · exact fun a => h3.resolve_left a
  · simp [h4]
  · exact fun a => h5.resolve_left (by simp [a])
  · simp [h6]
  · exact fun a => h7.resolve_left (by simp [a])
  · exact fun a => h8.resolve_left (by simp [a])
  · simp [h9]

/-- What HoldNamesItsRead asks, as a check. -/
def holdOk (s : State) : Bool :=
  let isRead (n : Stn) (reg : BitVec 16) (x : Exchange) : Bool :=
    x.owner == .window && x.kind == .read && x.dest == .station n && x.regAddr == some reg
  (match s.window.hold with
    | .empty => true
    | .inFlight n reg t => (s.xchg t).any fun x => isRead n reg x && x.live
    | .ready n reg t => (s.xchg t).any fun x => isRead n reg x && x.state == .complete) &&
  allTags.all fun t => (s.xchg t).all fun x => !(x.owner == .window && x.kind == .read) ||
    (match s.window.hold with
      | .empty => false
      | .inFlight _ _ t' | .ready _ _ t' => t' == t)

theorem holdNames_of {s : State} (h : holdOk s = true) : HoldNamesItsRead s := by
  unfold holdOk at h
  rw [Bool.and_eq_true] at h
  refine ⟨?_, fun t x e ho hk => ?_⟩
  · have h := h.1
    cases hh : s.window.hold with
    | empty => trivial
    | inFlight n reg t =>
      rw [hh] at h
      obtain ⟨x, e, k⟩ := (Option.any_eq_true _ _).mp h
      exact ⟨x, e, by simpa [Exchange.isWindowRead, and_assoc] using k⟩
    | ready n reg t =>
      rw [hh] at h
      obtain ⟨x, e, k⟩ := (Option.any_eq_true _ _).mp h
      exact ⟨x, e, by simpa [Exchange.isWindowRead, and_assoc] using k⟩
  · have h := List.all_eq_true.mp h.2 t (by simp [allTags])
    cases hh : s.window.hold with
    | empty => simp [e, ho, hk, hh] at h
    | inFlight n reg t' =>
      have : t' = t := by simpa [e, ho, hk, hh] using h
      exact ⟨n, reg, .inl (by rw [this])⟩
    | ready n reg t' =>
      have : t' = t := by simpa [e, ho, hk, hh] using h
      exact ⟨n, reg, .inr (by rw [this])⟩

/-- What OneOnLine asks, as a check. -/
def oneOk (s : State) : Bool :=
  allTags.all fun t => (s.xchg t).all fun x => x.state != .onLine ||
    ((match s.line.job with
      | some (.attempt t' _ _) => t' == t
      | some .sweep | none => false) &&
      (s.line.state == .sending || s.line.state == .await || s.line.state == .receiving))

theorem oneOnLine_of {s : State} (h : oneOk s = true) : OneOnLine s := by
  intro t x e hx
  have h := List.all_eq_true.mp h t (by simp [allTags])
  cases hj : s.line.job with
  | none => simp [e, hx, hj] at h
  | some j =>
    cases j with
    | sweep => simp [e, hx, hj] at h
    | attempt t' ph q =>
      have h : t' = t ∧ ((s.line.state = .sending ∨ s.line.state = .await) ∨ s.line.state = .receiving) := by
        simpa [e, hx, hj] using h
      exact ⟨⟨ph, q, by rw [h.1]⟩, or_assoc.mp h.2⟩

/-- Two exchanges, in records 0 and 1, with the creation lists of the window, of channel A and of the directory, and the
entry of station 1. -/
def pair (x y : Exchange) (win a int : List Tag) (e : Entry) : State :=
  { State.reset with
    table := { State.reset.table with
      xs := (State.reset.table.xs.set 0 (some x)).set 1 (some y), winList := win, listAList := a, intList := int }
    dir.entries := State.reset.dir.entries.set 0 e }

/-- The counts of QuotasHold, as a check. -/
def quotaCounts (s : State) : Bool :=
  decide (s.countX (fun x => x.owner == .window) ≤ 8) && decide (s.countX (fun x => x.owner == .list .A) ≤ 10) &&
  decide (s.countX (fun x => x.owner == .list .B) ≤ 10) && decide (s.countX (fun x => x.kind == .census) ≤ 1) &&
  decide (s.countX (fun x => x.kind == .purge || x.kind == .stationReset) ≤ 1) &&
  decide (s.countX (fun x => x.kind == .fetchEvent) ≤ 2)

theorem quotasHold_one {s : State} {x : Exchange} (hx : s.table.xs = (oneTable x).xs) (h : quotaCounts s = true)
    (hi : x.owner = .internal ↔ x.kind = .census ∨ x.kind = .purge ∨ x.kind = .stationReset ∨ x.kind = .fetchEvent) :
    QuotasHold s := by
  simp only [quotaCounts, Bool.and_eq_true, decide_eq_true_eq] at h
  obtain ⟨⟨⟨⟨⟨h1, h2⟩, h3⟩, h4⟩, h5⟩, h6⟩ := h
  exact ⟨h1, fun c => by cases c <;> assumption, h4, h5, h6,
    fun t y e => by cases (only_one (hx.trans (xs_oneTable x)) e).2; exact hi⟩

/-- An outcome is a next state with a property, as a check. -/
def runs (o : Host.Outcome State Fault Refusal) (p : State → Bool) : Bool :=
  match o with
  | .next t => p t
  | _ => false

theorem next_of_runs {o : Host.Outcome State Fault Refusal} {p : State → Bool} (h : runs o p = true) :
    ∃ t, o = .next t ∧ p t = true := by
  cases o with
  | next t => exact ⟨t, rfl, h⟩
  | fault f => cases h
  | refused r => cases h

/-! ## A few steps -/

def idle : State := { State.reset with line.state := .idle }

theorem test_crc_of_the_nine_digits : crc16 [0x31, 0x32, 0x33, 0x34, 0x35, 0x36, 0x37, 0x38, 0x39] = 0x29B1#16 := by
  decide +kernel

theorem test_link_start_wakes_the_line :
    runs (exec (.linkStart (fields 0 .A)) State.reset) (fun t => t.line.state == .wake && t.dir.census.length == 30) =
      true := by decide +kernel

theorem test_window_store_posts_a_write :
    runs (exec (.stationWindowStore 0x1010#17 15#4 { b0 := 1#8, b1 := 2#8, b2 := 3#8, b3 := 4#8 })
        { idle with dir.entries := idle.dir.entries.set 0 (here .present 0) })
      (fun t => t.bus.answer == some .done && t.table.winList == [0] && t.store.length == 4) = true := by decide +kernel

theorem test_job_offer_sends_the_frame :
    runs (exec .jobOffer { one (mk .window .read at1 .issue .waiting [0]) (here .present 0) with line.state := .idle })
      (fun t => t.line.state == .sending &&
        (t.line.txFrame.map (·.bytes.take 6)) == some [0x12#8, 0x01#8, 0x00#8, 0x03#8, 0x10#8, 0x00#8]) = true := by
  decide +kernel

theorem test_timeout_backs_off :
    runs (exec .replyWindowExpiry
        { one (mk .window .read at1 .issue .onLine [0]) (here .present 0) with line := onJob .await .issue .read })
      (fun t => t.line.state == .guard && (t.entry 0).failures == 1 &&
        (t.xchg 0).any fun x => x.state == .backoff && x.backoff == some 256) = true := by decide +kernel

/-! ## States that meet the hypotheses: steps, resets and link commands -/

theorem test_witness_StepRunsTheFrontCommand :
    ({ State.reset with pending := [.jobOffer, .resetN] } : State).pending = .jobOffer :: [.resetN] := rfl

theorem test_witness_EmptyQueueIdlesAndNothingStops : State.reset.pending = [] := rfl

theorem test_witness_LinkStart_SweepNow : State.reset.line.state = .off ∧ idle.line.state ≠ .off := by decide

theorem test_witness_LinkStop :
    (CountsAgree idle ∧ idle.line.state = .idle ∧ (∀ tag, idle.xchg tag = none) ∧ idle.dir.census = [] ∧
      idle.dir.recovery = []) ∧ CountsAgree State.reset ∧ State.reset.line.state ≠ .idle :=
  ⟨⟨countsAgree_of (by decide +kernel), by decide +kernel⟩, countsAgree_of (by decide +kernel), by decide⟩

def inLongBreak : State := { State.reset with line.state := .break, line.breakKind := some .long }

/-- The exchanges a link reset meets: finished, filling, freed, and completed. -/
def resetMeets : List Exchange :=
  [ { mk (.list .A) .write at1 .issue .complete [12] with
      result := some { status := .ok, detail := none, replyLength := 0, repeated := false, uncertain := false,
                       epochSeen := none, attempts := 1 } },
    mk (.list .A) .write at1 .issue .filling [12],
    mk .window .write at1 .issue .waiting [0],
    { mk .internal .census at1 .issue .waiting [8] with length := none },
    { mk (.list .B) .write at1 .issue .waiting [12] with unanswered := true },
    mk .window .read at1 .issue .waiting [0] ]

theorem test_witness_LinkResetLineAndRecords :
    (State.reset.line.state = .off ∧ inLongBreak.line.state = .break ∧ inLongBreak.line.breakKind = some .long) ∧
    (∀ x ∈ resetMeets, let s := { one x (here .present 0) with line.state := .idle }
      s.xchg 0 = some x ∧ s.xchg 1 = none ∧ s.line.state ≠ .off ∧ ¬(s.line.state = .break ∧ s.line.breakKind = some .long)) ∧
    resetMeets.map (fun x => (x.state, x.live)) =
      [(.complete, false), (.filling, true), (.waiting, true), (.waiting, true), (.waiting, true), (.waiting, true)] := by
  decide +kernel

/-- An unknown outcome, a census and a STATION_RESET in flight, each with the lists and a RUNNING channel. -/
def resetIn (x : Exchange) : State :=
  { one x (here .suspect 0) with
    line.state := .idle, chanA.state := .running, dir.census := [2], dir.recovery := [(3, .purge), (0, .purge)] }

theorem test_witness_LinkResetDirectoryAndChannels :
    ∀ x ∈ [{ mk (.list .B) .write at1 .issue .waiting [12] with unanswered := true },
        { mk .internal .census at1 .issue .waiting [8] with length := none },
        { mk .internal .stationReset at1 .issue .waiting [] with length := none }],
      ListsAgree (resetIn x) ∧ PhasesAgree (resetIn x) ∧ QuotasHold (resetIn x) ∧ (resetIn x).line.state ≠ .off ∧
      ¬((resetIn x).line.state = .break ∧ (resetIn x).line.breakKind = some .long) ∧ (resetIn x).xchg 0 = some x ∧
      x.live = true ∧ x.dest = .station 0 ∧ ((resetIn x).entry 0).state ≠ .disabled ∧ (0 : Stn) ∉ (resetIn x).dir.census ∧
      (∀ r ∈ (resetIn x).dir.recovery, r.1 = 0 → r.2 = .purge) ∧ ((resetIn x).chan .A).state = .running ∧
      ((resetIn x).chan .B).state = .idle := by
  intro x hx
  have hl : ListsAgree (resetIn x) := listsAgree_one (x := x) rfl fun _ => rfl
  simp only [List.mem_cons, List.not_mem_nil, or_false] at hx
  rcases hx with rfl | rfl | rfl <;>
    exact ⟨hl, phasesAgree_one rfl (by decide +kernel), quotasHold_one rfl (by decide +kernel) (by decide),
      by decide +kernel⟩

/-- The station window at a link reset: its READ in flight, created after a WRITE; the READ done; nothing. -/
def resetWindow (y : Exchange) (h : Hold) (f : Option WinFault) : State :=
  { pair (mk .window .write at1 .issue .waiting [0]) y [0, 1] [] [] (here .present 0) with
    line.state := .idle, window.hold := h, window.fault := f }

theorem test_witness_LinkResetDirectoryAndChannels_window :
    let inFlight := mk .window .read at1 .issue .waiting [1]
    let done := { mk .window .read at1 .issue .complete [1] with
      result := some { status := .ok, detail := none, replyLength := 4, repeated := false, uncertain := false,
                       epochSeen := none, attempts := 1 } }
    let fault : WinFault :=
      { station := 0, reg := 0#16, dir := .read, status := .discarded, detail := none, uncertain := false }
    (∀ f ∈ [none, some fault], ∀ p ∈ [(inFlight, Hold.inFlight 0 0x10#16 1), (done, .ready 0 0x10#16 1)],
      let s := resetWindow p.1 p.2 f
      ListsAgree s ∧ HoldNamesItsRead s ∧ s.line.state ≠ .off ∧ s.line.state ≠ .break ∧ s.window.hold = p.2 ∧
      s.window.fault = f ∧ s.xchg 0 = some (mk .window .write at1 .issue .waiting [0]) ∧
      (s.table.winList.filter fun tag => (s.xchg tag).any Exchange.live) =
        (if p.1 = inFlight then [0, 1] else [0]) ∧
      ∀ tag x, s.xchg tag = some x →
        (x.kind = .write ∨ x.kind = .read) ∧ x.state ≠ .filling ∧ x.dest = .station 0 ∧ x.regAddr = some 0x10#16) ∧
    ListsAgree idle ∧ HoldNamesItsRead idle ∧ idle.window.hold = .empty ∧ idle.window.fault = none := by
  intro inFlight done fault
  refine ⟨fun f hf p hp => ⟨listsAgree_of ?_, holdNames_of ?_, ?_⟩, listsAgree_of (by decide +kernel),
    holdNames_of (by decide +kernel), rfl, rfl⟩
  · revert f p; decide +kernel
  · revert f p; decide +kernel
  · have e : (allTags.all fun t => ((resetWindow p.1 p.2 f).xchg t).all fun x => (x.kind == .write || x.kind == .read) &&
        x.state != .filling && x.dest == .station 0 && x.regAddr == some 0x10#16) = true := by
      revert f p; decide +kernel
    refine ⟨?_, ?_, ?_, ?_, ?_, ?_, fun t x h => by simpa [and_assoc] using all_of e h⟩ <;> clear e <;> revert f p <;>
      decide +kernel

theorem test_witness_CensusCommand :
    State.reset.regs.commandMask &&& stationBits = 0#32 ∧
    ({ State.reset with regs.commandMask := 2#32 } : State).regs.commandMask &&& stationBits ≠ 0#32 ∧
    ({ State.reset with regs.commandMask := 0x40000000#32 } : State).regs.commandMask &&& stationBits ≠ 0#32 := by
  decide

/-! ## Station commands -/

/-- Station 1 in a state, with nothing else. -/
def stn (st : StnState) : State := { idle with dir.entries := idle.dir.entries.set 0 (here st 0) }

theorem test_witness_station_fields :
    (fields 0 .A).station = 0#5 ∧ (fields 31 .A).station = 31#5 ∧ (fields 1 .A).station.toNat = addrOf 0 ∧
    (fields 30 .A).station.toNat = addrOf 29 := by decide

theorem test_witness_StationHoldAndRelease :
    ((stn .present).entry 0).state = .present ∧ ((stn .suspect).entry 0).state = .suspect ∧
    ((stn .vacant).entry 0).state ≠ .present ∧ ((stn .vacant).entry 0).state ≠ .suspect ∧
    (let s := one { mk (.list .A) .read at1 .collect .parked [12] with deadline := some (.running 65536) }
        { here .held 1 with keptReady := true }
     CountsAgree s ∧ (s.entry 0).state = .held ∧ (s.entry 0).keptReady = true) ∧
    CountsAgree (stn .present) ∧ ((stn .present).entry 0).state ≠ .held :=
  ⟨by decide +kernel, by decide +kernel, by decide +kernel, by decide +kernel,
    ⟨countsAgree_of (by decide +kernel), by decide +kernel⟩, countsAgree_of (by decide +kernel), by decide +kernel⟩

theorem test_witness_StationDisable :
    ((stn .disabled).entry 0).state = .disabled ∧
    (let s := one (mk .window .write at1 .issue .waiting [0]) (here .present 0)
     (s.entry 0).state ≠ .disabled ∧
       ∃ tag x, s.xchg tag = some x ∧ x.dest = .station 0 ∧ x.state ≠ .complete ∧ x.state ≠ .draining) ∧
    ((stn .present).entry 0).state ≠ .disabled ∧ ∀ tag, (stn .present).xchg tag = none :=
  ⟨by decide +kernel, ⟨by decide +kernel, 0, _, xchg_of_one rfl 0, by decide⟩, by decide +kernel, by decide +kernel⟩

theorem test_witness_StationEnable :
    CountsAgree (stn .disabled) ∧ DisabledIsIdle (stn .disabled) ∧ ((stn .disabled).entry 0).state = .disabled ∧
    CountsAgree (stn .held) ∧ DisabledIsIdle (stn .held) ∧ ((stn .held).entry 0).state ≠ .disabled := by
  have none_yet : ∀ tag, State.reset.xchg tag = none := by decide +kernel
  have free : ∀ st tag, (stn st).xchg tag = none := fun _ tag => none_yet tag
  have idl : ∀ st, DisabledIsIdle (stn st) := fun st n tag x _ e => by rw [free] at e; cases e
  exact ⟨countsAgree_of (by decide +kernel), idl _, by decide +kernel, countsAgree_of (by decide +kernel), idl _,
    by decide +kernel⟩

theorem test_witness_StationResetCommand :
    ((stn .silent).entry 0).state = .silent ∧ ((stn .resync).entry 0).state = .resync ∧
    (∀ r ∈ (stn .resync).dir.recovery, r.1 ≠ 0) ∧
    ({ stn .resync with dir.recovery := [(4, .purge), (0, .purge), (2, .reset)] } : State).dir.recovery =
      [(4, .purge)] ++ (0, .purge) :: [(2, .reset)] ∧
    ∀ r ∈ [((4 : Stn), RecAction.purge)] ++ [(2, .reset)], r.1 ≠ 0 := by decide +kernel

/-! ## Lists, events, causes and registers -/

def chanIn (st : ChanState) : State := { idle with chanA.state := st }

theorem test_witness_ListStartPauseAndResume :
    ((chanIn .idle).chan .A).state = .idle ∧ ((chanIn .halted).chan .A).state = .halted ∧
    ((chanIn .running).chan .A).state = .running ∧ ((chanIn .paused).chan .A).state = .paused ∧
    (fields 0 .A).chan = .A := by decide

theorem test_witness_ListContinue :
    (let c := ({ idle with chanA.state := .halted, chanA.haltCause := some .failed } : State).chan .A
     c.state = .halted ∧ c.haltCause = some .failed ∧ c.endMark = false) ∧
    (let c := ({ idle with chanA.state := .halted, chanA.haltCause := some .memoryFault } : State).chan .A
     c.state = .halted ∧ c.haltCause ≠ some .failed ∧ c.haltCause ≠ some .linkReset) := by decide

/-- What an abort meets: every row of R20 for the channel, a finished exchange, and another owner's. -/
def abortMeets : List Exchange :=
  [ mk (.list .A) .write at1 .issue .waiting [12],
    { mk (.list .A) .write at1 .issue .backoff [12] with backoff := some 256 },
    mk (.list .A) .write at1 .issue .filling [12],
    mk (.list .A) .write at1 .issue .onLine [12],
    { mk (.list .A) .read at1 .collect .parked [12] with deadline := some (.running 65536) },
    { mk (.list .A) .read at1 .collect .waiting [12] with deadline := some (.running 65536) },
    { mk (.list .A) .read at1 .collect .onLine [12] with deadline := some (.running 65536) },
    { mk (.list .A) .read at1 .abandon .waiting [12] with carried := some { status := .deferExpired, fault := none } },
    mk (.list .A) .write at1 .issue .draining [12],
    mk .window .write at1 .issue .waiting [0] ]

theorem test_witness_ListAbort :
    ((chanIn .idle).chan .A).state = .idle ∧ ((chanIn .aborting).chan .A).state = .aborting ∧
    ∀ x ∈ abortMeets, let s := { one x (here .present 0) with chanA.state := .running }
      ListsAgree s ∧ s.xchg 0 = some x ∧ (s.chan .A).state ≠ .idle ∧ (s.chan .A).state ≠ .aborting :=
  ⟨by decide, by decide, fun x _ =>
    ⟨listsAgree_one (x := x) rfl fun _ => rfl, xchg_of_one (xs_oneTable x) 0, by simp [State.chan], by simp [State.chan]⟩⟩

/-- The ends of an abort: nothing left; a fetch under way and no exchange; an unknown outcome; a READ unheard. -/
theorem test_witness_ListAbort_ends :
    (let s := chanIn .stopping
     ListsAgree s ∧ (∀ tag, s.xchg tag = none) ∧ (s.chan .A).portOp = none ∧ (s.chan .A).queue = [] ∧
       runs (exec (.listAbort (fields 0 .A)) s) (fun t => (t.chan .A).state == .idle) = true) ∧
    (let s := { chanIn .running with chanA.portOp := some (.fetch false) }
     ListsAgree s ∧ (∀ tag, s.xchg tag = none) ∧ (s.chan .A).portOp = some (.fetch false) ∧
       runs (exec (.listAbort (fields 0 .A)) s) (fun t => (t.chan .A).state == .aborting && (t.chan .A).cancel == .none) =
         true) ∧
    (∀ x ∈ [{ mk (.list .A) .write at1 .issue .backoff [12] with unanswered := true },
        mk (.list .A) .read at1 .issue .backoff [12]],
      let s := { one x (here .present 0) with chanA.state := .running }
      ListsAgree s ∧ CountsAgree s ∧ s.xchg 0 = some x ∧ 0 < x.attempts ∧ 1 ≤ (s.entry 0).capacity ∧
        (s.entry 0).purgeNeeded = false ∧ (s.entry 0).state = .present ∧
        runs (exec (.listAbort (fields 0 .A)) s) (fun t => (t.chan .A).state == .aborting &&
          (t.chan .A).cancel == .abort && t.table.complA == [0] && (t.entry 0).seqUncertain == x.unanswered &&
          (t.entry 0).purgeNeeded == (x.kind == .read)) = true) := by
  refine ⟨⟨listsAgree_of (by decide +kernel), by decide +kernel⟩, ⟨listsAgree_of (by decide +kernel), by decide +kernel⟩,
    fun x hx => ⟨listsAgree_of ?_, countsAgree_of ?_, ?_⟩⟩ <;> revert x <;> decide +kernel

def event1 : EventEntry := { station := 0, epoch := 3#4, code := 7#16, detail := [] }

theorem test_witness_EventWindowAndChangeCommands :
    idle.events.queue = [] ∧ ({ idle with events.queue := [event1] } : State).events.queue = event1 :: [] := by decide

theorem countsInRange_reset : CountsInRange State.reset := by
  refine ⟨?_, ?_, ?_, ?_, ?_⟩ <;> decide +kernel

theorem test_witness_CausesEnableAndTheInterruptLine : CountsInRange State.reset := countsInRange_reset

theorem test_witness_IntervalTimers :
    idle.sweep.timer = none ∧ ({ idle with sweep.timer := some 1024 } : State).sweep.timer ≠ none ∧
    idle.dir.rediscovery = none ∧ ({ idle with dir.rediscovery := some 1024 } : State).dir.rediscovery ≠ none := by decide

theorem test_witness_ParameterWritesAndReads : State.reset.regs.InRange := by
  constructor <;> decide

theorem test_witness_ViewSnapshot : (0x001#12).toNat % 4 ≠ 0 ∧ (0xFFF#12).toNat % 4 ≠ 0 := by decide

theorem test_witness_ParameterWritesAndReads_counts :
    EventRoom State.reset ∧ QuotasHold State.reset ∧ CountsInRange State.reset := by
  have none : ∀ t, State.reset.xchg t = none := by decide +kernel
  refine ⟨?_, ⟨by decide +kernel, fun c => by cases c <;> decide +kernel, by decide +kernel, by decide +kernel,
    by decide +kernel, fun t x e => by rw [none] at e; cases e⟩, countsInRange_reset⟩
  show State.reset.events.queue.length + State.reset.countX _ ≤ 16
  decide +kernel

theorem test_command_words :
    [0x00000001#32, 0x00011E14#32, 0xFFFE050C#32, 0x00000106#32].map decodeCommand =
      [.linkStart (fields 0 .A), .listAbort (fields 30 .B), .stationReset (fields 5 .A),
        .unknownCommand 0x06#8 (fields 1 .A)] ∧
    (0x800#12).toNat % 4 = 0 ∧ 0x800#12 ∉ writableOffsets ∧ registerWrite 0x040#12 7#4 0x1#32 = .registerAccessError := by
  decide +kernel

theorem test_witness_ViewSnapshot_layouts :
    (0xFFC#12).toNat % 4 = 0 ∧ 0xFFC#12 ∉ writableOffsets ∧ idle.events.queue = [] ∧ idle.xchg 31 = none ∧
    ({ idle with events.queue := [event1] } : State).events.queue = event1 :: [] ∧
    (one (mk .window .write at1 .issue .waiting [0]) (here .present 0)).xchg 0 =
      some (mk .window .write at1 .issue .waiting [0]) := by decide +kernel

/-! ## The station window -/

/-- WINDOW at its quota: eight WRITEs, in records 0 to 7. -/
def windowFull : State :=
  { stn .present with
    table := { idle.table with
      xs := Vector.ofFn fun t => if h : t.val < 8 then some (mk .window .write at1 .issue .waiting [⟨t.val, by omega⟩]) else none
      winList := [0, 1, 2, 3, 4, 5, 6, 7] } }

theorem test_witness_WindowAccessesRefused :
    (CountsAgree (stn .vacant) ∧ (0x1000#17).toNat / 4096 = addrOf 0 ∧ (0x1002#17).toNat % 4 ≠ 0 ∧
      (0x0FFC#17).toNat / 4096 = 0 ∧ (0x1F000#17).toNat / 4096 = 31 ∧ (0x1EFFC#17).toNat / 4096 = addrOf 29 ∧
      ((stn .vacant).entry 0).state = .vacant ∧ (stn .vacant).window.hold = .empty) ∧
    (CountsAgree windowFull ∧ windowFull.countX (fun x => x.owner == .window) = 8 ∧ (windowFull.entry 0).state = .present ∧
      windowFull.window.hold = .empty) ∧
    (∀ h ∈ [Hold.inFlight 0 0#16 0, .inFlight 0 4#16 0, .ready 1 0#16 0],
      ({ stn .present with window.hold := h } : State).window.hold = h) :=
  ⟨⟨countsAgree_of (by decide +kernel), by decide +kernel⟩, ⟨countsAgree_of (by decide +kernel), by decide +kernel⟩,
    fun _ _ => rfl⟩

theorem test_witness_WindowAccessesCreate :
    CountsAgree (stn .present) ∧ Memory.wf (stn .present).store = true ∧ (0x1FFC#17).toNat / 4096 = addrOf 0 ∧
    (0x1FFC#17).toNat % 4 = 0 ∧ ((stn .present).entry 0).state = .present ∧
    (stn .present).countX (fun x => x.owner == .window) < 8 ∧ (stn .present).window.hold = .empty ∧
    (stn .present).xchg 0 = none ∧ (∀ t' : Tag, t' < 0 → (stn .present).xchg t' ≠ none) ∧ (0 : UnitNo).val < 8 ∧
    (stn .present).unitHeld 0 = false ∧ ∀ u' : UnitNo, u'.val < (0 : UnitNo).val → (stn .present).unitHeld u' = true :=
  ⟨countsAgree_of (by decide +kernel), by decide +kernel⟩

/-- A window READ that has completed, READY in the hold. -/
def heldRead (st : Status) : Exchange :=
  { mk .window .read at1 .issue .complete [0] with
    result := some { status := st, detail := none, replyLength := 4, repeated := false, uncertain := false,
                     epochSeen := some 3#4, attempts := 1 } }

def oldFault : WinFault :=
  { station := 0, reg := 0#16, dir := .read, status := .discarded, detail := none, uncertain := false }

theorem test_witness_WindowClaimAndExpiry :
    ∀ st ∈ [Status.ok, .short, .retryExhausted], ∀ f ∈ [none, some oldFault],
      let s := { one (heldRead st) (here .present 0) with
        window.hold := .ready 0 0x10#16 0, window.timer := some 4096, window.fault := f }
      CountsAgree s ∧ s.window.hold = .ready 0 0x10#16 0 ∧ s.xchg 0 = some (heldRead st) ∧
      (heldRead st).owner = .window ∧ (heldRead st).state = .complete ∧ (heldRead st).result.map (·.status) = some st ∧
      (0x1010#17).toNat / 4096 = addrOf 0 ∧ (0x1010#17).toNat % 4 = 0 ∧
      BitVec.ofNat 16 ((0x1010#17).toNat % 4096) = 0x10#16 ∧ s.window.timer ≠ none ∧ s.window.fault = f := by
  intro st hst f _
  simp only [List.mem_cons, List.not_mem_nil, or_false] at hst
  have hc : CountsAgree (one (heldRead st) (here .present 0)) := by
    rcases hst with rfl | rfl | rfl <;> exact countsAgree_of (by decide +kernel)
  rcases hst with rfl | rfl | rfl <;>
    exact ⟨hc, rfl, xchg_of_one (xs_oneTable _) 0, rfl, rfl, rfl, by decide, by decide,
      by decide, Option.some_ne_none _, rfl⟩

/-! ## The scheduler -/

/-- One exchange with the line IDLE and station 1 in a state. -/
def offered (x : Exchange) (st : StnState) : State :=
  { one x (here st (if x.phase = .issue then 0 else 1)) with line.state := .idle }

def abandonRead : Exchange :=
  { mk (.list .A) .read at1 .abandon .waiting [12] with carried := some { status := .deferExpired, fault := none } }
def collectRead : Exchange :=
  { mk (.list .A) .read at1 .collect .waiting [12] with deadline := some (.running 65536) }
def purge1 : Exchange := { mk .internal .purge at1 .issue .waiting [] with regAddr := none, length := none }
def census1 : Exchange := { mk .internal .census at1 .issue .waiting [8] with regAddr := none, length := none }
def winWrite : Exchange := mk .window .write at1 .issue .waiting [0]
def listWrite : Exchange := mk (.list .A) .write at1 .issue .waiting [12]
def bcast : Exchange := mk (.list .A) .bcastWrite .broadcast .issue .waiting [12]

theorem test_witness_JobOfferTakesTheChoice :
    (CountsAgree State.reset ∧ State.reset.line.state ≠ .idle) ∧
    (CountsAgree idle ∧ idle.line.state = .idle ∧ idle.choose = none) ∧
    (CountsAgree { idle with sweep.due := true } ∧ ({ idle with sweep.due := true } : State).choose = some .sweep) ∧
    (CountsAgree (offered winWrite .present) ∧ (offered winWrite .present).choose = some (.exchange 0 .window)) ∧
    (CountsAgree (offered bcast .present) ∧ (offered bcast .present).choose = some (.exchange 0 .listA)) :=
  ⟨⟨countsAgree_of (by decide +kernel), by decide⟩, ⟨countsAgree_of (by decide +kernel), by decide +kernel⟩,
    ⟨countsAgree_of (by decide +kernel), by decide +kernel⟩, ⟨countsAgree_of (by decide +kernel), by decide +kernel⟩,
    ⟨countsAgree_of (by decide +kernel), by decide +kernel⟩⟩

theorem test_witness_JobOfferTakesOnlyEligible :
    ∀ x ∈ [abandonRead, collectRead, census1, winWrite, listWrite, bcast],
      ListsAgree (offered x .present) ∧ (offered x .present).line.state = .idle ∧
      runs (exec .jobOffer (offered x .present)) (fun t => t.line.state == .sending &&
          t.line.job == some (.attempt 0 x.phase (requestKind x))) = true := by
  intro x hx
  refine ⟨listsAgree_one (x := x) rfl fun _ => rfl, rfl, ?_⟩
  revert x; decide +kernel

/-- A COMPLETE record of channel A that keeps its unanswered mark holds a WRITE to its station back, and not a census. -/
theorem test_a_marked_record_holds_a_write_back :
    let unknown : Exchange := { listWrite with
      state := .complete, unanswered := true, seqUsed := some false
      result := some { status := .retryExhausted, detail := some (.fault .timeout), replyLength := 0, repeated := false
                       uncertain := true, epochSeen := none, attempts := 4 } }
    let s (x y : Exchange) (win int : List Tag) : State :=
      { pair x y win [0] int (here .present 0) with line.state := .idle }
    (s unknown winWrite [1] []).choose = none ∧
    (s { unknown with unanswered := false } winWrite [1] []).choose = some (.exchange 1 .window) ∧
    (s unknown census1 [] [1]).choose = some (.exchange 1 .listB) := by decide +kernel

theorem test_witness_JobOfferTakesOnlyEligible_converse :
    ∀ p ∈ [(abandonRead, StnState.present), (collectRead, .suspect), (census1, .vacant), (census1, .recovering),
        (winWrite, .present), (listWrite, .suspect), (bcast, .held), (purge1, .resync)],
      ListsAgree (offered p.1 p.2) ∧ (offered p.1 p.2).xchg 0 = some p.1 ∧ p.1.state = .waiting ∧
      (offered p.1 p.2).eligible 0 = true := by
  intro p hp
  refine ⟨listsAgree_one (x := p.1) rfl fun _ => rfl, xchg_of_one (xs_oneTable p.1) 0, ?_⟩
  revert p; decide +kernel

theorem test_witness_JobOfferOrder :
    (ListsAgree (offered purge1 .resync) ∧ QuotasHold (offered purge1 .resync) ∧
      (offered purge1 .resync).choose = some (.exchange 0 .listB) ∧ purge1.jobClass = 1) ∧
    (ListsAgree (offered collectRead .present) ∧ QuotasHold (offered collectRead .present) ∧
      (offered collectRead .present).choose = some (.exchange 0 .listB) ∧ collectRead.jobClass = 2) ∧
    (ListsAgree (offered census1 .vacant) ∧ QuotasHold (offered census1 .vacant) ∧
      (offered census1 .vacant).choose = some (.exchange 0 .listB) ∧ census1.jobClass = 4) ∧
    (let s := { offered winWrite .present with regs.windowFirst := true }
     ListsAgree s ∧ QuotasHold s ∧ s.choose = some (.exchange 0 .listB) ∧ winWrite.jobClass = 5) ∧
    (let s := { offered listWrite .present with regs.windowFirst := true }
     ListsAgree s ∧ QuotasHold s ∧ s.choose = some (.exchange 0 .listA)) ∧
    (let s := { offered winWrite .held with sweep.due := true }
     ListsAgree s ∧ QuotasHold s ∧ s.choose = some .sweep) ∧
    (ListsAgree (offered winWrite .held) ∧ QuotasHold (offered winWrite .held) ∧ (offered winWrite .held).choose = none) := by
  refine ⟨⟨?_, ?_, by decide +kernel⟩, ⟨?_, ?_, by decide +kernel⟩, ⟨?_, ?_, by decide +kernel⟩,
    ⟨?_, ?_, by decide +kernel⟩, ⟨?_, ?_, by decide +kernel⟩, ⟨?_, ?_, by decide +kernel⟩, ⟨?_, ?_, by decide +kernel⟩⟩
  all_goals first
    | exact listsAgree_one (x := purge1) rfl fun _ => rfl
    | exact listsAgree_one (x := collectRead) rfl fun _ => rfl
    | exact listsAgree_one (x := census1) rfl fun _ => rfl
    | exact listsAgree_one (x := winWrite) rfl fun _ => rfl
    | exact listsAgree_one (x := listWrite) rfl fun _ => rfl
    | exact quotasHold_one (x := purge1) rfl (by decide +kernel) (by decide)
    | exact quotasHold_one (x := collectRead) rfl (by decide +kernel) (by decide)
    | exact quotasHold_one (x := census1) rfl (by decide +kernel) (by decide)
    | exact quotasHold_one (x := winWrite) rfl (by decide +kernel) (by decide)
    | exact quotasHold_one (x := listWrite) rfl (by decide +kernel) (by decide)

theorem test_witness_RequestFrameBytes :
    winWrite.dest = .station 0 ∧ winWrite.kind = .write ∧ abandonRead.phase = .abandon ∧ collectRead.phase = .collect ∧
    census1.kind = .census ∧ purge1.kind = .purge ∧ bcast.dest = .broadcast ∧ bcast.kind = .bcastWrite := by decide

/-! ## The line and the outcomes of attempts -/

/-- Record 0 on the line, with station 1 in a state. -/
def working (l : LineState) (x : Exchange) (st : StnState) : State :=
  { one x (here st (if x.phase = .issue then 0 else 1)) with line := onJob l x.phase (requestKind x) }

def onLine (x : Exchange) : Exchange := { x with state := .onLine }

theorem counts_working (l : LineState) {x : Exchange} {st : StnState}
    (h : (allStns.all fun n => ((working .await x st).entry n).deferred == (working .await x st).deferredOf n) = true) :
    CountsAgree (working l x st) := countsAgree_of h

theorem lists_working (l : LineState) (x : Exchange) (st : StnState) : ListsAgree (working l x st) :=
  listsAgree_one (x := x) rfl fun _ => rfl

theorem xchg_working (l : LineState) (x : Exchange) (st : StnState) : (working l x st).xchg 0 = some x :=
  xchg_of_one (xs_oneTable x) 0

def lineIn (st : LineState) : State := { State.reset with line.state := st }

theorem test_witness_RequestFrameBytes_symbols :
    (let f : Frame := { bytes := [0x21#8], closing := .fin }
     let s := { lineIn .sending with line.txFrame := some f }
     s.line.contentionWait = false ∧ s.line.txFrame = some f ∧ s.driven =
       [.one, .zero, .one, .zero, .one, .zero, .one, .zero, .high, .low, .one, .zero,
        .zero, .one, .zero, .zero, .zero, .zero, .one, .zero, .zero, .one, .high, .high, .low, .low]) ∧
    (lineIn .wake).line.contentionWait = false ∧
    (∀ k ∈ [BreakKind.short, .long], let s := { lineIn .break with line.breakKind := some k }
      s.line.state = .break ∧ s.line.breakKind = some k) ∧
    (∀ st ∈ [LineState.off, .idle, .await, .receiving, .guard, .slots], (lineIn st).line.state ≠ .sending ∧
      (lineIn st).line.state ≠ .wake ∧ (lineIn st).line.state ≠ .break) ∧
    (let s := { lineIn .wake with line.contentionWait := true }
     s.line.contentionWait = true ∧ s.line.state ≠ .break) ∧
    [LineSym.one, .one, .one, .one] ∉
      [[LineSym.one, .zero, .one, .one], [.one, .one, .zero, .one], [.one, .zero, .zero, .one]] := by decide +kernel

theorem test_witness_LineEvents :
    (let s := working .sending (onLine winWrite) .present
     CountsAgree s ∧ s.line.state = .sending ∧ s.line.job = some (.attempt 0 .issue .write) ∧
       s.xchg 0 = some (onLine winWrite)) ∧
    (let s := ({ lineIn .sending with line.job := some .sweep } : State)
     s.line.state = .sending ∧ s.line.job = some .sweep ∧ s.line.contentionWait = false) ∧
    (∀ st ∈ [LineState.await, .receiving, .break, .guard, .wake], (lineIn st).line.state = st) ∧
    (lineIn .wake).line.contentionWait = false ∧ (lineIn .wake).line.job = none ∧
    ({ lineIn .wake with line.contentionWait := true } : State).line.contentionWait = true :=
  ⟨⟨counts_working _ (by decide +kernel), rfl, rfl, xchg_working _ _ _⟩, by decide, by decide, by decide⟩

theorem test_witness_BroadcastCompletes :
    let s := working .sending (onLine bcast) .present
    ListsAgree s ∧ CountsAgree s ∧ s.line.state = .sending ∧ s.line.job = some (.attempt 0 .issue .bcastWrite) ∧
    s.xchg 0 = some (onLine bcast) ∧ (onLine bcast).attempts < s.regs.retryLimit + 1 ∧ (s.chan .A).cancel = .none ∧
    s.line.contentionWait = false ∧ ∀ c, s.hasFailure c = false :=
  ⟨lists_working _ _ _, counts_working _ (by decide +kernel), rfl, rfl, xchg_working _ _ _, by decide, rfl, rfl,
    fun c => by cases c <;> rfl⟩

theorem test_witness_BroadcastCompletes_exhausted :
    let x := { onLine bcast with attempts := 4 }
    let s := working .sending x .present
    ListsAgree s ∧ CountsAgree s ∧ s.line.state = .sending ∧ s.line.job = some (.attempt 0 .issue .bcastWrite) ∧
    s.xchg 0 = some x ∧ x.state = .onLine ∧ x.phase = .issue ∧ s.regs.retryLimit + 1 ≤ x.attempts ∧
    s.line.contentionWait = false ∧ ∀ c, (s.chan c).state ≠ .running ∧ (s.chan c).state ≠ .paused :=
  ⟨lists_working _ _ _, counts_working _ (by decide +kernel), rfl, rfl, xchg_working _ _ _, rfl, rfl,
    (by decide : State.reset.regs.retryLimit + 1 ≤ 4), rfl,
    fun c => by cases c <;> exact (by decide : ChanState.idle ≠ .running ∧ ChanState.idle ≠ .paused)⟩

theorem test_witness_LostAttemptIsRetried :
    (∀ l ∈ [LineState.await, .sending],
      let s := working l (onLine winWrite) .present
      CountsAgree s ∧ s.line.state = l ∧ s.line.job = some (.attempt 0 .issue .write) ∧
      s.xchg 0 = some (onLine winWrite) ∧ (onLine winWrite).attempts < s.regs.retryLimit + 1 ∧
      s.cancelOf (onLine winWrite).owner = .none ∧ min 15 ((s.entry 0).failures + 1) < s.regs.silentThreshold) ∧
    (∀ k ∈ [0, 2],
      let s := { working .receiving (onLine winWrite) .present with line.settling := true, line.faultCount := k }
      CountsAgree s ∧ s.line.state = .receiving ∧ s.line.settling = true ∧ s.line.faultCount = k ∧
      s.regs.lineFaultLimit = 3) :=
  ⟨fun l _ => ⟨counts_working l (by decide +kernel), rfl, rfl, xchg_working _ _ _,
      (by decide : (onLine winWrite).attempts < State.reset.regs.retryLimit + 1), rfl,
      (by decide +kernel : min 15 (((working .await (onLine winWrite) .present).entry 0).failures + 1) < 8)⟩,
    fun _ _ => ⟨counts_working .receiving (by decide +kernel), rfl, rfl, rfl, rfl⟩⟩

/-- Three replies to tag 0 of station 1 that are lost: a bad CRC, a byte too many, another station. -/
def lostReplies : List (List Byte × FaultKind) :=
  [([0x21#8, 1#8, 0#8, 3#8, 0#8, 0#8, 0#8], .crc), (List.replicate 8 0x21#8, .framing),
   (let body : List Byte := [0x21#8, 2#8, 0#8, 3#8, 0#8]
    body ++ crcBytes body, .wrongStation)]

theorem test_witness_LostAttemptIsRetried_replies :
    ∀ p ∈ lostReplies, ∀ k ∈ [0, 2],
      let s := { working .receiving (onLine winWrite) .present with line.faultCount := k }
      CountsAgree s ∧ s.line.state = .receiving ∧ s.line.settling = false ∧ s.line.faultCount = k ∧
      s.regs.lineFaultLimit = 3 ∧ judgeReply 0 (onLine winWrite) p.1 = .outcome (.lost p.2) := by
  intro p hp k hk
  refine ⟨counts_working .receiving (by decide +kernel), rfl, rfl, rfl, rfl, ?_⟩
  clear hk; revert p; decide +kernel

/-- The last attempt. -/
def lastTry (x : Exchange) : Exchange := { onLine x with attempts := 4, unanswered := x.kind.nonIdem }

/-- The commands that lose the last attempt of record 0 to a retried fault, each with its line state. -/
def losing : List (LineState × Bool × Instr × FaultKind) :=
  [(.await, false, .replyWindowExpiry, .timeout), (.receiving, true, .lineSettled, .framing),
   (.receiving, true, .stuckLineTimeout, .framing), (.sending, false, .contention, .contention)] ++
  lostReplies.map fun p => (.receiving, false, .replyReceived p.1, p.2)

theorem test_witness_RetriesUsedUp_commands :
    ∀ x ∈ [lastTry (mk (.list .A) .read at1 .issue .waiting [12]), lastTry listWrite, lastTry winWrite], ∀ p ∈ losing,
      let s := { working p.1 x .present with line.settling := p.2.1 }
      ListsAgree s ∧ s.line.job = some (.attempt 0 x.phase (requestKind x)) ∧ s.xchg 0 = some x ∧
      s.endsAttempt p.2.2.1 0 x (.lost p.2.2.2) ∧
      runs (exec p.2.2.1 s) (fun t => (t.line.lastFault.map (·.kind)) == some p.2.2.2) = true := by
  intro x hx p hp
  refine ⟨listsAgree_one (x := x) rfl fun _ => rfl, rfl, xchg_of_one (xs_oneTable x) 0, ?_, ?_⟩
  · have lost : ∀ x ∈ [lastTry (mk (.list .A) .read at1 .issue .waiting [12]), lastTry listWrite, lastTry winWrite],
        ∀ p ∈ lostReplies, judgeReply 0 x p.1 = .outcome (.lost p.2) := by decide +kernel
    rcases List.mem_append.mp hp with hp | hp
    · simp only [List.mem_cons, List.not_mem_nil, or_false] at hp
      rcases hp with rfl | rfl | rfl | rfl
      · exact .inl ⟨rfl, rfl, rfl⟩
      · exact .inr (.inr (.inl ⟨.inl rfl, rfl, rfl, rfl⟩))
      · exact .inr (.inr (.inl ⟨.inr rfl, rfl, rfl, rfl⟩))
      · exact .inr (.inr (.inr ⟨rfl, rfl, rfl, rfl⟩))
    · obtain ⟨q, hq, rfl⟩ := List.mem_map.mp hp
      exact .inr (.inl ⟨q.1, rfl, rfl, rfl, lost x hx q hq⟩)
  · revert x p; decide +kernel

theorem test_witness_RetriesUsedUp :
    ∀ x ∈ [lastTry (mk (.list .A) .read at1 .issue .waiting [12]), lastTry listWrite, lastTry winWrite],
      let s := working .await x .present
      ListsAgree s ∧ s.line.state = .await ∧ s.line.job = some (.attempt 0 x.phase (requestKind x)) ∧
      s.xchg 0 = some x ∧ x.state = .onLine ∧ x.dest = .station 0 ∧ x.phase = .issue ∧ s.regs.retryLimit + 1 ≤ x.attempts ∧
      min 15 ((s.entry 0).failures + 1) < s.regs.silentThreshold ∧ 1 ≤ (s.entry 0).capacity ∧
      s.cancelOf x.owner = .none ∧ s.window.fault = none := by
  intro x hx
  refine ⟨lists_working _ _ _, rfl, rfl, xchg_working _ _ _, ?_⟩
  revert x; decide +kernel

/-! ## Replies -/

/-- A reply from station 1 to tag 0, of epoch 3. -/
def replyOf (kind second count : Byte) (payload : List Byte) : List Byte :=
  let body := [kind, second, 0#8, 3#8, count] ++ payload
  body ++ crcBytes body

def seqWrite : Exchange := { onLine winWrite with seqUsed := some false, unanswered := true }
def headOf : ReplyHead := { epoch := 3#4, attReady := false, attEvent := false }
def plainReply (k : ReplyKind) (payload : List Byte) : Reply :=
  { kind := k, head := headOf, repeated := false, reason := .stationFault, payload := payload }

theorem test_witness_ReplyChecksInOrder :
    seqWrite.kind = .write ∧ seqWrite.dest = .station 0 ∧ seqWrite.seqUsed = some false ∧
    ([] : List Byte).length < 7 ∧ (List.replicate 6 (0x21#8 : Byte)).length < 7 ∧ [0#8] ≠ ([] : List Byte) ∧
    [0#8, 0#8] ≠ crcBytes [0x21#8, 1#8, 0#8, 3#8, 0#8] ∧ (1#8).toNat % 32 = addrOf 0 ∧ (2#8).toNat % 32 ≠ addrOf 0 ∧
    (0#8).toNat % 32 = (0 : Tag).val ∧ (1#8).toNat % 32 ≠ (0 : Tag).val ∧ (1#8).getLsbD 5 = false ∧
    (33#8).getLsbD 5 ≠ false := by decide +kernel

/-- A DATA reply of one byte to a READ of four, one of five, an IDENT and an EVENT, each well formed or of a wrong size. -/
theorem test_witness_ReplyChecksInOrder_any_kind :
    (let x := mk .window .read at1 .issue .onLine [0]
     x.dest = .station 0 ∧ [9#8].length = (if (0x22#8 : Byte) = 0x22#8 then (0#8).toNat + 1 else 0) ∧
       requestKind x = .read ∧ x.length.getD 0 < 5 ∧
       judgeReply 0 x (replyOf 0x22#8 1#8 4#8 [1#8, 2#8, 3#8, 4#8, 5#8]) = .outcome (.sound .overrun headOf)) ∧
    requestKind { mk .window .read at1 .collect .onLine [0] with deadline := some (.running 1) } = .collect ∧
    (let x := { mk .internal .census at1 .issue .onLine [8] with length := none }
     requestKind x = .census ∧ [5#8, 1#8, 2#8, 0#8].length = (3#8).toNat + 1 ∧
       judgeReply 0 x (replyOf 0x28#8 1#8 2#8 [5#8, 1#8, 2#8]) = .outcome (.sound .unexpected headOf)) ∧
    (let x := { mk .internal .fetchEvent at1 .issue .onLine [8] with length := none, seqUsed := some false }
     requestKind x = .fetchEvent ∧
       judgeReply 0 x (replyOf 0x29#8 1#8 14#8 (List.replicate 15 0#8)) = .outcome (.sound .unexpected headOf)) ∧
    judgeReply 0 (mk .window .read at1 .issue .onLine [0]) (replyOf 0x2F#8 1#8 0#8 []) =
      .outcome (.sound .unexpected headOf) := by decide +kernel

theorem test_receiver_reads_a_frame :
    let frame : List LineSym := [0x21#8, 0x80#8].flatMap byteSyms ++ Mark.fin.pattern
    receivedRow (frame.map some) = some (.replyReceived [0x21#8, 0x80#8]) ∧
    receivedRow ((frame.take 21).map some ++ List.replicate 20 none ++ (frame.drop 21).map some) =
      some (.replyReceived [0x21#8, 0x80#8]) ∧
    receivedRow ((frame.take 21).map some ++ List.replicate 21 none ++ (frame.drop 21).map some) = some .earlyFramingFault ∧
    awaitRow 16 (List.replicate 16 none) = some .replyWindowExpiry := by decide +kernel

/-- Quiet, preamble and START mark, at the edges of the reply window. -/
theorem test_start_after_a_preamble :
    let coming (j : Nat) : List (Option LineSym) :=
      [none, none] ++ [none] ++ ((preamble ++ Mark.start.pattern).take j).map some
    awaitRow 15 (coming 12) = some .replyStart ∧ awaitRow 16 (coming 12) = some .replyStart ∧
    awaitRow 14 (coming 12) = some .replyWindowExpiry ∧ awaitRow 14 (coming 11) = some .replyWindowExpiry ∧
    awaitRow 15 (coming 11) = none ∧ awaitRow 16 (coming 8) = none := by decide +kernel

theorem test_accept_is_accepted :
    (match judgeReply 0 seqWrite (replyOf 0x21#8 1#8 0#8 []) with
      | .outcome (.reply r) => r.kind == .accept && r.head == headOf && !r.repeated
      | _ => false) = true := by decide +kernel

theorem test_witness_LineAfterAReply :
    (let s := working .receiving seqWrite .present
     s.line.state = .receiving ∧ s.line.settling = false ∧ s.line.job = some (.attempt 0 .issue .write) ∧
       s.xchg 0 = some seqWrite) ∧
    judgeReply 0 seqWrite [0x21#8] = .early ∧
    judgeReply 0 seqWrite (replyOf 0x24#8 1#8 0#8 [] ++ [0#8]) = .outcome (.lost .framing) ∧
    judgeReply 0 seqWrite [0x21#8, 1#8, 0#8, 3#8, 0#8, 0#8, 0#8] = .outcome (.lost .crc) ∧
    judgeReply 0 seqWrite (replyOf 0x21#8 2#8 0#8 []) = .outcome (.lost .wrongStation) ∧
    judgeReply 0 seqWrite (replyOf 0x27#8 1#8 0#8 []) = .outcome (.sound .unexpected headOf) :=
  ⟨⟨rfl, rfl, rfl, xchg_working _ _ _⟩, by decide +kernel⟩

/-- The attention flags of a BUSY, with another READ of the station PARKED, in each kind of station state. -/
theorem test_witness_LineAfterAReply_attention :
    ∀ st ∈ [StnState.present, .suspect, .resync, .held, .recovering, .silent],
      let y := { mk (.list .A) .read at1 .collect .parked [12] with deadline := some (.running 65536) }
      let s := { pair seqWrite y [0] [1] [] (here st 1) with line := onJob .receiving .issue .write }
      let body := [0x24#8, 1#8, 0x60#8, 3#8, 0#8]
      let kept := st == .held || st == .recovering
      s.line.state = .receiving ∧ s.line.settling = false ∧ s.line.job = some (.attempt 0 .issue .write) ∧
      s.xchg 0 = some seqWrite ∧ s.xchg 1 = some y ∧ (s.entry 0).epoch = some 3#4 ∧
      (match judgeReply 0 seqWrite (body ++ crcBytes body) with
        | .outcome (.reply r) => r.head == { epoch := 3#4, attReady := true, attEvent := true }
        | _ => false) = true ∧
      runs (exec (.replyReceived (body ++ crcBytes body)) s) (fun t =>
        (t.xchg 1).any (fun z => (z.state == .waiting) == (st == .present || st == .suspect || st == .resync)) &&
        (t.entry 0).keptReady == kept && (t.entry 0).eventPending == (st != .silent)) = true := by
  decide +kernel

/-- The reply the unit makes of a frame, as a check on its kind, epoch and flags. -/
def judgedAs (x : Exchange) (bytes : List Byte) (k : ReplyKind) : Bool :=
  match judgeReply 0 x bytes with
  | .outcome (.reply r) => r.kind == k && r.head == headOf
  | _ => false

theorem reply_of_judgedAs {x : Exchange} {bytes : List Byte} {k : ReplyKind} (h : judgedAs x bytes k = true) :
    ∃ r, judgeReply 0 x bytes = .outcome (.reply r) ∧ r.kind = k ∧ r.head = headOf := by
  unfold judgedAs at h
  split at h
  · next r e => exact ⟨r, e, by simpa using h⟩
  · cases h

def issueRead : Exchange := onLine (mk (.list .A) .read at1 .issue .waiting [12])
def expiredRead : Exchange := { onLine collectRead with expired := true, deadline := some .ranOut }

theorem test_witness_ReplyKeepsTheExchange :
    ∀ p ∈ [(issueRead, 0x23#8, ReplyKind.defer), (onLine collectRead, 0x26#8, .notReady), (expiredRead, 0x26#8, .notReady),
        (seqWrite, 0x24#8, .busy)],
      let s := working .receiving p.1 .present
      CountsAgree s ∧ s.line.state = .receiving ∧ s.line.settling = false ∧
      s.line.job = some (.attempt 0 p.1.phase (requestKind p.1)) ∧ s.xchg 0 = some p.1 ∧
      (∃ r, judgeReply 0 p.1 (replyOf p.2.1 1#8 0#8 []) = .outcome (.reply r) ∧ r.kind = p.2.2 ∧ r.head = headOf) ∧
      p.1.state = .onLine ∧ p.1.dest = .station 0 ∧ (s.entry 0).epoch = some headOf.epoch ∧ 1 ≤ (s.entry 0).capacity ∧
      s.cancelOf p.1.owner = .none ∧ p.1.busyCount + 1 < s.regs.busyLimit := by
  intro p hp
  have hc : CountsAgree (working .receiving p.1 .present) := by
    simp only [List.mem_cons, List.not_mem_nil, or_false] at hp
    rcases hp with rfl | rfl | rfl | rfl <;> exact counts_working _ (by decide +kernel)
  refine ⟨hc, rfl, rfl, rfl, xchg_working _ _ _, reply_of_judgedAs ?_, ?_⟩
  · clear hc; revert p; decide +kernel
  · clear hc; revert p; decide +kernel

def seqListWrite : Exchange := { onLine listWrite with seqUsed := some false, unanswered := true }

theorem test_witness_ReplyCompletesAChannelsExchange :
    (∀ x ∈ [seqListWrite, issueRead],
      let s := working .receiving x .present
      ListsAgree s ∧ s.line.state = .receiving ∧ s.line.settling = false ∧
      s.line.job = some (.attempt 0 x.phase (requestKind x)) ∧ s.xchg 0 = some x ∧ x.state = .onLine ∧
      x.dest = .station 0 ∧ x.owner = .list .A ∧ x.phase = .issue) ∧
    judgedAs seqListWrite (replyOf 0x21#8 1#8 0#8 []) .accept = true ∧
    judgedAs issueRead (replyOf 0x22#8 1#8 3#8 [9#8, 8#8, 7#8, 6#8]) .data = true ∧
    judgedAs issueRead (replyOf 0x22#8 1#8 0#8 [9#8]) .data = true ∧
    judgedAs seqListWrite (replyOf 0x25#8 1#8 0#8 []) .refuse = true ∧
    judgeReply 0 seqListWrite (replyOf 0x27#8 1#8 0#8 []) = .outcome (.sound .unexpected headOf) := by
  refine ⟨fun x hx => ⟨lists_working _ _ _, rfl, rfl, rfl, xchg_working _ _ _, ?_⟩, by decide +kernel⟩
  revert x; decide +kernel

/-- The outcomes that end a collection or an abandonment, and the rest of the ISSUE phase: record, frame heard, verdict. -/
theorem test_witness_ReplyCompletesAChannelsExchange_phases :
    let abandon := { onLine abandonRead with attempts := 4 }
    let collect := { onLine collectRead with attempts := 4 }
    let expired := { expiredRead with attempts := 4 }
    let busyRead := { issueRead with busyCount := 255 }
    (∀ x ∈ [abandon, collect, expired, issueRead, { issueRead with attempts := 2 }, busyRead],
      ∀ l ∈ [LineState.receiving, .await],
      let s := working l x .present
      ListsAgree s ∧ CountsAgree s ∧ s.line.state = l ∧ s.line.settling = false ∧
      s.line.job = some (.attempt 0 x.phase (requestKind x)) ∧ s.xchg 0 = some x ∧ x.state = .onLine ∧
      x.dest = .station 0 ∧ x.owner = .list .A ∧ min 15 ((s.entry 0).failures + 1) < s.regs.silentThreshold ∧
      s.regs.retryLimit + 1 = 4 ∧ s.regs.busyLimit ≤ busyRead.busyCount + 1 ∧ s.cancelOf x.owner = .none ∧
      (s.entry 0).epoch = some headOf.epoch ∧ (s.entry 0).purgeNeeded = false) ∧
    abandon.carried = some { status := .deferExpired, fault := none } ∧
    judgedAs abandon (replyOf 0x21#8 1#8 0#8 []) .accept = true ∧
    judgedAs abandon (replyOf 0x27#8 1#8 0#8 []) .unknownTag = true ∧
    judgeReply 0 abandon (replyOf 0x26#8 1#8 0#8 []) = .outcome (.sound .unexpected headOf) ∧
    judgeReply 0 abandon (replyOf 0x21#8 2#8 0#8 []) = .outcome (.lost .wrongStation) ∧
    judgeReply 0 collect (replyOf 0x21#8 2#8 0#8 []) = .outcome (.lost .wrongStation) ∧
    judgeReply 0 collect (replyOf 0x24#8 1#8 0#8 []) = .outcome (.sound .unexpected headOf) ∧
    judgedAs collect (replyOf 0x27#8 1#8 0#8 []) .unknownTag = true ∧
    judgeReply 0 expired (replyOf 0x24#8 1#8 0#8 []) = .outcome (.sound .unexpected headOf) ∧
    judgedAs expired (replyOf 0x27#8 1#8 0#8 []) .unknownTag = true ∧
    judgeReply 0 issueRead (replyOf 0x27#8 1#8 0#8 []) = .outcome (.sound .unexpected headOf) ∧
    judgedAs issueRead (replyOf 0x23#8 1#8 0#8 []) .defer = true ∧
    judgedAs busyRead (replyOf 0x24#8 1#8 0#8 []) .busy = true ∧
    (let s := { working .receiving issueRead .present with
       dir.entries := State.reset.dir.entries.set 0 { here .present 0 with capacity := 0 } }
     CountsAgree s ∧ (s.entry 0).capacity = 0 ∧
       runs (exec (.replyReceived (replyOf 0x23#8 1#8 0#8 [])) s) (fun t =>
         (t.entry 0).purgeNeeded && t.dir.recovery == [(0, .purge)] && t.table.complA == [0]) = true) := by
  intro abandon collect expired busyRead
  refine ⟨fun x hx l hl => ⟨lists_working _ _ _, countsAgree_of ?_, ?_⟩, ?_, ?_, ?_, ?_, ?_, ?_, ?_, ?_, ?_, ?_, ?_, ?_, ?_,
    countsAgree_of ?_, ?_⟩
  · revert x l; decide +kernel
  · revert x l; decide +kernel
  all_goals decide +kernel

theorem test_witness_WindowTakesItsResults_write :
    (let s := working .receiving seqWrite .suspect
     ListsAgree s ∧ s.line.state = .receiving ∧ s.line.settling = false ∧ s.line.job = some (.attempt 0 .issue .write) ∧
       s.xchg 0 = some seqWrite ∧ (s.entry 0).epoch = some headOf.epoch) ∧
    seqWrite.owner = .window ∧ seqWrite.seqUsed = some false ∧
    ∃ r, judgeReply 0 seqWrite (replyOf 0x21#8 1#8 0#8 []) = .outcome (.reply r) ∧ r.kind = .accept ∧ r.head = headOf :=
  ⟨⟨lists_working _ _ _, rfl, rfl, rfl, xchg_working _ _ _, by decide +kernel⟩, rfl, rfl,
    reply_of_judgedAs (by decide +kernel)⟩

/-- The line unit gives a verdict on the bytes, as a check. -/
def judged (x : Exchange) (bytes : List Byte) : Bool :=
  match judgeReply 0 x bytes with
  | .outcome _ => true
  | .early => false

theorem outcome_of_judged {x : Exchange} {bytes : List Byte} (h : judged x bytes = true) :
    ∃ v, judgeReply 0 x bytes = .outcome v := by
  unfold judged at h
  split at h
  · next v e => exact ⟨v, e⟩
  · cases h

/-- Each end of the window's READ by its own outcome, at a station that cannot defer. -/
theorem test_witness_WindowTakesItsResults_read :
    let issue := onLine (mk .window .read at1 .issue .waiting [0])
    let collect := { onLine (mk .window .read at1 .collect .waiting [0]) with deadline := some (.running 65536) }
    let abandon := { onLine (mk .window .read at1 .abandon .waiting [0]) with
      attempts := 4, carried := some { status := .deferExpired, fault := none } }
    ∀ p ∈ [(issue, replyOf 0x22#8 1#8 3#8 [1#8, 2#8, 3#8, 4#8], Status.ok), (issue, replyOf 0x22#8 1#8 0#8 [1#8], .short),
        (collect, replyOf 0x22#8 1#8 3#8 [1#8, 2#8, 3#8, 4#8], .ok), (issue, replyOf 0x25#8 1#8 0#8 [], .refused),
        ({ issue with busyCount := 255 }, replyOf 0x24#8 1#8 0#8 [], .busyExhausted),
        (issue, replyOf 0x23#8 1#8 0#8 [], .protocol), (issue, replyOf 0x27#8 1#8 0#8 [], .protocol),
        (collect, replyOf 0x27#8 1#8 0#8 [], .protocol), (collect, replyOf 0x24#8 1#8 0#8 [], .protocol),
        ({ issue with attempts := 4 }, replyOf 0x23#8 2#8 0#8 [], .retryExhausted),
        (abandon, replyOf 0x21#8 1#8 0#8 [], .deferExpired), (abandon, replyOf 0x24#8 1#8 0#8 [], .deferExpired),
        (abandon, replyOf 0x21#8 2#8 0#8 [], .deferExpired)],
      let s := { working .receiving p.1 .present with
        dir.entries := State.reset.dir.entries.set 0 { here .present 0 with capacity := 0 }
        window.hold := .inFlight 0 0x10#16 0 }
      ListsAgree s ∧ PhasesAgree s ∧ HoldNamesItsRead s ∧ s.xchg 0 = some p.1 ∧ s.window.fault = none ∧
      (∃ v, s.endsAttempt (.replyReceived p.2.1) 0 p.1 v) ∧
      runs (exec (.replyReceived p.2.1) s) (fun t =>
        (t.xchg 0).any (fun y => y.result.map (·.status) == some p.2.2) && t.window.hold == .ready 0 0x10#16 0 &&
          t.window.timer == some 4096 && t.window.fault.map (·.status) == (if p.2.2.isFailure then some p.2.2 else none)) =
        true := by
  intro issue collect abandon p hp
  refine ⟨listsAgree_one (x := p.1) rfl ?_, phasesAgree_of ?_, holdNames_of ?_, xchg_of_one (xs_oneTable p.1) 0, rfl, ?_, ?_⟩
  · intro o; rfl
  · revert p; decide +kernel
  · revert p; decide +kernel
  · have h : judged p.1 p.2.1 = true := by revert p; decide +kernel
    obtain ⟨v, hv⟩ := outcome_of_judged h
    exact ⟨v, .inr (.inl ⟨_, rfl, rfl, rfl, hv⟩)⟩
  · revert p; decide +kernel

/-- A WRITE of the window that ends REFUSED, BUSY_EXHAUSTED or PROTOCOL, into an empty and into a held fault record. -/
theorem test_witness_WindowTakesItsResults_failures :
    ∀ p ∈ [(seqWrite, replyOf 0x25#8 1#8 0#8 [], Status.refused),
        ({ seqWrite with busyCount := 255 }, replyOf 0x24#8 1#8 0#8 [], .busyExhausted),
        (seqWrite, replyOf 0x27#8 1#8 0#8 [], .protocol)], ∀ f ∈ [none, some oldFault],
      let s := { working .receiving p.1 .present with window.fault := f }
      ListsAgree s ∧ s.line.state = .receiving ∧ s.line.settling = false ∧ s.xchg 0 = some p.1 ∧
      (s.entry 0).epoch = some headOf.epoch ∧ judged p.1 p.2.1 = true ∧
      runs (exec (.replyReceived p.2.1) s) (fun t => t.xchg 0 == none && t.window.overflow == f.isSome &&
        (f.isSome || t.window.fault.map (·.status) == some p.2.2 && t.irq.edge.getLsbD 4) &&
        ((t.entry 0).seqUncertain == (p.2.2 == .protocol))) = true := by
  intro p hp f hf
  refine ⟨listsAgree_one (x := p.1) rfl fun _ => rfl, rfl, rfl, xchg_of_one (xs_oneTable p.1) 0, ?_⟩
  revert p f; decide +kernel

/-- The station's recorded epoch is 5, and the reply is of epoch 3. -/
def restarting (x : Exchange) : State :=
  { working .receiving x .present with dir.entries := State.reset.dir.entries.set 0 { here .present 0 with epoch := some 5#4 } }

theorem test_witness_RestartEndsDeferrals :
    ∀ p ∈ [(seqWrite, 0x21#8, ReplyKind.accept), (issueRead, 0x23#8, .defer)],
      let s := restarting p.1
      s.line.state = .receiving ∧ s.line.settling = false ∧ s.line.job = some (.attempt 0 p.1.phase (requestKind p.1)) ∧
      s.xchg 0 = some p.1 ∧
      (∃ r, judgeReply 0 p.1 (replyOf p.2.1 1#8 0#8 []) = .outcome (.reply r) ∧ r.kind = p.2.2 ∧ r.head = headOf) ∧
      (s.entry 0).epoch = some 5#4 ∧ headOf.epoch ≠ 5#4 ∧ p.1.kind ≠ .stationReset := by
  intro p hp
  refine ⟨rfl, rfl, rfl, xchg_of_one (xs_oneTable p.1) 0, reply_of_judgedAs ?_, ?_⟩ <;> revert p <;> decide +kernel

/-- A restart with another deferred READ and another unanswered WRITE, finished or not: each case of R129. -/
theorem test_witness_RestartEndsDeferrals_cases :
    let deferred := { mk (.list .A) .read at1 .collect .parked [12] with deadline := some (.running 65536) }
    let open1 := { mk (.list .A) .write at1 .issue .backoff [13] with
      backoff := some 64, unanswered := true, seqUsed := some true }
    let ended1 := { mk (.list .A) .write at1 .issue .complete [13] with
      unanswered := true, seqUsed := some true,
      result := some { status := .protocol, detail := none, replyLength := 0, repeated := false, uncertain := true,
                       epochSeen := none, attempts := 1 } }
    let owned (x : Exchange) : Exchange := { x with seqUsed := some true, unanswered := x.kind.nonIdem }
    let frame (x : Exchange) (k : Byte) : List Byte := replyOf k (if x.kind.nonIdem then 33#8 else 1#8) 0#8 []
    ∀ p ∈ [(onLine (mk (.list .A) .read at1 .issue .waiting [12]), 0x25#8, deferred, false),
        (onLine (mk (.list .A) .read at1 .issue .waiting [12]), 0x25#8, open1, true),
        (onLine (mk (.list .A) .read at1 .issue .waiting [12]), 0x25#8, ended1, true),
        (owned (onLine winWrite), 0x21#8, deferred, false), (owned (onLine winWrite), 0x24#8, deferred, false),
        (owned (onLine winWrite), 0x27#8, deferred, true),
        (owned (onLine { listWrite with kind := .signal, signalOp := some 1#8, length := none, units := [] }), 0x21#8,
          deferred, false),
        (owned (onLine { mk .internal .fetchEvent at1 .issue .waiting [8] with regAddr := none, length := none }), 0x2A#8,
          deferred, false)],
      let s := { pair p.1 p.2.2.1 (if p.1.owner = .window then [0] else []) (if p.1.owner = .window then [1] else [0, 1]) []
          { here .present 0 with epoch := some 5#4, seqBit := true } with
        line := onJob .receiving p.1.phase (requestKind p.1) }
      s.line.state = .receiving ∧ s.line.settling = false ∧ s.line.job = some (.attempt 0 p.1.phase (requestKind p.1)) ∧
      s.xchg 0 = some p.1 ∧ p.1.state = .onLine ∧ s.xchg 1 = some p.2.2.1 ∧ (∀ t, t ≠ 0 → t ≠ 1 → s.xchg t = none) ∧
      (s.entry 0).epoch = some 5#4 ∧ headOf.epoch ≠ 5#4 ∧
      (judgeReply 0 p.1 (frame p.1 p.2.1) = .outcome (.sound .unexpected headOf) ∨
        (match judgeReply 0 p.1 (frame p.1 p.2.1) with
          | .outcome (.reply r) => r.head == headOf
          | _ => false) = true) ∧
      runs (exec (.replyReceived (frame p.1 p.2.1)) s) (fun t =>
        (t.entry 0).seqBit == p.2.2.2 && (t.entry 0).epoch == some 3#4) = true := by
  decide +kernel

/-- The window's WRITE, which the reply completes PROTOCOL, before and after its deferred READ in the creation order. -/
theorem test_witness_RestartEndsDeferrals_window :
    let write := { onLine winWrite with seqUsed := some true, unanswered := true }
    let read := { mk .window .read at1 .collect .parked [1] with deadline := some (.running 65536) }
    ∀ l ∈ [([0, 1] : List Tag), [1, 0]], ∀ p ∈ [(0x27#8, Status.protocol), (0x25#8, .refused)],
      let frame := replyOf p.1 33#8 0#8 []
      let s := { pair write read l [] [] { here .present 1 with epoch := some 5#4 } with
        line := onJob .receiving .issue .write, window.hold := .inFlight 0 0x10#16 1 }
      ListsAgree s ∧ PhasesAgree s ∧ HoldNamesItsRead s ∧ OneOnLine s ∧ s.line.state = .receiving ∧
      s.line.settling = false ∧ s.line.job = some (.attempt 0 .issue .write) ∧ s.xchg 0 = some write ∧
      s.xchg 1 = some read ∧ judged write frame = true ∧
      (s.entry 0).epoch = some 5#4 ∧ s.window.fault = none ∧ (l = [] ++ 1 :: [0] ∨ l = [0] ++ 1 :: []) ∧
      runs (exec (.replyReceived frame) s) (fun t =>
        t.window.fault.map (·.status) == some (if l = [1, 0] then .stationRestarted else p.2) &&
        t.window.overflow && t.window.hold == .ready 0 0x10#16 1) = true := by
  intro write read l hl p hp
  refine ⟨listsAgree_of ?_, phasesAgree_of ?_, holdNames_of ?_, oneOnLine_of ?_, ?_⟩ <;> revert l p <;> decide +kernel

def reset1 : Exchange := { purge1 with kind := .stationReset }
def fetch1 : Exchange :=
  { mk .internal .fetchEvent at1 .issue .waiting [8] with regAddr := none, length := none, seqUsed := some false }

theorem test_witness_DirectoryTakesInternalReplies :
    ∀ p ∈ [(census1, StnState.vacant, replyOf 0x28#8 1#8 3#8 [5#8, 1#8, 2#8, 0#8], ReplyKind.ident),
        (census1, .silent, replyOf 0x28#8 1#8 3#8 [5#8, 1#8, 9#8, 1#8], .ident),
        (census1, .recovering, replyOf 0x28#8 1#8 3#8 [5#8, 1#8, 2#8, 0#8], .ident),
        (purge1, .resync, replyOf 0x21#8 1#8 0#8 [], .accept), (reset1, .present, replyOf 0x21#8 1#8 0#8 [], .accept),
        (fetch1, .present, replyOf 0x29#8 1#8 1#8 [1#8, 2#8], .event), (fetch1, .present, replyOf 0x2A#8 1#8 0#8 [], .noEvent)],
      let s := working .receiving (onLine p.1) p.2.1
      s.line.state = .receiving ∧ s.line.settling = false ∧ s.line.job = some (.attempt 0 p.1.phase (requestKind (onLine p.1))) ∧
      s.xchg 0 = some (onLine p.1) ∧
      (∃ r, judgeReply 0 (onLine p.1) p.2.2.1 = .outcome (.reply r) ∧ r.kind = p.2.2.2 ∧ r.head = headOf) ∧
      (onLine p.1).owner = .internal ∧ p.1.phase = .issue ∧ p.2.2.2 ≠ .busy ∧ (s.entry 0).state = p.2.1 := by
  intro p hp
  refine ⟨rfl, rfl, rfl, xchg_working _ _ _, reply_of_judgedAs ?_, ?_⟩ <;> revert p <;> decide +kernel

/-- IDENT of a station already in: it agrees, differs in the bit, differs in its class, or shows a restart. -/
theorem test_witness_DirectoryTakesInternalReplies_ident :
    ∀ st ∈ [StnState.present, .suspect, .held], ∀ p ∈ [(0#8, 5#8, 3#4, CensusStatus.ok), (1#8, 5#8, 3#4, .protocol),
        (0#8, 6#8, 3#4, .protocol), (1#8, 6#8, 4#4, .ok)],
      let e := { here st 0 with cls := some 5#8, revision := some 1#8, epoch := some p.2.2.1 }
      let s := { working .receiving (onLine census1) st with dir.entries := State.reset.dir.entries.set 0 e }
      let frame := replyOf 0x28#8 1#8 3#8 [p.2.1, 1#8, 2#8, p.1]
      s.line.state = .receiving ∧ s.line.settling = false ∧ s.line.job = some (.attempt 0 .issue .census) ∧
      s.xchg 0 = some (onLine census1) ∧ judgedAs (onLine census1) frame .ident = true ∧ (s.entry 0).state = st ∧
      runs (exec (.replyReceived frame) s) (fun t => t.xchg 0 == none &&
        (t.entry 0).lastCensus.map (·.status) == some p.2.2.2 && t.irq.edge.getLsbD 6) = true := by
  decide +kernel

/-- A census, a PURGE and a STATION_RESET that fail, on a sound reply and with the retries used up. -/
theorem test_witness_DirectoryTakesInternalReplies_failures :
    ∀ x ∈ [census1, purge1, reset1], ∀ st ∈ [StnState.present, .recovering, .silent], ∀ l ∈ [LineState.receiving, .await],
      let x' := { onLine x with attempts := 4 }
      let s := { working l x' st with dir.entries := State.reset.dir.entries.set 0 { here st 0 with seqUncertain := true } }
      s.line.state = l ∧ s.line.settling = false ∧ s.line.job = some (.attempt 0 .issue (requestKind x')) ∧
      s.xchg 0 = some x' ∧ x'.dest = .station 0 ∧ x'.owner = .internal ∧
      judgeReply 0 x' (replyOf 0x25#8 1#8 0#8 []) = .outcome (.sound .unexpected headOf) ∧
      s.regs.retryLimit + 1 ≤ x'.attempts ∧ min 15 ((s.entry 0).failures + 1) < s.regs.silentThreshold ∧
      (s.entry 0).state = st ∧
      runs (exec (if l = .await then .replyWindowExpiry else .replyReceived (replyOf 0x25#8 1#8 0#8 [])) s) (fun t =>
        t.xchg 0 == none && (x.kind != .census || t.dir.census == [0]) &&
        (t.entry 0).state == (if x.kind = .census ∧ st = .present then .present else .silent)) = true := by
  decide +kernel

/-- A FETCH_EVENT that fails: on a sound reply, on a last BUSY, and with its retries used up. -/
theorem test_witness_DirectoryTakesInternalReplies_fetch :
    let x := { onLine fetch1 with attempts := 4, busyCount := 255, unanswered := true }
    ∀ p ∈ [(replyOf 0x21#8 1#8 0#8 [], true), (replyOf 0x24#8 1#8 0#8 [], false), (replyOf 0x2A#8 2#8 0#8 [], true)],
      ∀ pend ∈ [false, true],
      let s := { working .receiving x .present with
        dir.entries := State.reset.dir.entries.set 0 { here .present 0 with eventPending := pend } }
      ListsAgree s ∧ s.xchg 0 = some x ∧ judged x p.1 = true ∧ s.regs.retryLimit + 1 ≤ x.attempts ∧
      runs (exec (.replyReceived p.1) s) (fun t => t.xchg 0 == none && t.events == s.events &&
        (t.entry 0).eventPending == pend && (t.entry 0).seqUncertain == p.2 && t.dir.census.contains 0 == p.2) = true := by
  intro x p hp pend hq
  refine ⟨listsAgree_one (x := x) rfl fun _ => rfl, xchg_of_one (xs_oneTable x) 0, ?_⟩
  revert p pend; decide +kernel

/-- NO_EVENT with the attention EVENT flag; a STATION_RESET accepted while a READ is deferred; IDENT of a VACANT station. -/
theorem test_internal_replies_act_on_the_station :
    (let body : List Byte := [0x2A#8, 1#8, 0x40#8, 3#8, 0#8]
     runs (exec (.replyReceived (body ++ crcBytes body)) (working .receiving (onLine fetch1) .present)) (fun t =>
       (t.entry 0).eventPending && t.xchg 0 == none) = true) ∧
    (let read := { mk (.list .A) .read at1 .collect .parked [12] with deadline := some (.running 65536) }
     let s := { pair (onLine reset1) read [] [1] [0] (here .present 1) with line := onJob .receiving .issue .stationReset }
     runs (exec (.replyReceived (replyOf 0x21#8 1#8 0#8 [])) s) (fun t =>
       (t.entry 0).state == .recovering && (t.entry 0).deferred == 0 &&
         (t.xchg 1).any (fun y => y.result.map (·.status) == some .stationRestarted)) = true) ∧
    (let s := { working .receiving (onLine census1) .vacant with
       dir.entries := State.reset.dir.entries.set 0 { here .vacant 0 with wasPresent := false } }
     runs (exec (.replyReceived (replyOf 0x28#8 1#8 3#8 [5#8, 1#8, 2#8, 0#8])) s) (fun t =>
       (t.entry 0).wasPresent && (t.entry 0).state == .present) = true) := by decide +kernel

theorem test_witness_FailuresMakeAStationSilent :
    ∀ st ∈ [StnState.present, .suspect, .held],
      let s := { working .await (onLine winWrite) st with regs.silentThreshold := 1 }
      s.line.state = .await ∧ s.line.job = some (.attempt 0 .issue .write) ∧ s.xchg 0 = some (onLine winWrite) ∧
      (s.entry 0).state = st ∧ s.regs.silentThreshold ≤ min 15 ((s.entry 0).failures + 1) := by
  intro st hst
  exact ⟨rfl, rfl, xchg_working .await _ st, rfl, by simp⟩

/-- A channel's own attempt, a WAITING and a FILLING exchange of channel A to the station declared SILENT. -/
theorem test_witness_FailuresMakeAStationSilent_results :
    ∀ y ∈ [mk (.list .A) .write at1 .issue .waiting [13], mk (.list .A) .write at1 .issue .filling [13]],
      let s := { pair (onLine listWrite) y [] [0, 1] [] (here .present 0) with
        line := onJob .await .issue .write, regs.silentThreshold := 1 }
      ListsAgree s ∧ s.line.state = .await ∧ s.line.job = some (.attempt 0 .issue .write) ∧
      s.xchg 0 = some (onLine listWrite) ∧ s.xchg 1 = some y ∧ (onLine listWrite).attempts < s.regs.retryLimit + 1 ∧
      s.cancelOf (onLine listWrite).owner = .none ∧ (s.entry 0).state = .present ∧
      s.regs.silentThreshold ≤ min 15 ((s.entry 0).failures + 1) ∧
      runs (exec .replyWindowExpiry s) (fun t => (t.entry 0).state == .silent &&
        t.table.complA == (if y.state = .filling then [0] else [0, 1])) = true := by
  intro y hy
  refine ⟨listsAgree_of ?_, ?_⟩ <;> revert y <;> decide +kernel

/-! ## Slots, timers and creations -/

theorem test_witness_SlotsEnd :
    let s := { offered collectRead .present with line.state := .slots }
    (List.replicate 30 SlotSeen.quiet).length = 30 ∧ CountsAgree s ∧ s.line.state = .slots :=
  ⟨rfl, countsAgree_of (s := offered collectRead .present) (by decide +kernel), rfl⟩

theorem test_slot_patterns :
    [SlotSeen.driven true [.one, .zero, .one, .one] true, .driven true [.one, .one, .zero, .one] true,
      .driven true [.one, .zero, .zero, .one] true, .driven false [.one, .zero, .one, .one] true, .quiet].map readSlot =
    [.ready, .event, .both, .garbled, .empty] := by decide

theorem test_witness_ExchangeAndHoldTimers :
    (∀ x ∈ [{ listWrite with state := .backoff, backoff := some 256 },
        { collectRead with state := .backoff, backoff := some 256, deadline := some .ranOut },
        { collectRead with state := .parked }, collectRead, onLine collectRead,
        { collectRead with state := .backoff, backoff := some 256 }],
      CountsAgree (offered x .present) ∧ PhasesAgree (offered x .present) ∧ (offered x .present).xchg 0 = some x) ∧
    (let s := { stn .recovering with dir.entries := idle.dir.entries.set 0 { here .recovering 0 with holdTimer := some 32768 } }
     (s.entry 0).state = .recovering ∧ (s.entry 0).holdTimer ≠ none) := by
  refine ⟨fun x hx => ⟨?_, ?_, xchg_of_one (xs_oneTable x) 0⟩, by decide +kernel⟩
  · simp only [List.mem_cons, List.not_mem_nil, or_false] at hx
    rcases hx with rfl | rfl | rfl | rfl | rfl | rfl <;> exact countsAgree_of (by decide +kernel)
  · exact phasesAgree_one (x := x) rfl (by revert x; decide +kernel)

/-- Station 1 with an event pending, in the census list, and with a recovery record behind one that is not admitted. -/
def creating : State :=
  { stn .present with
    dir.entries := idle.dir.entries.set 0 { here .present 0 with eventPending := true }
    dir.census := [0], dir.recovery := [(4, .purge), (0, .purge)] }

theorem test_witness_CreationsAndGrant_creations :
    CountsAgree creating ∧ creating.xchg 0 = none ∧ (8 : UnitNo).val < 12 ∧ creating.unitHeld 8 = false ∧
    (∀ u' : UnitNo, 8 ≤ u'.val → u'.val < (8 : UnitNo).val → creating.unitHeld u' = true) ∧
    creating.line.state ≠ .off ∧ creating.dir.census = [] ++ 0 :: [] ∧ creating.dir.recovery = [(4, .purge)] ++ (0, .purge) :: [] ∧
    (creating.entry 4).state = .vacant ∧ (creating.entry 0).deferred = 0 ∧ (creating.entry 0).state = .present ∧
    (creating.entry 0).eventPending = true ∧ (∀ m, m ≠ 0 → (creating.entry m).eventPending = false) ∧
    (∀ t', creating.xchg t' = none) ∧ creating.events.queue.length < 16 :=
  ⟨countsAgree_of (by decide +kernel), by decide +kernel⟩

/-- No creation: the line OFF, the slot in use, and no station in the list that admits one. -/
theorem test_witness_CreationsAndGrant_none :
    (let s := { creating with line.state := .off }
     s.line.state = .off ∧ s.dir.census ≠ [] ∧ s.dir.recovery ≠ []) ∧
    (let s := { one census1 (here .present 0) with line.state := .idle, dir.census := [3] }
     s.xchg 0 = some census1 ∧ census1.kind = .census ∧ (s.entry 3).state = .vacant) ∧
    (let s := { one reset1 (here .present 0) with line.state := .idle, dir.recovery := [(0, .purge)] }
     s.xchg 0 = some reset1 ∧ reset1.kind = .stationReset ∧ (s.entry 0).state = .present) ∧
    (let s := { stn .held with dir.census := [0], dir.recovery := [(0, .purge), (0, .reset)] }
     s.line.state ≠ .off ∧ (s.entry 0).state = .held ∧ s.dir.census = [0]) := by decide +kernel

/-- Stations 1 and 3 with events pending: with nothing in flight both are fetched; with one in flight, or one place in the
queue, only the next after the last served; with two in flight, or no place, neither. -/
def pendingTwo (queued : Nat) (x : Exchange) (int : List Tag) (last : Stn) : State :=
  let e := { here .present 0 with eventPending := true }
  { stn .present with
    table := { idle.table with
      intList := int, xs := if int = [] then idle.table.xs else idle.table.xs.set 0 (some x) }
    dir.entries := (idle.dir.entries.set 0 e).set 2 e
    events := { idle.events with queue := List.replicate queued event1, lastServed := last } }

theorem test_witness_CreationsAndGrant_fetches :
    let fetch2 := { mk .internal .fetchEvent (.station 1) .issue .waiting [8] with regAddr := none, length := none }
    ∀ p ∈ [(0, ([] : List Tag), (0 : Stn), [0, 1], (0 : Stn)), (0, [], 2, [0, 1], 2), (15, [], 0, [0], 2),
        (14, [0], 0, [0, 1], 2), (15, [0], 0, [0], 0), (16, [], 0, [], 0)],
      let s := pendingTwo p.1 fetch2 p.2.1 p.2.2.1
      CountsAgree s ∧ (s.countX (fun x => x.kind == .fetchEvent)) = p.2.1.length ∧ s.events.queue.length = p.1 ∧
      s.events.lastServed = p.2.2.1 ∧ (s.entry 0).eventPending = true ∧ (s.entry 2).eventPending = true ∧
      (∀ m : Stn, m ≠ 0 → m ≠ 2 → (s.entry m).eventPending = false) ∧
      s.xchg (if p.2.1 = [] then 0 else 1) = none ∧ s.unitHeld (if p.2.1 = [] then 8 else 9) = false ∧
      (p.2.1 = [] → s.xchg 1 = none ∧ s.unitHeld 9 = false) ∧
      runs (exec .fetchEventCreation s) (fun t =>
        t.table.intList == p.2.2.2.1 && t.events.lastServed == p.2.2.2.2) = true := by
  intro fetch2 p hp
  refine ⟨countsAgree_of ?_, ?_⟩ <;> revert p <;> decide +kernel

def desc1 (stop : Bool) : Desc where
  addr := 0x100#32
  kind := .read
  station := 1#5
  fence := false
  irq := false
  stopOnFail := stop
  last := false
  regAddr := 0#16
  signalOp := 0#8
  length := 256
  buffer := 0x2000#32
  next := 0x120#32

/-- Channel A waits for the 8 units of a READ of 256 bytes. -/
def waiting (st : StnState) (stop : Bool) : State :=
  { stn st with
    table := { idle.table with waitList := [(.A, 8)] }
    chanA := { Channel.reset with state := .running, pendingDesc := some (desc1 stop) } }

theorem test_witness_CreationsAndGrant_grant :
    idle.table.waitList = [] ∧ CountsAgree (waiting .present false) ∧
    ∀ stop, ∀ st ∈ [StnState.present, .silent],
      (waiting st stop).table.waitList = (.A, 8) :: [] ∧ 8 ≤ ((waiting st stop).freeUnits (.list .A)).length ∧
      ((waiting st stop).chan .A).pendingDesc = some (desc1 stop) ∧ (desc1 stop).kind.kind = some .read ∧
      unitsNeeded .read (some (desc1 stop).length) = 8 ∧ (desc1 stop).dest = .station 0 ∧
      ((waiting st stop).entry 0).state = st ∧ (waiting st stop).hasFailure .A = false ∧
      (waiting st stop).countX (fun x => x.owner == .list .A) < 10 ∧ (waiting st stop).xchg 0 = none :=
  ⟨rfl, countsAgree_of (by decide +kernel), by decide +kernel⟩

/-! ## The master port -/

def fillingA : Exchange := mk (.list .A) .write at1 .issue .filling [12]
def resultOk : Result :=
  { status := .ok, detail := none, replyLength := 4, repeated := false, uncertain := false, epochSeen := some 3#4,
    attempts := 1 }
def completeA : Exchange := { mk (.list .A) .read at1 .issue .complete [12] with result := some resultOk }
def drainingA : Exchange := { completeA with state := .draining }
def recA (tag : Option Tag) : QRec where
  addr := 0x100#32
  next := none
  irq := true
  stopOnFail := false
  tag := tag
  status := if tag = none then some .invalid else none
  finished := true
  written := false
  faulted := false
  buffer := 0x2000#32

/-- Channel A RUNNING, with an operation under way and one record in its queue. -/
def porting (x : Exchange) (op : Option PortOp) (tag : Option Tag) : State :=
  { one x (here .present 0) with chanA := { Channel.reset with state := .running, portOp := op, queue := [recA tag] } }

theorem ports_idle {s : State} (h : ∀ c, (s.chan c).portOp = none) (hc : ∀ c, s.table.compl c = []) :
    PortNamesItsOwn s where
  fill c tag e := by rw [h] at e; cases e
  drain c tag e := by rw [h] at e; cases e
  compl c tag e := by rw [hc] at e; cases e

def withCompl : State :=
  { porting completeA none (some 0) with table := { oneTable completeA with complA := [0] } }

theorem test_witness_PortOperationStart :
    (let s := porting fillingA none (some 0)
     ListsAgree s ∧ CountsAgree s ∧ PortNamesItsOwn s ∧ (∀ c, (s.chan c).portOp = none) ∧
       s.nextOp .A = some (.fill 0) ∧ s.nextOp .B = none) ∧
    (ListsAgree withCompl ∧ CountsAgree withCompl ∧ PortNamesItsOwn withCompl ∧ (∀ c, (withCompl.chan c).portOp = none) ∧
      withCompl.table.compl .A = 0 :: [] ∧ withCompl.nextOp .A = some (.drain 0)) ∧
    (let s := ({ idle with chanA.state := .running, chanB.state := .running } : State)
     s.nextOp .A = some (.fetch false) ∧ s.nextOp .B = some (.fetch false) ∧ s.portLast = .B) ∧
    (idle.nextOp .A = none ∧ idle.nextOp .B = none) ∧
    ((porting fillingA (some (.fill 0)) (some 0)).chan .A).portOp = some (.fill 0) := by
  refine ⟨⟨listsAgree_one (x := fillingA) rfl fun _ => rfl, countsAgree_of (by decide +kernel),
      ports_idle (fun c => by cases c <;> rfl) (fun c => by cases c <;> rfl), fun c => by cases c <;> rfl,
      by decide +kernel⟩,
    ⟨listsAgree_one (x := completeA) rfl fun o => ?_, countsAgree_of (by decide +kernel), ?_,
      fun c => by cases c <;> rfl, by decide +kernel⟩, by decide +kernel, by decide +kernel, rfl⟩
  · rcases o with _ | c | _
    · rfl
    · cases c <;> rfl
    · rfl
  · refine ⟨fun c tag e => ?_, fun c tag e => ?_, fun c tag e => ?_⟩ <;> cases c
    · cases e
    · cases e
    · cases e
    · cases e
    · refine ⟨completeA, ?_, rfl, rfl⟩
      rw [show tag = 0 from by simpa [withCompl, Table.compl] using e]
      exact xchg_of_one (xs_oneTable completeA) 0
    · cases e

/-- A status write that is due is of the first such record; an unfinished NOP holds the fetch back; else R139 alone does. -/
theorem test_witness_PortOperationStart_intake :
    (let s := porting fillingA none (some 0)
     s.table.compl .A = [] ∧ s.xchg 0 = some fillingA ∧ (∀ t, t ≠ 0 → s.xchg t = none)) ∧
    (let s (q : List QRec) : State := { idle with chanA := { Channel.reset with state := .running, queue := q } }
     let first : QRec := { recA none with addr := 0x200#32 }
     let written : QRec := { recA none with written := true }
     let nop : QRec := { recA none with finished := false, status := some .ok }
     (s [written, first, recA none]).nextOp .A = some .statusWrite ∧
       ((s [written, first, recA none]).chan .A).dueRec = some first ∧
     (s [written, nop]).nextOp .A = none ∧ (s [written]).nextOp .A = some (.fetch false) ∧
     (s (List.replicate 9 written)).nextOp .A = some (.fetch false) ∧
     (s (List.replicate 10 written)).nextOp .A = none) := by decide +kernel

/-- Channel A with a fetch under way. -/
def fetching (d : Bool) : State := { stn .present with chanA.state := .running, chanA.portOp := some (.fetch d) }

theorem test_witness_DescriptorFetchEnd :
    (CountsAgree (fetching false) ∧ ((fetching true).chan .A).portOp = some (.fetch true) ∧
      ((fetching false).chan .A).portOp = some (.fetch false) ∧ ((fetching false).chan .A).state = .running ∧
      (fetching false).hasFailure .A = false ∧ (fetching false).table.waitList = [] ∧
      8 ≤ ((fetching false).freeUnits (.list .A)).length ∧ (fetching false).xchg 0 = none ∧
      ((fetching false).entry 0).state = .present ∧ ((fetching false).entry 1).state = .vacant) ∧
    [0x105#32, 0x106#32, 0x101#32, 0x202#32, 0x103#32, 0x1F04#32].map (fun w => (w.toNat % 8, w.toNat / 256 % 32)) =
      [(5, 1), (6, 1), (1, 1), (2, 2), (3, 1), (4, 31)] ∧
    (0x40105#32).getLsbD 18 = true ∧ (0xFF#32).toNat % 256 + 32 = 287 ∧
    ({ fetching false with table.waitList := [(.B, 4)] } : State).table.waitList ≠ [] :=
  ⟨⟨countsAgree_of (by decide +kernel), by decide +kernel⟩, by decide +kernel⟩

theorem test_witness_FillEnd :
    ∀ m ∈ [none, some FillMark.linkReset, some .stationLost, some .cancelled],
      let x := { fillingA with fillEnd := m }
      let s := porting x (some (.fill 0)) (some 0)
      CountsAgree s ∧ ListsAgree s ∧ (s.chan .A).portOp = some (.fill 0) ∧ s.xchg 0 = some x ∧
      x.length = some [1#8, 2#8, 3#8, 4#8].length ∧ x.fillEnd = m := by
  intro m hm
  have hc : CountsAgree (porting { fillingA with fillEnd := m } (some (.fill 0)) (some 0)) := by
    simp only [List.mem_cons, List.not_mem_nil, or_false] at hm
    rcases hm with rfl | rfl | rfl | rfl <;> exact countsAgree_of (by decide +kernel)
  exact ⟨hc, listsAgree_one (x := { fillingA with fillEnd := m }) rfl fun _ => rfl, rfl,
    xchg_of_one (xs_oneTable _) 0, rfl, rfl⟩

theorem test_witness_DrainEnd :
    let s := porting drainingA (some (.drain 0)) (some 0)
    CountsAgree s ∧ (s.chan .A).portOp = some (.drain 0) ∧ s.xchg 0 = some drainingA ∧ drainingA.state = .draining ∧
    drainingA.owner = .list .A ∧ drainingA.result = some resultOk ∧ (s.chan .A).recOf 0 = some (recA (some 0)) :=
  ⟨countsAgree_of (by decide +kernel), by decide +kernel⟩

theorem test_drain_writes_and_retires :
    runs (exec (.drainEnd .A) (porting drainingA (some (.drain 0)) (some 0))) (fun t =>
      t.xchg 0 == none && t.bus.data.length == 4 && t.bus.status.map (·.1) == some 0x114#32 &&
      (t.chan .A).state == .idle && (t.chan .A).retired == 1#32 && t.irq.edge == causeNote .A) = true := by decide +kernel

theorem test_witness_StatusWritesNopsAndChannelEnds :
    (let s := porting completeA (some .statusWrite) none
     (s.chan .A).portOp = some .statusWrite ∧ (s.chan .A).queue = [] ++ recA none :: [] ∧ (recA none).finished = true ∧
       (recA none).written = false ∧ (recA none).faulted = false) ∧
    (∃ tag x, (porting fillingA none none).xchg tag = some x ∧ x.owner = .list .A ∧ x.live = true) ∧
    (∀ tag, idle.xchg tag = none) ∧
    (∀ st ∈ [ChanState.stopping, .aborting, .running], ((chanIn st).chan .A).state = st ∧
      ((chanIn st).chan .A).portOp = none ∧ ((chanIn st).chan .A).queue = []) :=
  ⟨by decide +kernel, ⟨0, _, xchg_of_one (xs_oneTable fillingA) 0, rfl, rfl⟩, by decide +kernel, by decide⟩

theorem test_witness_status_word :
    resultOk.attempts < 16 ∧ resultOk.replyLength ≤ 256 ∧ statusWord resultOk = 0x80093004#32 ∧
    plainStatusWord .invalid = 0xE0000000#32 := by decide +kernel

theorem test_a_faulted_record_is_never_written :
    runs (exec (.memoryFault .A 0x44#32) (porting completeA (some .statusWrite) none)) (fun t =>
      (t.chan .A).state == .stopping && (t.chan .A).queue.all fun r => r.faulted && !r.written) = true ∧
    (porting completeA (some .statusWrite) none).chanA.queue = [] ++ recA none :: [] ∧
    runs (exec (.memoryFault .A 0x44#32) (porting fillingA (some (.fill 0)) (some 0))) (fun t =>
      (t.chan .A).state == .halted && t.xchg 0 == none) = true := by decide +kernel

theorem test_witness_MemoryFault :
    (idle.chan .A).portOp = none ∧ ((fetching true).chan .A).portOp = some (.fetch true) ∧
    ((fetching false).chan .A).portOp = some (.fetch false) ∧
    (let c := (porting fillingA (some (.fill 0)) (some 0)).chan .A
     c.portOp = some (.fill 0) ∧ c.recOf 0 = some (recA (some 0)) ∧ c.state = .running) ∧
    (let c := (porting drainingA (some (.drain 0)) (some 0)).chan .A
     c.portOp = some (.drain 0) ∧ c.recOf 0 = some (recA (some 0))) ∧
    (let c := (porting completeA (some .statusWrite) none).chan .A
     c.portOp = some .statusWrite ∧ c.dueRec = some (recA none)) := by decide +kernel

/-! ## What every step keeps: one state with an exchange on the line that meets every invariant, and its step -/

def readOnLine : Exchange := onLine (mk .window .read at1 .issue .waiting [0])

def kept : State :=
  { working .await readOnLine .present with window.hold := .inFlight 0 0x10#16 0, pending := [.causeAck 0#32] }

theorem kept_only {t : Tag} {y : Exchange} (e : kept.xchg t = some y) : t = 0 ∧ y = readOnLine :=
  only_one (s := kept) (xs_oneTable readOnLine) e

theorem test_witness_step : ∃ t, step kept = .next t := ⟨_, rfl⟩

theorem test_witness_table_invariants :
    ListsAgree kept ∧ QuotasHold kept ∧ UnitsDisjoint kept ∧ CountsAgree kept ∧ PhasesAgree kept := by
  refine ⟨listsAgree_one (x := readOnLine) rfl fun _ => rfl,
    quotasHold_one (x := readOnLine) rfl (by decide +kernel) (by decide), ⟨?_, ?_, ?_, ?_⟩,
    counts_working (x := readOnLine) (st := .present) .await (by decide +kernel),
    phasesAgree_one (x := readOnLine) rfl (by decide)⟩
  · intro t x u e hu; cases (kept_only e).2
    rw [show u = 0 from by simpa [readOnLine, onLine, mk] using hu]; decide
  · intro t x e; cases (kept_only e).2; decide
  · intro t x e; cases (kept_only e).2; decide
  · intro t₁ t₂ x y u e₁ e₂ _ _; rw [(kept_only e₁).1, (kept_only e₂).1]

theorem test_witness_line_port_and_hold_invariants :
    LineShape kept ∧ OneOnLine kept ∧ PortNamesItsOwn kept ∧ HoldNamesItsRead kept := by
  refine ⟨⟨?_, ?_, ?_, ?_, ?_, ?_, ?_, ?_, ?_⟩, ?_, ports_idle (fun c => by cases c <;> rfl) (fun c => by cases c <;> rfl),
    ⟨⟨readOnLine, xchg_of_one (xs_oneTable readOnLine) 0, ⟨rfl, rfl, rfl, rfl⟩, rfl⟩, ?_⟩⟩
  · decide
  · decide
  · intro _ _ _ _; exact .inr (.inl rfl)
  · intro e; cases e
  · intro _; exact ⟨0, .issue, .read, rfl⟩
  · intro e; cases e
  · intro e; cases e
  · intro e; cases e
  · intro e; cases e
  · intro t x e _; rw [(kept_only e).1]; exact ⟨⟨.issue, .read, rfl⟩, .inr (.inl rfl)⟩
  · intro t x e _ _; rw [(kept_only e).1]; exact ⟨0, 0x10#16, .inl rfl⟩

theorem test_witness_OneUnsettled : OneUnsettled kept where
  job t _ _ e := by cases e; exact ⟨readOnLine, xchg_of_one (xs_oneTable readOnLine) 0, rfl⟩
  one _ t₁ t₂ _ _ e₁ e₂ _ _ := by rw [(kept_only e₁).1, (kept_only e₂).1]
  certain n t x _ e hk := by cases (kept_only e).2; cases hk

theorem test_witness_DeferralsFit : DeferralsFit kept where
  capacity := by decide +kernel
  closed := by decide +kernel
  room n t x e hx _ _ _ := by
    cases (kept_only e).2
    rw [show n = 0 from by simpa [readOnLine, onLine, mk, at1, eq_comm] using hx]
    decide +kernel

/-- A reply that completes channel A's own WRITE and, by the restart it shows, a READ created before it. -/
theorem test_completions_join_in_creation_order :
    let own := { onLine listWrite with seqUsed := some true, unanswered := true }
    let read := { mk (.list .A) .read at1 .collect .parked [13] with deadline := some (.running 65536) }
    ∀ l ∈ [([0, 1] : List Tag), [1, 0]],
      let s := { pair own read [] l [] { here .present 1 with epoch := some 5#4 } with
        line := onJob .receiving .issue .write }
      ListsAgree s ∧
      runs (exec (.replyReceived (replyOf 0x21#8 33#8 0#8 [])) s) (fun t => t.table.complA == l) = true := by
  intro own read l hl
  refine ⟨listsAgree_of ?_, ?_⟩ <;> revert l <;> decide +kernel

theorem test_witness_directory_invariants :
    DirectoryLists kept ∧ EventRoom kept ∧ DisabledIsIdle kept ∧ kept.regs.InRange ∧ CountsInRange kept ∧
    Memory.wf kept.store = true := by
  refine ⟨⟨List.nodup_nil, fun _ h => absurd h (List.not_mem_nil), List.nodup_nil⟩, ?_, ?_,
    test_witness_ParameterWritesAndReads, ?_, rfl⟩
  · show kept.events.queue.length + kept.countX _ ≤ 16; decide +kernel
  · intro n t x hd e hx; cases (kept_only e).2
    rw [show n = 0 from by simpa [readOnLine, onLine, mk, at1, eq_comm] using hx] at hd
    exact absurd hd (by decide +kernel)
  · refine ⟨?_, ?_, ?_, ?_, ?_⟩ <;> decide +kernel

theorem test_witness_ExchangesKeepTheirRequest :
    ∃ t, exec (.causeAck 0#32) kept = .next t ∧ kept.xchg 0 = some readOnLine ∧ t.xchg 0 = some readOnLine :=
  ⟨_, rfl, xchg_of_one (xs_oneTable readOnLine) 0, xchg_of_one (xs_oneTable readOnLine) 0⟩

end Sys2Proof.Tests
end

section
/-! PROOF. What RESET_N leaves: the state itself, and what the Station Directory and the Exchange Table read as then. -/

namespace Sys2Proof.Machine

/-! ## The state after RESET_N -/

/-- RESET_N answers the reset state with the waiting commands and the free-value counter kept (R179, log entry 21). -/
theorem exec_resetN (s : State) :
    exec .resetN s = .next { State.reset with pending := s.pending, freeCount := s.freeCount } := rfl

/-- A state with the directory of reset reads every entry as reset. -/
theorem entry_of_reset_dir {t : State} (h : t.dir = State.reset.dir) (n : Stn) : t.entry n = Entry.reset := by
  simp [State.entry, h, State.reset]

/-- A state with the Exchange Table of reset has every record FREE. -/
theorem xchg_of_reset_table {t : State} (h : t.table = State.reset.table) (tag : Tag) : t.xchg tag = none := by
  simp [State.xchg, h, State.reset]

/-- The mask of the bits 1 to 30 holds every station (R172). -/
theorem maskHas_stationBits (n : Stn) : maskHas stationBits n = true := by
  revert n; decide

/-! ## The directory -/

/-- Settles O3: the entries, the records and the census mask are those of the reset state, read through their lemmas; the
lists, the change summary, the rediscovery timer and the registers are its fields. -/
theorem resetNClearsTheDirectory : Obligations.ResetNClearsTheDirectory := by
  intro s
  refine ⟨_, exec_resetN s, ?entries, ?census, ?recovery, ?changes, ?rediscovery, ?dirSelect, ?autoCensus, ?censusMask,
    ?records⟩
  case entries => exact entry_of_reset_dir rfl
  case censusMask => exact maskHas_stationBits
  case records => exact xchg_of_reset_table rfl
  case census | recovery | changes | rediscovery | dirSelect | autoCensus => rfl

end Sys2Proof.Machine
end

section
/-! PROOF. CAUSE_ACK on the pending set: which bits of it are edge causes and which are conditions, and what goes. -/

namespace Sys2Proof.Machine

/-! ## The pending set, bit by bit -/

/-- A flag sets its own bit and no other. -/
theorem getLsbD_flag (pos : Nat) (b : Bool) (i : Nat) :
    (flag pos b).getLsbD i = (decide (i < 32) && decide (i = pos) && b) := by
  cases b with
  | false => simp [flag]
  | true =>
    have bit : (i < 32 ∧ pos ≤ i ∧ i - pos = 0) ↔ (i < 32 ∧ i = pos) := by omega
    rw [Bool.eq_iff_iff]
    simpa [flag, and_assoc] using bit

/-- The edge causes are the bits 0 to 7 (R167). -/
theorem getLsbD_edgeCauses (i : Nat) : edgeCauses.getLsbD i = decide (i < 8) := by
  have low : edgeCauses = (BitVec.allOnes 8).setWidth 32 := rfl
  rw [low, BitVec.getLsbD_setWidth, BitVec.getLsbD_allOnes, ← Bool.decide_and, decide_eq_decide]
  omega

/-- A cause is pending as an edge held, or as the condition whose bit it is (R167). -/
theorem getLsbD_pendingCauses (s : State) (i : Nat) :
    s.pendingCauses.getLsbD i =
      (s.irq.edge.getLsbD i || decide (i = 8) && s.eventsCondition || decide (i = 9) && s.stationsCondition) := by
  simp only [State.pendingCauses, BitVec.getLsbD_or, getLsbD_flag]
  grind

/-- An answer is not read by the pending set. -/
@[simp] theorem answer_pendingCauses (s : State) (a : Answer) : (s.answer a).pendingCauses = s.pendingCauses := rfl

/-! ## CAUSE_ACK -/

/-- CAUSE_ACK takes the named edge causes out of those held, and is answered DONE. -/
theorem exec_causeAck (mask : Word) (s : State) :
    exec (.causeAck mask) s =
      .next (({ s with irq.edge := s.irq.edge &&& ~~~(mask &&& edgeCauses) } : State).answer .done) := rfl

/-- Of the edge causes held, those stay that are not both an edge cause and named. -/
theorem getLsbD_ackEdges (edge mask : Word) (i : Nat) :
    (edge &&& ~~~(mask &&& edgeCauses)).getLsbD i = (edge.getLsbD i && !(mask.getLsbD i && decide (i < 8))) := by
  have beyond : 32 ≤ i → edge.getLsbD i = false := BitVec.getLsbD_of_ge edge i
  simp only [BitVec.getLsbD_and, BitVec.getLsbD_not, getLsbD_edgeCauses]
  grind

/-- The same of the whole pending set: a condition's bit is no edge cause, and its condition reads nothing that CAUSE_ACK
changes. -/
theorem getLsbD_pendingCauses_ackEdges (mask : Word) (s : State) (i : Nat) :
    ({ s with irq.edge := s.irq.edge &&& ~~~(mask &&& edgeCauses) } : State).pendingCauses.getLsbD i =
      (s.pendingCauses.getLsbD i && !(mask.getLsbD i && decide (i < 8))) := by
  simp only [getLsbD_pendingCauses, getLsbD_ackEdges, State.eventsCondition, State.stationsCondition]
  by_cases hi : i < 8
  · have noCondition : i ≠ 8 ∧ i ≠ 9 := by omega
    simp [hi, noCondition]
  · simp [hi]

/-- Settles O20: the mask takes its bits out of the pending set below bit 8, where the edge causes stand, and none from
bit 8 on, where the condition causes stand. -/
theorem causeAck : Obligations.CauseAck := by
  intro mask s
  refine ⟨_, exec_causeAck mask s, fun i hi => ?edges, fun i hi => ?conditions, rfl⟩
  case edges => simp [getLsbD_pendingCauses_ackEdges, hi]
  case conditions => simp [getLsbD_pendingCauses_ackEdges, Nat.not_lt.mpr hi]

end Sys2Proof.Machine
end

section
/-! PROOF. What the plain updates of one block leave of the entries, the records and the channels. -/

namespace Sys2Proof.Machine

/-! ## Entries -/

@[simp] theorem entry_setXchg (s : State) (t : Tag) (x : Option Exchange) (n : Stn) :
    (s.setXchg t x).entry n = s.entry n := rfl

@[simp] theorem entry_mapX (s : State) (f : Tag → Exchange → Exchange) (n : Stn) : (s.mapX f).entry n = s.entry n := rfl

@[simp] theorem entry_withdraw (s : State) (c : Chan) (n : Stn) : (s.withdraw c).entry n = s.entry n := rfl

@[simp] theorem entry_raise (s : State) (k : Word) (n : Stn) : (s.raise k).entry n = s.entry n := rfl

@[simp] theorem entry_dropRecovery (s : State) (n m : Stn) : (s.dropRecovery n).entry m = s.entry m := rfl

@[simp] theorem entry_completeBatch (s : State) (sel : Sel) (n : Stn) : (s.completeBatch sel).entry n = s.entry n := rfl

theorem entry_of_dir {s t : State} (h : t.dir = s.dir) (n : Stn) : t.entry n = s.entry n := by
  simp [State.entry, h]

@[simp] theorem entry_setChan (s : State) (c : Chan) (ch : Channel) (n : Stn) : (s.setChan c ch).entry n = s.entry n :=
  entry_of_dir (by simp) n

@[simp] theorem entry_modChan (s : State) (c : Chan) (f : Channel → Channel) (n : Stn) :
    (s.modChan c f).entry n = s.entry n :=
  entry_of_dir (by simp) n

@[simp] theorem entry_joinCensus (s : State) (n m : Stn) : (s.joinCensus n).entry m = s.entry m := by
  rw [joinCensus_eq]; rfl

@[simp] theorem entry_placePurge (s : State) (n m : Stn) : (s.placePurge n).entry m = s.entry m := by
  unfold State.placePurge; split <;> rfl

/-! ## Channels -/

@[simp] theorem chan_setChan_same (s : State) (c : Chan) (ch : Channel) : (s.setChan c ch).chan c = ch := by
  cases c <;> rfl

theorem chan_setChan_other (s : State) {c d : Chan} (ch : Channel) (h : d ≠ c) : (s.setChan c ch).chan d = s.chan d := by
  cases c <;> cases d <;> first | contradiction | rfl

@[simp] theorem chan_modChan_same (s : State) (c : Chan) (f : Channel → Channel) :
    (s.modChan c f).chan c = f (s.chan c) := chan_setChan_same s c _

theorem chan_modChan_other (s : State) {c d : Chan} (f : Channel → Channel) (h : d ≠ c) :
    (s.modChan c f).chan d = s.chan d := chan_setChan_other s _ h

@[simp] theorem chan_setXchg (s : State) (t : Tag) (x : Option Exchange) (c : Chan) :
    (s.setXchg t x).chan c = s.chan c := by cases c <;> rfl

@[simp] theorem chan_mapX (s : State) (f : Tag → Exchange → Exchange) (c : Chan) : (s.mapX f).chan c = s.chan c := by
  cases c <;> rfl

@[simp] theorem chan_withdraw (s : State) (c d : Chan) : (s.withdraw c).chan d = s.chan d := by cases d <;> rfl

@[simp] theorem chan_raise (s : State) (k : Word) (c : Chan) : (s.raise k).chan c = s.chan c := by cases c <;> rfl

@[simp] theorem chan_command (s : State) (v : CmdVerdict) (k : Nat) (f : CmdFields) (c : Chan) :
    (s.command v k f).chan c = s.chan c := by cases c <;> rfl

/-- Writing a channel twice is writing it once. -/
@[simp] theorem setChan_setChan (s : State) (c : Chan) (a b : Channel) : (s.setChan c a).setChan c b = s.setChan c b := by
  cases c <;> rfl

@[simp] theorem setChan_chan (s : State) (c : Chan) : s.setChan c (s.chan c) = s := by cases c <;> rfl

/-! ## Entries and records after a command's verdict -/

@[simp] theorem entry_command (s : State) (v : CmdVerdict) (k : Nat) (f : CmdFields) (n : Stn) :
    (s.command v k f).entry n = s.entry n := rfl

@[simp] theorem xchg_command (s : State) (v : CmdVerdict) (k : Nat) (f : CmdFields) (t : Tag) :
    (s.command v k f).xchg t = s.xchg t := rfl

@[simp] theorem xchg_answer (s : State) (a : Answer) (t : Tag) : (s.answer a).xchg t = s.xchg t := rfl

end Sys2Proof.Machine
end

section
/-! PROOF. A step of the block, and the command port: what COMMAND_STATUS shows, and what the link commands that change a
few fields answer. -/

namespace Sys2Proof.Machine

/-! ## A step -/

/-- Settles O1: `step` is defined by the two cases of the queue. -/
theorem stepRunsTheFrontCommand : Obligations.StepRunsTheFrontCommand := by
  intro c rest s h
  simp only [step, h]

/-! ## COMMAND_STATUS -/

/-- The status word of a command as its five fields, each moved to its place (R173). -/
theorem commandStatusWord_eq (v : CmdVerdict) (code : BitVec 8) (f : CmdFields) :
    commandStatusWord v code.toNat f =
      (BitVec.ofBool (v != .accepted)).setWidth 32 ||| (BitVec.ofNat 3 v.code).setWidth 32 <<< 1
        ||| code.setWidth 32 <<< 8 ||| f.station.setWidth 32 <<< 16
        ||| (BitVec.ofBool (f.chan == .B)).setWidth 32 <<< 24 := by
  have number (w : Nat) (x : BitVec w) : BitVec.ofNat 32 (x.toNat % 2 ^ w) = x.setWidth 32 := by
    rw [Nat.mod_eq_of_lt x.isLt, BitVec.ofNat_toNat]
  have bit (b : Bool) (pos : Nat) : flag pos b = (BitVec.ofBool b).setWidth 32 <<< pos := by
    cases b <;> simp [flag]
  have refusal : BitVec.ofNat 32 (v.code % 2 ^ 3) = (BitVec.ofNat 3 v.code).setWidth 32 := by
    cases v <;> rfl
  have chan : chanBit f.chan = (f.chan == .B) := by cases f.chan <;> rfl
  simp only [commandStatusWord, word, List.foldl, field, number, refusal, bit, chan]
  simp

/-- Settles O5: each field of the status word is read back from its own bits, since the other fields stand elsewhere. -/
theorem commandStatusShowsTheVerdict : Obligations.CommandStatusShowsTheVerdict := by
  intro s v code f
  have small : v.code < 8 := by cases v <;> decide
  refine ⟨rfl, ?_⟩
  rw [commandStatusWord_eq]
  refine ⟨?refusedBit, ?reasonField, ?codeField, ?stationField, ?chanBit⟩
  case refusedBit => simp
  case reasonField =>
    have h : ((BitVec.ofBool (v != .accepted)).setWidth 32 ||| (BitVec.ofNat 3 v.code).setWidth 32 <<< 1
        ||| code.setWidth 32 <<< 8 ||| f.station.setWidth 32 <<< 16
        ||| (BitVec.ofBool (f.chan == .B)).setWidth 32 <<< 24 : Word).extractLsb' 1 3 = BitVec.ofNat 3 v.code := by
      ext i hi
      have : i = 0 ∨ i = 1 ∨ i = 2 := by omega
      rcases this with rfl | rfl | rfl <;> simp
    rw [h, BitVec.toNat_ofNat]
    omega
  case codeField =>
    ext i hi
    have : i = 0 ∨ i = 1 ∨ i = 2 ∨ i = 3 ∨ i = 4 ∨ i = 5 ∨ i = 6 ∨ i = 7 := by omega
    rcases this with rfl | rfl | rfl | rfl | rfl | rfl | rfl | rfl <;> simp
  case stationField =>
    ext i hi
    have : i = 0 ∨ i = 1 ∨ i = 2 ∨ i = 3 ∨ i = 4 := by omega
    rcases this with rfl | rfl | rfl | rfl | rfl <;> simp
  case chanBit => simp
end Sys2Proof.Machine
end

section
/-! PROOF. The link commands and the station commands on the directory and the line. -/

namespace Sys2Proof.Machine

/-! ## Timers loaded from an interval -/

/-- A timer loaded from a KBT interval, with the KBT written out (R34, R98). -/
theorem loadKbt_eq (k : Nat) : loadKbt k = if k = 0 then none else some (k * 1024) := rfl

/-! ## The station field of a command (R173) -/

theorem stnOfField_addr {f : BitVec 5} {n : Stn} (h : f.toNat = addrOf n) : stnOfField f = some n := by
  have : 1 ≤ f.toNat ∧ f.toNat ≤ 30 := by rw [h]; unfold addrOf; omega
  simp only [stnOfField, this, and_self, dite_true, Option.some.injEq]
  exact Fin.ext (by simp [h, addrOf])

theorem stnOfField_noStation {f : BitVec 5} (h : f = 0#5 ∨ f = 31#5) : stnOfField f = none := by
  rcases h with rfl | rfl <;> rfl

/-! ## LINK_START, LINK_STOP and SWEEP_NOW -/

/-- The stations a LINK_START puts into the census list are open to a census already, so only those in the list are
left out (R28). -/
theorem autoCensusStns_filter (s : State) :
    s.autoCensusStns.filter (fun n => (s.entry n).state != .disabled && !s.dir.census.contains n) =
      allStns.filter fun n =>
        (s.entry n).state == .vacant && maskHas s.regs.censusMask n && !s.dir.census.contains n := by
  rw [State.autoCensusStns, List.filter_filter]
  apply List.filter_congr
  intro n _
  rw [Bool.eq_iff_iff]
  simp only [Bool.and_eq_true, bne_iff_ne, beq_iff_eq]
  constructor
  · rintro ⟨⟨_, fresh⟩, vacant, mask⟩
    exact ⟨⟨vacant, mask⟩, fresh⟩
  · rintro ⟨⟨vacant, mask⟩, fresh⟩
    exact ⟨⟨by simp [vacant], fresh⟩, vacant, mask⟩

theorem autoCensusStns_nodup (s : State) : s.autoCensusStns.Nodup := allStns_nodup.filter _

/-- Settles O6: outside OFF the command is refused; in OFF the records of line, pointer, directory and sweep are the
stated ones, and with auto-census on `joinCensusAll_eq` gives the list. -/
theorem linkStart : Obligations.LinkStart := by
  intro f s
  constructor
  · intro off
    show execLinkStart f s = _
    rw [execLinkStart, if_pos off]
    congr 2
    unfold State.linkStarted
    by_cases auto : s.regs.autoCensus = true
    · simp only [auto, if_true]
      rw [joinCensusAll_eq _ (autoCensusStns_nodup s)]
      have census := autoCensusStns_filter s
      simp only [State.entry] at census ⊢
      rw [census]
      rfl
    · simp only [Bool.not_eq_true] at auto
      simp only [auto, Bool.false_eq_true, if_false]
      rfl
  · intro on
    show execLinkStart f s = _
    rw [execLinkStart, if_neg on]

/-- LINK_STOP finds nothing to do (R79). -/
theorem mayStop_iff {s : State} :
    s.mayStop = true ↔
      s.line.state = .idle ∧ (∀ tag, s.xchg tag = none) ∧ s.dir.census = [] ∧ s.dir.recovery = [] := by
  have free : (s.anyX fun _ => true) = false ↔ ∀ tag, s.xchg tag = none := by
    simp only [State.anyX, allTags, List.any_eq_false, List.mem_finRange, forall_const]
    refine forall_congr' fun tag => ?_
    cases s.xchg tag <;> simp
  simp only [State.mayStop, Bool.and_eq_true, Bool.not_eq_true', beq_iff_eq, List.isEmpty_iff, free, and_assoc]

/-- With every record FREE no station has a deferral. -/
theorem deferredOf_of_free {s : State} (h : ∀ tag, s.xchg tag = none) (n : Stn) : s.deferredOf n = 0 := by
  simp [State.deferredOf, State.countX, h]

/-- The directory that a LINK_STOP leaves (R48): its entries and its change summary; nothing else of the state changes. -/
theorem clearDirectory_spec (s : State) :
    ∃ m, s.clearDirectory =
        { s with dir := { s.dir with
            entries := (s.mapEntries fun _ e => if e.state = .disabled then e else Entry.reset).dir.entries
            changes := m } } ∧
      ∀ n, maskHas m n =
        (maskHas s.dir.changes n || ((s.entry n).state != .disabled && (s.entry n).state != .vacant)) := by
  obtain ⟨m, e, h⟩ := noteChange_foldl (s.mapEntries fun _ e => if e.state = .disabled then e else Entry.reset)
    (allStns.filter fun n => (s.entry n).state != .disabled && (s.entry n).state != .vacant)
  refine ⟨m, e, fun n => (h n).trans ?_⟩
  rw [show (s.mapEntries fun _ e => if e.state = .disabled then e else Entry.reset).dir.changes = s.dir.changes from rfl]
  congr 1
  rw [Bool.eq_iff_iff]
  simp [mem_allStns]

/-- Settles O7: `mayStop_iff` decides the verdict; with every record FREE the deferred counts are 0 before and after, so
that counting them again changes nothing. -/
theorem linkStop : Obligations.LinkStop := by
  intro f s counts idle
  constructor
  · intro h
    obtain ⟨_, free, census, recovery⟩ := id h
    obtain ⟨m, eq, mask⟩ := clearDirectory_spec s
    have entries (n : Stn) :
        s.clearDirectory.entry n = if (s.entry n).state = .disabled then s.entry n else Entry.reset := by
      have e : s.clearDirectory.dir.entries =
          (s.mapEntries fun _ e => if e.state = .disabled then e else Entry.reset).dir.entries := by rw [eq]
      rw [entry_of_entries e, entry_mapEntries]
    have agree : CountsAgree s.linkStopped := by
      intro n
      have none_left (u : State) (hu : ∀ tag, u.xchg tag = none) := deferredOf_of_free hu n
      have table : s.linkStopped.table = s.table := by
        show s.clearDirectory.table = _
        rw [eq]
      rw [none_left _ fun tag => (xchg_of_table table tag).trans (free tag)]
      show (s.clearDirectory.entry n).deferred = 0
      rw [entries]
      split
      · rw [counts n, none_left s free]
      · rfl
    have run : exec (.linkStop f) s = .next (s.linkStopped.command .accepted 0x02 f) := by
      show execLinkStop f s = _
      rw [execLinkStop, if_pos (mayStop_iff.mpr h), recount_self agree]
    refine ⟨_, run, entries, ?_, ?_, ?_, rfl, ?_⟩
    · intro n
      show maskHas s.clearDirectory.dir.changes n = _
      rw [eq]
      exact mask n
    · show s.clearDirectory.dir.census = _
      rw [eq]
      exact census
    · show s.clearDirectory.dir.recovery = _
      rw [eq]
      exact recovery
    · unfold State.linkStopped
      rw [eq]
      rfl
  · intro h
    show execLinkStop f s = _
    rw [execLinkStop, if_neg (fun k => h (mayStop_iff.mp k))]

/-- Settles O8: the two verdicts are the two branches of the command. -/
theorem sweepNow : Obligations.SweepNow := by
  intro f s
  constructor
  · intro off
    show execSweepNow f s = _
    rw [execSweepNow, if_pos off]
  · intro on
    show execSweepNow f s = _
    rw [execSweepNow, if_neg on]

end Sys2Proof.Machine
end

section
/-! PROOF. The station commands and ACK_CHANGES. -/

namespace Sys2Proof.Machine

/-! ## CENSUS -/

theorem maskStns_nodup (m : Word) : (maskStns m).Nodup := allStns_nodup.filter _

/-- Settles O11: the stations of the mask join in address order by `joinCensusAll_eq`. -/
theorem censusCommand : Obligations.CensusCommand := by
  intro f s
  constructor
  · intro empty
    show execCensus f s = _
    rw [execCensus, if_pos empty]
  · intro some
    show execCensus f s = _
    rw [execCensus, if_neg some, joinCensusAll_eq _ (maskStns_nodup _), maskStns, List.filter_filter]
    simp only [Bool.and_comm, Bool.and_left_comm]

/-! ## STATION_HOLD and STATION_RELEASE -/

/-- A record after a READY sign that an entry kept: from PARKED it becomes WAITING, at its own station (R41, R102). -/
def Exchange.unparked (n : Stn) (x : Exchange) : Exchange :=
  if x.dest = .station n ∧ x.state = .parked then { x with state := .waiting } else x

/-- PARKED and WAITING exchanges are equally unfinished. -/
theorem unparked_isDeferred (n : Stn) (x : Exchange) :
    (x.unparked n).isDeferred = x.isDeferred ∧ (x.unparked n).dest = x.dest := by
  unfold Exchange.unparked
  split
  · rename_i h
    simp only [Exchange.isDeferred, Exchange.live, h.2]
    exact ⟨rfl, trivial⟩
  · exact ⟨rfl, rfl⟩

/-- Where a map of the records keeps the deferred ones, it keeps the counts. -/
theorem deferredOf_mapX {s : State} {f : Tag → Exchange → Exchange}
    (h : ∀ tag x, (f tag x).isDeferred = x.isDeferred ∧ (f tag x).dest = x.dest) (n : Stn) :
    (s.mapX f).deferredOf n = s.deferredOf n := by
  refine countX_congr fun tag => ?_
  rw [xchg_mapX]
  cases s.xchg tag with
  | none => rfl
  | some x => simp [(h tag x).1, (h tag x).2]

/-- The effects of an accepted STATION_RELEASE, with the kept READY mark as a condition on each record (R41). -/
theorem released_eq (s : State) (n : Stn) :
    s.released n =
      (if (s.entry n).keptReady then
        ((s.moveTo n (if s.regs.suspectThreshold ≤ (s.entry n).failures then .suspect else .present)).modEntry n
          fun e => { e with keptReady := false }).mapX fun _ x => x.unparked n
      else s.moveTo n (if s.regs.suspectThreshold ≤ (s.entry n).failures then .suspect else .present)) := rfl

theorem released_entry (s : State) (n m : Stn) :
    (s.released n).entry m =
      if m = n then
        { s.entry n with
          state := if s.regs.suspectThreshold ≤ (s.entry n).failures then .suspect else .present, keptReady := false }
      else s.entry m := by
  rw [released_eq]
  split
  · by_cases h : m = n <;> simp [h]
  · rename_i kept
    rw [entry_moveTo]
    by_cases h : m = n
    · simp only [Bool.not_eq_true] at kept
      rw [if_pos h, if_pos h, ← kept]
    · rw [if_neg h, if_neg h]

theorem released_xchg (s : State) (n : Stn) (tag : Tag) :
    (s.released n).xchg tag =
      (s.xchg tag).map fun x => if (s.entry n).keptReady = true then x.unparked n else x := by
  rw [released_eq]
  by_cases kept : (s.entry n).keptReady = true
  · rw [if_pos kept, xchg_mapX]
    simp [kept]
  · rw [if_neg kept]
    simp [kept]

theorem released_countsAgree {s : State} (h : CountsAgree s) (n : Stn) : CountsAgree (s.released n) := by
  refine countsAgree_of h (fun m => ?_) (fun m => countX_congr fun tag => ?_)
  · rw [released_entry]
    split
    · rename_i e; rw [e]
    · rfl
  · rw [released_xchg]
    cases s.xchg tag with
    | none => rfl
    | some x =>
      have keep := unparked_isDeferred n x
      simp only [Option.map_some, Option.any_some]
      split
      · rw [keep.1, keep.2]
      · rfl

/-- Settles O12: both commands by the state of the entry; for the release each record and each entry is read back by
`released_xchg` and `released_entry`. -/
theorem stationHoldAndRelease : Obligations.StationHoldAndRelease := by
  refine ⟨⟨fun f s h => ?holdNone, fun f n s h => ⟨fun st => ?hold, fun p q => ?holdRefused⟩⟩,
    fun f s h => ?releaseNone, fun f n s h counts => ⟨fun st => ?releaseRefused, fun st => ?release⟩⟩
  case holdNone =>
    show execStationHold f s = _
    rw [execStationHold, stnOfField_noStation h]
  case hold =>
    show execStationHold f s = _
    rw [execStationHold, stnOfField_addr h]
    dsimp only
    rcases st with st | st <;> rw [st] <;> rfl
  case holdRefused =>
    show execStationHold f s = _
    rw [execStationHold, stnOfField_addr h]
    dsimp only
    split <;> first | contradiction | rfl
  case releaseNone =>
    show execStationRelease f s = _
    rw [execStationRelease, stnOfField_noStation h]
  case releaseRefused =>
    show execStationRelease f s = _
    rw [execStationRelease, stnOfField_addr h]
    dsimp only
    rw [if_neg st]
  case release =>
    have run : exec (.stationRelease f) s = .next ((s.released n).command .accepted 0x09 f) := by
      show execStationRelease f s = _
      rw [execStationRelease, stnOfField_addr h]
      dsimp only
      rw [if_pos st, recount_self (released_countsAgree counts n)]
    refine ⟨_, run, ?_, fun m hm => ?_, fun tag => ?_, ?_⟩
    · exact (released_entry s n n).trans (if_pos rfl)
    · exact (released_entry s n m).trans (if_neg hm)
    · refine (released_xchg s n tag).trans (Option.map_congr fun x _ => ?_)
      by_cases kept : (s.entry n).keptReady = true <;> simp [kept, Exchange.unparked]
    · rw [released_eq]
      split <;> rfl

/-! ## STATION_DISABLE and STATION_ENABLE -/

/-- An exchange to the station is in flight (R42). -/
theorem inFlightTo_iff {s : State} {n : Stn} :
    s.inFlightTo n = true ↔
      ∃ tag x, s.xchg tag = some x ∧ x.dest = .station n ∧ x.state ≠ .complete ∧ x.state ≠ .draining := by
  simp only [State.inFlightTo, State.anyX, allTags, List.any_eq_true, List.mem_finRange, true_and]
  refine exists_congr fun tag => ?_
  cases s.xchg tag with
  | none => simp
  | some x => simp [Exchange.live, and_comm]

/-- Settles O13: the three branches of the command are told apart by the entry's state and `inFlightTo_iff`; the new
directory is read off, the entry being written twice. -/
theorem stationDisable : Obligations.StationDisable := by
  refine ⟨fun f s h => ?noStation, fun f n s h => ⟨fun st => ?disabled, fun st busy => ?busy, fun st idle => ?accepted⟩⟩
  case noStation =>
    show execStationDisable f s = _
    rw [execStationDisable, stnOfField_noStation h]
  case disabled =>
    show execStationDisable f s = _
    rw [execStationDisable, stnOfField_addr h]
    dsimp only
    rw [if_pos st]
  case busy =>
    show execStationDisable f s = _
    rw [execStationDisable, stnOfField_addr h]
    dsimp only
    rw [if_neg st, if_pos (inFlightTo_iff.mpr busy)]
  case accepted =>
    show execStationDisable f s = _
    rw [execStationDisable, stnOfField_addr h]
    dsimp only
    rw [if_neg st, if_neg (fun k => idle (inFlightTo_iff.mp k))]
    have entries : (s.disabled n).dir.entries = (s.setEntry n { s.entry n with
        state := .disabled, holdTimer := none, eventPending := false, purgeNeeded := false, keptReady := false,
        failures := 0 }).dir.entries := by
      refine entries_ext fun m => ?_
      show ((s.moveTo n .disabled).modEntry n fun e =>
        { e with holdTimer := none, eventPending := false, purgeNeeded := false, keptReady := false,
                 failures := 0 }).entry m = _
      by_cases h : m = n <;> simp [h]
    have whole : s.disabled n = { s with dir := { s.dir with
        entries := (s.disabled n).dir.entries
        changes := s.dir.changes ||| 1#32 <<< addrOf n
        census := s.dir.census.filter (· != n)
        recovery := s.dir.recovery.filter fun r => r.1 != n } } := rfl
    rw [whole, entries]
    rfl

/-- A DISABLED station without exchanges in flight has no deferral (R42). -/
theorem deferredOf_disabled {s : State} {n : Stn} (h : DisabledIsIdle s) (st : (s.entry n).state = .disabled) :
    s.deferredOf n = 0 := by
  simp only [State.deferredOf, State.countX, List.countP_eq_zero, Option.any_eq_true, Bool.and_eq_true, beq_iff_eq,
    not_exists, not_and]
  intro tag _ x hx deferred dest
  have live := h n tag x st hx dest
  simp [Exchange.isDeferred, live] at deferred

/-- Settles O14: the station that was DISABLED has no deferral, so the cleared entry's count agrees and counting again
changes nothing; it is VACANT now and may join the census list. -/
theorem stationEnable : Obligations.StationEnable := by
  refine ⟨fun f s h => ?noStation, fun f n s h counts idle => ⟨fun st => ?refused, fun st => ?accepted⟩⟩
  case noStation =>
    show execStationEnable f s = _
    rw [execStationEnable, stnOfField_noStation h]
  case refused =>
    show execStationEnable f s = _
    rw [execStationEnable, stnOfField_addr h]
    dsimp only
    rw [if_neg st]
  case accepted =>
    let cleared := (s.modEntry n fun e => { Entry.reset with wasPresent := e.wasPresent }).noteChange n
    have vacant : (cleared.entry n).state = .vacant := by
      rw [entry_noteChange, entry_modEntry, if_pos rfl]
      rfl
    have enabled : s.enabled n = { cleared with dir := { cleared.dir with
        census := if s.regs.autoCensus = true ∧ n ∉ s.dir.census then s.dir.census ++ [n] else s.dir.census } } := by
      show (if s.regs.autoCensus then cleared.joinCensus n else cleared) = _
      by_cases auto : s.regs.autoCensus = true
      · rw [if_pos auto, joinCensus_eq]
        by_cases mem : n ∈ s.dir.census
        · have mem' : n ∈ cleared.dir.census := mem
          simp [auto, mem, mem', vacant]
          rfl
        · have mem' : n ∉ cleared.dir.census := mem
          simp [auto, mem, mem', vacant]
          rfl
      · rw [if_neg auto]
        simp [auto]
        rfl
    have agree : CountsAgree (s.enabled n) := by
      have same (m : Stn) : (s.enabled n).deferredOf m = s.deferredOf m :=
        deferredOf_of_xchg (fun tag => xchg_of_table (by rw [enabled]; rfl) tag) m
      intro m
      have entry : (s.enabled n).entry m =
          if m = n then { Entry.reset with wasPresent := (s.entry n).wasPresent } else s.entry m := by
        rw [entry_of_entries (s := cleared) (by rw [enabled])]
        by_cases h : m = n <;> simp [cleared, h]
      rw [entry, same]
      split
      · rename_i e
        rw [e, deferredOf_disabled idle st]
        rfl
      · exact counts m
    show execStationEnable f s = _
    rw [execStationEnable, stnOfField_addr h]
    dsimp only
    rw [if_pos st, recount_self agree, enabled]
    rfl

/-! ## STATION_RESET -/

theorem recoveryOf_eq_none {s : State} {n : Stn} (h : ∀ r ∈ s.dir.recovery, r.1 ≠ n) : s.recoveryOf n = none := by
  simpa [State.recoveryOf, List.find?_eq_none] using fun a b hr e => h (a, b) hr e

theorem recoveryOf_isSome {s : State} {n : Stn} {act : RecAction} (h : (n, act) ∈ s.dir.recovery) :
    (s.recoveryOf n).isSome = true := by
  rw [State.recoveryOf, Option.isSome_map, List.find?_isSome]
  exact ⟨_, h, by simp⟩

/-- A RESET record takes the one record of its station (R35). -/
theorem map_replace_one {n : Stn} {act : RecAction} {a b : List (Stn × RecAction)} (h : ∀ r ∈ a ++ b, r.1 ≠ n) :
    ((a ++ (n, act) :: b).map fun r => if r.1 = n then (n, RecAction.reset) else r) = a ++ (n, .reset) :: b := by
  have other (l : List (Stn × RecAction)) (hl : ∀ r ∈ l, r.1 ≠ n) :
      (l.map fun r => if r.1 = n then (n, RecAction.reset) else r) = l :=
    (List.map_congr_left fun r hr => if_neg (hl r hr)).trans (List.map_id _)
  rw [List.map_append, List.map_cons, if_pos rfl,
    other a fun r hr => h r (List.mem_append_left b hr), other b fun r hr => h r (List.mem_append_right a hr)]

/-- Settles O15: `placeReset` by whether the station has a record. -/
theorem stationResetCommand : Obligations.StationResetCommand := by
  refine ⟨fun f s h => ?noStation, fun f n s h => ⟨fun st => ?refused, fun st free => ?joins,
    fun st a act b eq others => ?replaces⟩⟩
  case noStation =>
    show execStationReset f s = _
    rw [execStationReset, stnOfField_noStation h]
  case refused =>
    show execStationReset f s = _
    rw [execStationReset, stnOfField_addr h]
    dsimp only
    rcases st with st | st | st <;> rw [st]
  all_goals
    have run : exec (.stationReset f) s = .next ((s.placeReset n).command .accepted 0x0C f) := by
      show execStationReset f s = _
      rw [execStationReset, stnOfField_addr h]
      dsimp only
      split <;> first | rfl | (rename_i e; exact absurd (by simp [e]) st)
    rw [run]
  case joins =>
    rw [State.placeReset, recoveryOf_eq_none free]
    rfl
  case replaces =>
    have mem : (n, act) ∈ s.dir.recovery := by rw [eq]; simp
    rw [State.placeReset, if_pos (recoveryOf_isSome mem), eq, map_replace_one others]

end Sys2Proof.Machine
end

section
/-! PROOF. The list commands that touch one channel, the event queue, the causes, and the two interval timers. -/

namespace Sys2Proof.Machine

/-! ## LIST_START, LIST_PAUSE, LIST_RESUME and LIST_CONTINUE -/

theorem align32_mask : ∀ i : Fin 32, 5 ≤ i.val → (0xFFFFFFE0#32)[i.val] = true := by decide

/-- Taking the five low bits as 0 rounds down to a multiple of 32. -/
theorem align32_toNat (a : Word) : (align32 a).toNat = a.toNat / 32 * 32 := by
  have shifts : align32 a = (a >>> 5) <<< 5 := by
    unfold align32
    ext i hi
    simp only [BitVec.getElem_and, BitVec.getElem_shiftLeft]
    by_cases low : i < 5
    · have : i = 0 ∨ i = 1 ∨ i = 2 ∨ i = 3 ∨ i = 4 := by omega
      rcases this with rfl | rfl | rfl | rfl | rfl <;> simp
    · have mask : (0xFFFFFFE0#32)[i] = true := by
        exact align32_mask ⟨i, hi⟩ (Nat.le_of_not_lt low)
      have back : 5 + (i - 5) = i := by omega
      simp [mask, low, back, BitVec.getLsbD_eq_getElem hi]
  rw [shifts, BitVec.toNat_shiftLeft, BitVec.toNat_ushiftRight, Nat.shiftRight_eq_div_pow, Nat.shiftLeft_eq,
    Nat.mod_eq_of_lt]
  have := a.isLt
  omega

/-- Leaving RUNNING (R137): the wait list without the channel's entry, and the channel without its pending descriptor and
with its fetch, if one is under way, marked to be dropped. -/
theorem leaveRunning_eq (s : State) (c : Chan) :
    s.leaveRunning c = (({ s with table := { s.table with
        waitList := s.table.waitList.filter fun e => e.1 != c } } : State).setChan c { s.chan c with
      pendingDesc := none
      portOp := if ∃ b, (s.chan c).portOp = some (.fetch b) then some (.fetch true) else (s.chan c).portOp }) := by
  unfold State.leaveRunning State.modChan State.withdraw
  congr 1
  have same : State.chan { s with table := { s.table with waitList := s.table.waitList.filter fun e => e.1 != c } } c
      = s.chan c := by cases c <;> rfl
  rw [same]
  dsimp only
  congr 1
  split
  · rename_i b h
    rw [if_pos ⟨b, h⟩]
  · rename_i other
    rw [if_neg fun ⟨b, h⟩ => other b h]

/-- Settles O16: each command by the channel's state; the pause through `leaveRunning_eq`. -/
theorem listStartPauseAndResume : Obligations.ListStartPauseAndResume := by
  refine ⟨fun f s => ⟨fun st => ?start, fun p q => ?startRefused, align32_toNat⟩,
    fun f s => ⟨fun st => ?pause, fun st => ?pauseRefused, fun st => ?resume, fun st => ?resumeRefused⟩⟩
  case start =>
    show execListStart f s = _
    rw [execListStart]
    rcases st with st | st <;> rw [st] <;> rfl
  case startRefused =>
    show execListStart f s = _
    rw [execListStart]
    split <;> first | contradiction | rfl
  case pause =>
    have run : exec (.listPause f) s =
        .next (((s.leaveRunning f.chan).modChan f.chan fun ch => { ch with state := .paused }).command .accepted 0x11 f) := by
      show execListPause f s = _
      rw [execListPause, if_pos st]
    refine ⟨_, run, ?_, ?_⟩
    · rw [chan_command, chan_modChan_same, leaveRunning_eq, chan_setChan_same]
    · rw [chan_command, chan_modChan_same, State.modChan, leaveRunning_eq, chan_setChan_same, setChan_setChan]
  case pauseRefused =>
    show execListPause f s = _
    rw [execListPause, if_neg st]
  case resume =>
    show execListResume f s = _
    rw [execListResume, if_pos st]
    rfl
  case resumeRefused =>
    show execListResume f s = _
    rw [execListResume, if_neg st]

/-- Settles O17: the condition of the statement is the command's own. -/
theorem listContinue : Obligations.ListContinue := by
  intro f s
  constructor
  · intro h
    show execListContinue f s = _
    unfold execListContinue
    rw [if_pos h]
    rfl
  · intro h
    show execListContinue f s = _
    unfold execListContinue
    rw [if_neg h]

/-! ## The event queue, the window's fault record, the change summary, and the causes -/

/-- Settles O19: the commands by whether the queue is empty, and the change summary bit by bit. -/
theorem eventWindowAndChangeCommands : Obligations.EventWindowAndChangeCommands := by
  refine ⟨fun f s => ⟨fun h => ?empty, fun e q h => ?pop, rfl, rfl, fun code => rfl⟩, fun f s => ⟨_, rfl, fun n => ?mask, rfl⟩⟩
  case empty =>
    show execEventPop f s = _
    rw [execEventPop, h]
  case pop =>
    show execEventPop f s = _
    rw [execEventPop, h]
  case mask =>
    have hn : addrOf n < 32 := addrOf_lt n
    show maskHas (s.dir.changes &&& ~~~s.regs.commandMask) n = _
    simp [maskHas, hn]

/-- IRQ_N is asserted exactly while some cause is pending and enabled (R169). -/
theorem irqAsserted_iff (s : State) :
    s.irqAsserted = true ↔ ∃ i, s.pendingCauses.getLsbD i = true ∧ s.irq.enable.getLsbD i = true := by
  have zero (w : Word) : w ≠ 0#32 ↔ ∃ i, w.getLsbD i = true := by
    constructor
    · intro h
      by_contra none
      exact h (BitVec.eq_of_getLsbD_eq fun i _ => by simpa using fun e => none ⟨i, e⟩)
    · rintro ⟨i, hi⟩ rfl
      simp at hi
  simp only [State.irqAsserted, bne_iff_ne, zero, BitVec.getLsbD_and, Bool.and_eq_true]

/-- In the ranges of R167 no edge cause stands beyond bit 7. -/
theorem edge_getLsbD_high {s : State} (h : CountsInRange s) {i : Nat} (hi : 8 ≤ i) : s.irq.edge.getLsbD i = false := by
  by_cases big : 32 ≤ i
  · exact BitVec.getLsbD_of_ge _ _ big
  · have bit : (s.irq.edge &&& ~~~edgeCauses).getLsbD i = false := by rw [h.edge]; exact BitVec.getLsbD_zero
    rw [BitVec.getLsbD_and, BitVec.getLsbD_not, getLsbD_edgeCauses] at bit
    simpa only [decide_eq_true (Nat.lt_of_not_le big), decide_eq_false (Nat.not_lt.mpr hi), Bool.not_false, Bool.and_true]
      using bit

/-- Settles O21: the enable set by the command's meaning; the pending set bit by bit, with no edge cause at bits 8 and 9. -/
theorem causesEnableAndTheInterruptLine : Obligations.CausesEnableAndTheInterruptLine := by
  refine ⟨⟨fun mask s => rfl, fun s => rfl, fun s => ⟨_, exec_resetN s, rfl⟩, irqAsserted_iff⟩,
    fun s range => ⟨?events, ?stations, fun i hi => ?edge⟩⟩
  case events =>
    rw [getLsbD_pendingCauses, edge_getLsbD_high range (by omega)]
    simp [State.eventsCondition]
  case stations =>
    rw [getLsbD_pendingCauses, edge_getLsbD_high range (by omega)]
    simp [State.stationsCondition]
  case edge =>
    have : i ≠ 8 ∧ i ≠ 9 := by omega
    simp [getLsbD_pendingCauses, this]

/-! ## The interval timers -/

/-- A value taken into 0 to 255 (R172). -/
theorem clamp_zero_255 (v : Nat) : clamp 0 255 v = min v 255 := by unfold clamp; omega

/-- The SILENT stations may all join the census list, but for those in it (R34). -/
theorem silentStns_filter (s : State) :
    s.silentStns.filter (fun n => (s.entry n).state != .disabled && !s.dir.census.contains n) =
      allStns.filter fun n => (s.entry n).state == .silent && !s.dir.census.contains n := by
  rw [State.silentStns, List.filter_filter]
  apply List.filter_congr
  intro n _
  rw [Bool.eq_iff_iff]
  simp only [Bool.and_eq_true, bne_iff_ne, beq_iff_eq]
  constructor
  · rintro ⟨⟨_, fresh⟩, silent⟩
    exact ⟨silent, fresh⟩
  · rintro ⟨silent, fresh⟩
    exact ⟨⟨by simp [silent], fresh⟩, silent⟩

theorem silentStns_nodup (s : State) : s.silentStns.Nodup := allStns_nodup.filter _

/-- The timer after a write of its interval: loaded where it is stopped, the line is not OFF and the value is not 0. -/
theorem ite_loadKbt {p : Prop} [Decidable p] {timer : Option Nat} (k : Nat) (stopped : p → timer = none) :
    (if p then loadKbt k else timer) = if p ∧ k ≠ 0 then some (k * 1024) else timer := by
  by_cases hp : p <;> by_cases hk : k = 0 <;> simp [loadKbt, Config.kbt, hp, hk, stopped]

/-- Settles O22: the writes by whether the timer starts, the expiries by whether it runs; the SILENT stations join by
`joinCensusAll_eq`. -/
theorem intervalTimers : Obligations.IntervalTimers := by
  refine ⟨⟨fun v s => ?sweepWrite, fun s => ⟨fun h => ?sweepStopped, fun h => ?sweepRuns⟩⟩,
    ⟨fun v s => ?write, fun s => ⟨fun h => ?stopped, fun h => ?runs⟩⟩⟩
  case sweepWrite =>
    intro k
    have timer := ite_loadKbt (p := s.sweep.timer = none ∧ s.line.state ≠ .off) (timer := s.sweep.timer) k (·.1)
    simp only [and_assoc] at timer
    show execSweepIntervalWrite v s = _
    unfold execSweepIntervalWrite
    rw [clamp_zero_255, ← timer]
    dsimp only
    split
    · rfl
    · rfl
  case sweepStopped =>
    show execSweepIntervalExpiry s = _
    rw [execSweepIntervalExpiry, h]
  case sweepRuns =>
    obtain ⟨t, ht⟩ := Option.ne_none_iff_exists'.mp h
    show execSweepIntervalExpiry s = _
    rw [execSweepIntervalExpiry, ht]
    rfl
  case write =>
    intro k
    have timer := ite_loadKbt (p := s.dir.rediscovery = none ∧ s.line.state ≠ .off) (timer := s.dir.rediscovery) k (·.1)
    simp only [and_assoc] at timer
    show execRediscoverIntervalWrite v s = _
    unfold execRediscoverIntervalWrite
    rw [clamp_zero_255, ← timer]
    dsimp only
    split
    · rfl
    · rfl
  case stopped =>
    show execRediscoveryTimerExpiry s = _
    rw [execRediscoveryTimerExpiry, h]
  case runs =>
    obtain ⟨t, ht⟩ := Option.ne_none_iff_exists'.mp h
    show execRediscoveryTimerExpiry s = _
    rw [execRediscoveryTimerExpiry, ht]
    dsimp only
    rw [joinCensusAll_eq _ (silentStns_nodup s), silentStns_filter]
    rfl

end Sys2Proof.Machine
end

section
/-! PROOF. Why the port operations of a channel may cease to name its exchanges where phases and states do not agree: a
restart ends every unfinished exchange that is not in the ISSUE phase, a FILLING one among them. -/

namespace Sys2Proof.Machine

/-- An exchange to station 1 as it is created, but for its phase and state. -/
def sketch (o : Owner) (k : Kind) (ph : Phase) (st : XState) : Exchange where
  owner := o
  kind := k
  dest := .station 0
  regAddr := none
  length := none
  signalOp := none
  units := []
  phase := ph
  state := st
  attempts := 0
  busyCount := 0
  seqUsed := none
  unanswered := false
  fence := false
  expired := false
  fillEnd := none
  carried := none
  backoff := none
  deadline := none
  epochSeen := none
  result := none

/-- Channel A fills a WRITE whose record is in the COLLECT phase, against R5, while the station's STATION_RESET is answered
ACCEPT. -/
def fillingInCollect : State :=
  { State.reset with
    table := { State.reset.table with
      xs := (State.reset.table.xs.set 0 (some (sketch (.list .A) .write .collect .filling))).set 1
        (some (sketch .internal .stationReset .issue .onLine))
      listAList := [0]
      intList := [1] }
    chanA := { Channel.reset with portOp := some (.fill 0) }
    line := { Line.reset with state := .receiving, job := some (.attempt 1 .issue .stationReset) }
    pending := [.replyReceived [0x21#8, 1#8, 1#8, 0#8, 0#8, 0xF2#8, 0x6D#8]] }

/-- `ListsAgree` from a check of each record. -/
theorem listsAgree_of_any {s : State} (nodup : ∀ o, (s.table.creation o).Nodup)
    (mem : ∀ o tag, tag ∈ s.table.creation o ↔ (s.xchg tag).any (fun x => x.owner == o) = true) : ListsAgree s where
  nodup := nodup
  mem o tag := by
    rw [mem]
    simp [Option.any_eq_true]

theorem fillingInCollect_lists : ListsAgree fillingInCollect := by
  apply listsAgree_of_any <;> intro o
  · rcases o with _ | c | _
    · exact List.nodup_nil
    · cases c
      · exact List.nodup_singleton _
      · exact List.nodup_nil
    · exact List.nodup_singleton _
  · rcases o with _ | c | _
    · decide +kernel
    · cases c <;> decide +kernel
    · decide +kernel

theorem fillingInCollect_port : PortNamesItsOwn fillingInCollect where
  fill c tag h := by
    cases c with
    | A => cases h; exact ⟨_, rfl, rfl, rfl⟩
    | B => cases h
  drain c tag h := by cases c <;> cases h
  compl c tag h := by cases c <;> cases h

theorem fillingInCollect_hold : HoldNamesItsRead fillingInCollect := by
  refine ⟨trivial, fun tag x hx window => ?_⟩
  have none_of_window : ∀ tag, (fillingInCollect.xchg tag).all (fun x => x.owner != .window) = true := by decide +kernel
  have := none_of_window tag
  simp [hx, window] at this

/-- The reply ends the FILLING exchange, and the channel's fill goes on naming it. -/
theorem fillingInCollect_step :
    ∃ t, step fillingInCollect = .next t ∧ (t.chan .A).portOp = some (.fill 0) ∧
      ∀ x, t.xchg 0 = some x → x.state ≠ .filling := by
  have run : (match step fillingInCollect with
      | .next t => (t.chan .A).portOp == some (.fill 0) && (t.xchg 0).all fun x => x.state != .filling
      | .fault _ | .refused _ => false) = true := by decide +kernel
  split at run
  · rename_i t ht
    simp only [Bool.and_eq_true, beq_iff_eq, Option.all_eq_true, bne_iff_ne] at run
    exact ⟨t, ht, run.1, run.2⟩
  · cases run
  · cases run

/-- Refutes O58: without `PhasesAgree` a channel's fill may name an exchange in the COLLECT phase, which a reply that shows
the station reset completes while the fill is under way. -/
theorem not_everyStepKeepsPhasesPortsAndHold : ¬ Obligations.EveryStepKeepsPhasesPortsAndHold := by
  intro h
  obtain ⟨t, run, fill, off⟩ := fillingInCollect_step
  obtain ⟨port, _⟩ := h.1 _ t run fillingInCollect_lists fillingInCollect_port fillingInCollect_hold
  obtain ⟨x, hx, _, filling⟩ := port.fill .A 0 fill
  exact off x hx filling

end Sys2Proof.Machine
end

section
/-! PROOF. What a command does to the Exchange Table: it creates exchanges in FREE records, and then changes or frees
records without touching what their owners asked for. -/

namespace Sys2Proof.Machine

/-! ## The next state of a command -/

/-- Every next state of an outcome has the property. -/
def Ends (o : Host.Outcome State Fault Refusal) (P : State → Prop) : Prop := ∀ t, o = .next t → P t

theorem ends_next {t : State} {P : State → Prop} (h : P t) : Ends (.next t) P := fun _ e => by cases e; exact h

theorem Ends.mono {o : Host.Outcome State Fault Refusal} {P Q : State → Prop} (h : Ends o P) (k : ∀ t, P t → Q t) :
    Ends o Q := fun t e => k t (h t e)

theorem ends_ite {p : Prop} [Decidable p] {a b : Host.Outcome State Fault Refusal} {P : State → Prop}
    (ha : p → Ends a P) (hb : ¬p → Ends b P) : Ends (if p then a else b) P := by
  split
  · exact ha ‹_›
  · exact hb ‹_›

/-! ## Creation (R2, R3, R4, R11) -/

/-- What a creation does: a FREE record takes the exchange, whose units were free and of its owner's partition, and its
tag joins the tail of its owner's list. -/
structure Creates (s : State) (r : Request) (tag : Tag) (us : List UnitNo) (t : State) : Prop where
  free : s.xchg tag = none
  quota : s.quotaOk r.owner r.kind = true
  units : us = (s.freeUnits r.owner).take (unitsNeeded r.kind r.length)
  enough : us.length = unitsNeeded r.kind r.length
  xchg : ∀ tag', t.xchg tag' = if tag' = tag then some (r.exchange us) else s.xchg tag'
  creation : ∀ o, t.table.creation o = if o = r.owner then s.table.creation o ++ [tag] else s.table.creation o
  compl : ∀ c, t.table.compl c = s.table.compl c
  rest : t = { s with table := t.table }

theorem setCreation_creation (tb : Table) (o o' : Owner) (l : List Tag) :
    (tb.setCreation o l).creation o' = if o' = o then l else tb.creation o' := by
  rcases o with _ | c | _ <;> rcases o' with _ | d | _ <;> try cases c
  all_goals try cases d
  all_goals rfl

theorem setCreation_compl (tb : Table) (o : Owner) (l : List Tag) (c : Chan) :
    (tb.setCreation o l).compl c = tb.compl c := by
  rcases o with _ | d | _ <;> try cases d
  all_goals cases c <;> rfl

theorem setCreation_xs (tb : Table) (o : Owner) (l : List Tag) : (tb.setCreation o l).xs = tb.xs := by
  rcases o with _ | d | _ <;> try cases d
  all_goals rfl

theorem setXchg_creation (s : State) (tag : Tag) (x : Option Exchange) (o : Owner) :
    (s.setXchg tag x).table.creation o = s.table.creation o := by
  rcases o with _ | d | _ <;> try cases d
  all_goals rfl

theorem setXchg_compl (s : State) (tag : Tag) (x : Option Exchange) (c : Chan) :
    (s.setXchg tag x).table.compl c = s.table.compl c := by cases c <;> rfl

theorem mapX_creation (s : State) (f : Tag → Exchange → Exchange) (o : Owner) :
    (s.mapX f).table.creation o = s.table.creation o := by
  rcases o with _ | d | _ <;> try cases d
  all_goals rfl

theorem mapX_compl (s : State) (f : Tag → Exchange → Exchange) (c : Chan) :
    (s.mapX f).table.compl c = s.table.compl c := by cases c <;> rfl

theorem create_creates {s t : State} {r : Request} {tag : Tag} (h : s.create r = some (tag, t)) :
    ∃ us, Creates s r tag us t := by
  unfold State.create at h
  split at h
  · rename_i quota
    split at h
    · cases h
    · rename_i t' lowest
      dsimp only at h
      split at h
      · rename_i enough
        simp only [Option.some.injEq, Prod.mk.injEq] at h
        obtain ⟨rfl, rfl⟩ := h
        have free : s.xchg t' = none := by
          have := List.find?_some lowest
          simpa using this
        refine ⟨_, free, quota, rfl, enough, fun tag' => ?_, fun o => ?_, fun c => ?_, rfl⟩
        · rw [← xchg_setXchg]
          simp only [State.xchg, setCreation_xs]
        · rw [setCreation_creation, setXchg_creation]
          split
          · rename_i e; rw [e]
          · rfl
        · rw [setCreation_compl, setXchg_compl]
      · cases h
  · cases h

/-! ## Changes of records -/

theorem KeepsRequest.refl (x : Exchange) : KeepsRequest x x := ⟨rfl, rfl, rfl, rfl, rfl, rfl, rfl, rfl, fun h => ⟨h, rfl⟩⟩

theorem XStep.keepsRequest {x y : Exchange} (h : XStep x y) : KeepsRequest x y :=
  ⟨h.owner, h.kind, h.dest, h.regAddr, h.length, h.signalOp, h.units, h.fence, h.done⟩

/-- Each record goes FREE or keeps its request, and the creation lists lose exactly the tags that have gone FREE. -/
structure Retains (s t : State) : Prop where
  recs : ∀ tag y, t.xchg tag = some y → ∃ x, s.xchg tag = some x ∧ KeepsRequest x y
  sub : ∀ o, (t.table.creation o).Sublist (s.table.creation o)
  keep : ∀ o tag x, tag ∈ t.table.creation o → s.xchg tag = some x → x.owner = o → (t.xchg tag).isSome
  drop : ∀ o tag, tag ∈ s.table.creation o → tag ∉ t.table.creation o → t.xchg tag = none

theorem Reaches.retains {s t : State} (h : Reaches s t) : Retains s t where
  recs tag y hy := by
    obtain ⟨x, hx, step⟩ := h.recs tag y hy
    exact ⟨x, hx, step.keepsRequest⟩
  sub := h.sub
  keep := h.keep
  drop := h.drop

/-- Every record stays, changed in place. -/
theorem Retains.of_recs {s t : State} (f : Tag → Exchange → Exchange) (creation : ∀ o, t.table.creation o = s.table.creation o)
    (xchg : ∀ tag, t.xchg tag = (s.xchg tag).map (f tag))
    (keeps : ∀ tag x, s.xchg tag = some x → KeepsRequest x (f tag x)) : Retains s t where
  recs tag y hy := by
    rw [xchg, Option.map_eq_some_iff] at hy
    obtain ⟨x, hx, rfl⟩ := hy
    exact ⟨x, hx, keeps tag x hx⟩
  sub o := by rw [creation]
  keep o tag x _ hx _ := by rw [xchg, hx]; rfl
  drop o tag hm hn := absurd hm (by rwa [creation] at hn)

/-! ## Creations, then changes -/

/-- A request is for an owner that may ask for its kind (R1). -/
def Request.proper (r : Request) : Prop :=
  r.owner = .internal ↔ r.kind = .census ∨ r.kind = .purge ∨ r.kind = .stationReset ∨ r.kind = .fetchEvent

/-- Some creations, the table being otherwise untouched. Each is of a proper request to a station that is not DISABLED, and
a FETCH_EVENT among them finds a place in the event queue. -/
inductive Creations (s : State) : State → Prop
  | same {u : State} (xchg : ∀ tag, u.xchg tag = s.xchg tag) (creation : ∀ o, u.table.creation o = s.table.creation o) :
      Creations s u
  | more {u v : State} {r : Request} {tag : Tag} {us : List UnitNo} (before : Creations s u)
      (create : ∃ w, Creates u r tag us w ∧ (∀ tag, v.xchg tag = w.xchg tag) ∧
        ∀ o, v.table.creation o = w.table.creation o)
      (proper : r.proper) (dest : ∀ n, r.dest = .station n → (s.entry n).state ≠ .disabled)
      (room : r.kind = .fetchEvent → s.events.queue.length + u.countX (fun x => x.kind == .fetchEvent) < 16) :
      Creations s v

/-- The table's part of a command: creations, then changes. -/
def TableStep (s t : State) : Prop := ∃ u, Creations s u ∧ Retains u t

theorem Retains.tableStep {s t : State} (h : Retains s t) : TableStep s t :=
  ⟨s, .same (fun _ => rfl) (fun _ => rfl), h⟩

theorem Reaches.tableStep {s t : State} (h : Reaches s t) : TableStep s t := h.retains.tableStep

theorem tableStep_of_table {s t : State} (h : t.table = s.table) : TableStep s t := (Reaches.of_table h).tableStep

theorem Creations.tableStep {s u t : State} (h : Creations s u) (k : Reaches u t) : TableStep s t := ⟨u, h, k.retains⟩

/-- One creation. -/
theorem creations_one {s u v w : State} {r : Request} {tag : Tag} (hx : ∀ tag, u.xchg tag = s.xchg tag)
    (hc : ∀ o, u.table.creation o = s.table.creation o) (create : u.create r = some (tag, w)) (same : v.table = w.table)
    (proper : r.proper) (dest : ∀ n, r.dest = .station n → (s.entry n).state ≠ .disabled)
    (room : r.kind = .fetchEvent → s.events.queue.length + u.countX (fun x => x.kind == .fetchEvent) < 16) :
    Creations s v := by
  obtain ⟨us, creates⟩ := create_creates create
  exact .more (.same hx hc) ⟨w, creates, fun tag => xchg_of_table same tag, fun o => by rw [same]⟩ proper dest room

end Sys2Proof.Machine
end

section
/-! PROOF. The table's part of each command. -/

namespace Sys2Proof.Machine

/-! ## Commands that leave the table's records and creation lists alone -/

/-- The records and the creation lists are the same. -/
def SameTable (s t : State) : Prop := t.table.xs = s.table.xs ∧ ∀ o, t.table.creation o = s.table.creation o

theorem SameTable.of_table {s t : State} (h : t.table = s.table) : SameTable s t := by simp [SameTable, h]

theorem SameTable.tableStep {s t : State} (h : SameTable s t) : TableStep s t := (Reaches.of_same h.1 h.2).tableStep

theorem sameTable_withdraw (s : State) (c : Chan) : SameTable s (s.withdraw c) :=
  ⟨rfl, fun o => by rcases o with _ | c | _ <;> try cases c
                    all_goals rfl⟩

theorem SameTable.trans {s t u : State} (h : SameTable s t) (k : SameTable t u) : SameTable s u :=
  ⟨k.1.trans h.1, fun o => (k.2 o).trans (h.2 o)⟩

theorem sameTable_leaveRunning (s : State) (c : Chan) : SameTable s (s.leaveRunning c) :=
  (sameTable_withdraw s c).trans (.of_table (by simp [State.leaveRunning]))

theorem haltIfDone_table (s : State) (c : Chan) : (s.haltIfDone c).table = s.table := by
  unfold State.haltIfDone
  split <;> simp

theorem endAbortIfDone_table (s : State) (c : Chan) : (s.endAbortIfDone c).table = s.table := by
  unfold State.endAbortIfDone
  split <;> simp

theorem settleCancel_table (s : State) (c : Chan) : (s.settleCancel c).table = s.table := by
  unfold State.settleCancel
  split <;> simp

theorem retire_table (s : State) (c : Chan) : (s.retire c).table = s.table := by
  unfold State.retire
  dsimp only
  split <;> simp

theorem takeCopy_table (s : State) (offset : Nat) : (s.takeCopy offset).table = s.table := by
  unfold State.takeCopy
  split <;> rfl

theorem enterIdle_table (s : State) : s.enterIdle.table = s.table := by
  unfold State.enterIdle
  dsimp only
  split <;> rfl

theorem joinCensusAll_table (s : State) (ns : List Stn) : (s.joinCensusAll ns).table = s.table :=
  (onlyDir_joinCensusAll s ns).table

theorem linkStarted_table (s : State) : s.linkStarted.table = s.table := by
  unfold State.linkStarted
  dsimp only
  split
  · rw [joinCensusAll_table]
  · rfl

theorem linkStopped_table (s : State) : s.linkStopped.table = s.table := by
  obtain ⟨m, e, _⟩ := clearDirectory_spec s
  unfold State.linkStopped
  rw [e]

theorem enabled_table (s : State) (n : Stn) : (s.enabled n).table = s.table := by
  unfold State.enabled
  dsimp only
  split
  · exact (onlyDir_joinCensus _ n).table
  · rfl

theorem placeReset_table (s : State) (n : Stn) : (s.placeReset n).table = s.table := (onlyDir_placeReset s n).table

/-- The commands that leave the records and the creation lists alone. -/
def sparesTable : Instr → Bool
  | .linkStart _ | .linkStop _ | .census _ | .sweepNow _ | .stationHold _ | .stationDisable _ | .stationEnable _
  | .stationReset _ | .listStart _ | .listPause _ | .listResume _ | .listContinue _ | .eventPop _ | .eventFlush _
  | .ackChanges _ | .windowClearFault _ | .unknownCommand _ _ | .causeAck _ | .causeEnable _ | .sweepIntervalWrite _
  | .rediscoverIntervalWrite _ | .eventThresholdWrite _ | .linkConfigWrite _ | .parameterWrite _ _ | .viewSnapshot _
  | .registerAccessError | .sweepFrameSent | .replyStart | .earlyFramingFault | .contentionWaitEnd | .breakEnd | .guardEnd
  | .wakeEnd | .holdTimerExpiry _ | .rediscoveryTimerExpiry | .sweepIntervalExpiry | .intakeStatusWriteEnd _
  | .nopFenceFinish _ | .channelHalt _ | .abortEnd _ => true
  | _ => false

/-- A command that spares the table leaves its records and creation lists alone; of those only LIST_PAUSE writes the
payload wait list. -/
theorem exec_sameTable {i : Instr} (s : State) (h : sparesTable i = true) : Ends (exec i s) (SameTable s) := by
  have next {t : State} (h : t.table = s.table) : Ends (.next t) (SameTable s) := ends_next (.of_table h)
  cases i with
  | linkStart f =>
    show Ends (execLinkStart f s) _
    unfold execLinkStart
    split
    · exact next (linkStarted_table s)
    · exact next rfl
  | linkStop f =>
    show Ends (execLinkStop f s) _
    unfold execLinkStop
    split
    · exact next (linkStopped_table s)
    · exact next rfl
  | census f =>
    show Ends (execCensus f s) _
    unfold execCensus
    split
    · exact next rfl
    · exact next (joinCensusAll_table s _)
  | sweepNow f =>
    show Ends (execSweepNow f s) _
    unfold execSweepNow
    split <;> exact next rfl
  | stationHold f =>
    show Ends (execStationHold f s) _
    unfold execStationHold
    split
    · exact next rfl
    · split <;> exact next rfl
  | stationDisable f =>
    show Ends (execStationDisable f s) _
    unfold execStationDisable
    split
    · exact next rfl
    · split
      · exact next rfl
      · split <;> exact next rfl
  | stationEnable f =>
    show Ends (execStationEnable f s) _
    unfold execStationEnable
    split
    · exact next rfl
    · split
      · exact next (enabled_table s _)
      · exact next rfl
  | stationReset f =>
    show Ends (execStationReset f s) _
    unfold execStationReset
    split
    · exact next rfl
    · split <;> first | exact next (placeReset_table s _) | exact next rfl
  | listStart f =>
    show Ends (execListStart f s) _
    unfold execListStart
    split <;> exact next (by simp)
  | listPause f =>
    show Ends (execListPause f s) _
    unfold execListPause
    split
    · exact ends_next ((sameTable_leaveRunning s f.chan).trans (.of_table (by simp)))
    · exact next rfl
  | listResume f =>
    show Ends (execListResume f s) _
    unfold execListResume
    split <;> exact next (by simp)
  | listContinue f =>
    show Ends (execListContinue f s) _
    unfold execListContinue
    dsimp only
    split <;> exact next (by simp)
  | eventPop f =>
    show Ends (execEventPop f s) _
    unfold execEventPop
    split <;> exact next rfl
  | viewSnapshot offset =>
    show Ends (execViewSnapshot offset s) _
    unfold execViewSnapshot
    split
    · exact next (takeCopy_table s _)
    · exact next rfl
  | sweepIntervalWrite v =>
    show Ends (execSweepIntervalWrite v s) _
    unfold execSweepIntervalWrite
    dsimp only
    split <;> exact next rfl
  | rediscoverIntervalWrite v =>
    show Ends (execRediscoverIntervalWrite v s) _
    unfold execRediscoverIntervalWrite
    dsimp only
    split <;> exact next rfl
  | parameterWrite p v =>
    show Ends (execParameterWrite p v s) _
    unfold execParameterWrite
    dsimp only
    split <;> exact next (by simp)
  | eventFlush f | ackChanges f | windowClearFault f | unknownCommand code f | causeAck m | causeEnable m
  | eventThresholdWrite v | linkConfigWrite v | registerAccessError => exact next rfl
  | sweepFrameSent =>
    show Ends (execSweepFrameSent s) _
    unfold execSweepFrameSent
    split <;> exact next rfl
  | replyStart =>
    show Ends (execReplyStart s) _
    unfold execReplyStart
    split <;> exact next rfl
  | earlyFramingFault =>
    show Ends (execEarlyFramingFault s) _
    unfold execEarlyFramingFault
    split <;> exact next rfl
  | contentionWaitEnd =>
    show Ends (execContentionWaitEnd s) _
    unfold execContentionWaitEnd
    split <;> exact next rfl
  | breakEnd =>
    show Ends (execBreakEnd s) _
    unfold execBreakEnd
    split <;> exact next rfl
  | guardEnd =>
    show Ends (execGuardEnd s) _
    unfold execGuardEnd
    split
    · exact next (enterIdle_table s)
    · exact next rfl
  | wakeEnd =>
    show Ends (execWakeEnd s) _
    unfold execWakeEnd
    split
    · exact next (enterIdle_table s)
    · exact next rfl
  | holdTimerExpiry n =>
    show Ends (execHoldTimerExpiry n s) _
    unfold execHoldTimerExpiry
    split
    · exact next rfl
    · split
      · exact next (onlyDir_joinCensus _ n).table
      · exact next rfl
  | rediscoveryTimerExpiry =>
    show Ends (execRediscoveryTimerExpiry s) _
    unfold execRediscoveryTimerExpiry
    split
    · exact next rfl
    · exact next (joinCensusAll_table s _)
  | sweepIntervalExpiry =>
    show Ends (execSweepIntervalExpiry s) _
    unfold execSweepIntervalExpiry
    split <;> exact next rfl
  | intakeStatusWriteEnd c =>
    show Ends (execIntakeStatusWriteEnd c s) _
    unfold execIntakeStatusWriteEnd
    split
    · split
      · exact next (by simp [retire_table, State.endOp])
      · exact next rfl
    all_goals exact next rfl
  | nopFenceFinish c =>
    show Ends (execNopFenceFinish c s) _
    unfold execNopFenceFinish
    split
    · exact next rfl
    · exact next (by simp)
  | channelHalt c => exact next (haltIfDone_table s c)
  | abortEnd c => exact next (endAbortIfDone_table s c)
  | _ => cases h

end Sys2Proof.Machine
end

section
/-! PROOF. What every command does to the table, and the two statements that follow: an exchange keeps its request, and the
lists, quotas and units go on agreeing. -/

namespace Sys2Proof.Machine

/-! ## Records that change in place -/

/-- What follows a move of the table and leaves the table alone does not matter. -/
theorem Reaches.endsAs {s t u : State} (h : Reaches s t) (e : u.table = t.table) : Reaches s u := h.trans (.of_table e)

theorem KeepsRequest.trans {x y z : Exchange} (h : KeepsRequest x y) (k : KeepsRequest y z) : KeepsRequest x z where
  owner := k.owner.trans h.owner
  kind := k.kind.trans h.kind
  dest := k.dest.trans h.dest
  regAddr := k.regAddr.trans h.regAddr
  length := k.length.trans h.length
  signalOp := k.signalOp.trans h.signalOp
  units := k.units.trans h.units
  fence := k.fence.trans h.fence
  finished e := ⟨(k.finished (h.finished e).1).1, (k.finished (h.finished e).1).2.trans (h.finished e).2⟩

theorem xStep_unparked (n : Stn) (x : Exchange) : XStep x (x.unparked n) := by
  unfold Exchange.unparked
  split
  · rename_i h
    exact SameRequest.move ⟨rfl, rfl, rfl, rfl, rfl, rfl, rfl, rfl⟩ (by simp [Exchange.live, h.2]) (by simp)
  · exact XStep.refl x

theorem reaches_released (s : State) (n : Stn) : Reaches s (s.released n) := by
  rw [released_eq]
  split
  · refine Reaches.trans (Reaches.of_table ?_) (reaches_mapX fun _ x => xStep_unparked n x)
    rfl
  · exact Reaches.of_table rfl

theorem xStep_backoffEnds (x : Exchange) : XStep x x.backoffEnds := by
  unfold Exchange.backoffEnds
  split
  · rename_i h
    have live : x.live = true := by simp [Exchange.live, h]
    split
    · exact SameRequest.move ⟨rfl, rfl, rfl, rfl, rfl, rfl, rfl, rfl⟩ live (by simp [Exchange.toAbandon])
    · exact SameRequest.move ⟨rfl, rfl, rfl, rfl, rfl, rfl, rfl, rfl⟩ live (by simp)
  · exact XStep.refl x

theorem xStep_deadlineEnds (x : Exchange) : XStep x x.deadlineEnds := by
  have abandon (h : x.live = true) : XStep x (x.toAbandon deadlineCarried) :=
    SameRequest.move ⟨rfl, rfl, rfl, rfl, rfl, rfl, rfl, rfl⟩ h (by simp [Exchange.toAbandon])
  unfold Exchange.deadlineEnds
  split
  · exact XStep.refl x
  · exact XStep.refl x
  · split
    · exact abandon (by simp [Exchange.live, *])
    · exact abandon (by simp [Exchange.live, *])
    · exact SameRequest.keep ⟨rfl, rfl, rfl, rfl, rfl, rfl, rfl, rfl⟩ rfl rfl
    · exact SameRequest.keep ⟨rfl, rfl, rfl, rfl, rfl, rfl, rfl, rfl⟩ rfl rfl
    all_goals exact XStep.refl x

theorem slotCensus_table (s : State) (n : Stn) : (s.slotCensus n).table = s.table := by
  unfold State.slotCensus
  split
  · split
    · exact (onlyDir_joinCensus s n).table
    · rfl
  · exact (onlyDir_joinCensus s n).table
  all_goals rfl

theorem reaches_takeSlot (s : State) (no : Stn × SlotOutcome) : Reaches s (s.takeSlot no) := by
  unfold State.takeSlot
  have census : Reaches s (if no.2.hasReady || no.2.hasEvent then s.slotCensus no.1 else s) := by
    split
    · exact Reaches.of_table (slotCensus_table s no.1)
    · exact Reaches.refl s
  have ready (u : State) : Reaches u (if no.2.hasReady then u.readySign no.1 none else u) := by
    split
    · exact reaches_readySign _ _ _
    · exact Reaches.refl _
  have event (u : State) : Reaches u (if no.2.hasEvent then u.eventSign no.1 else u) := by
    split
    · exact Reaches.of_table (eventSign_table _ _)
    · exact Reaches.refl _
  exact (census.trans (ready _)).trans (event _)

/-! ## The current attempt -/

/-- An attempt starts on a WAITING exchange (R8). -/
theorem keepsRequest_startAttempt (s : State) {x : Exchange} (h : x.state = .waiting) : KeepsRequest x (s.startAttempt x) :=
  ⟨rfl, rfl, rfl, rfl, rfl, rfl, rfl, rfl, fun e => by simp [Exchange.live, h] at e⟩

theorem retains_setXchg {s : State} {tag : Tag} {x y : Exchange} (hx : s.xchg tag = some x) (h : KeepsRequest x y) :
    Retains s (s.setXchg tag (some y)) where
  recs tag' z hz := by
    rw [xchg_setXchg] at hz
    split at hz
    · rename_i e; subst e; cases hz; exact ⟨x, hx, h⟩
    · exact ⟨z, hz, KeepsRequest.refl z⟩
  sub o := by rw [setXchg_creation]
  keep o tag' z _ hz _ := by rw [xchg_setXchg]; split <;> simp [hz]
  drop o tag' hm hn := absurd hm (by rwa [setXchg_creation] at hn)

theorem Retains.of_table {s t u : State} (h : Retains s t) (e : u.table = t.table) : Retains s u where
  recs tag y hy := h.recs tag y (by rwa [xchg_of_table e] at hy)
  sub o := by rw [e]; exact h.sub o
  keep o tag x hm hx ho := by rw [e] at hm; rw [xchg_of_table e]; exact h.keep o tag x hm hx ho
  drop o tag hm hn := by rw [e] at hn; rw [xchg_of_table e]; exact h.drop o tag hm hn

theorem exec_jobOffer_table (s : State) : Ends (exec .jobOffer s) (TableStep s) := by
  show Ends (execJobOffer s) _
  unfold execJobOffer
  refine ends_ite (fun _ => ?_) (fun _ => ends_next (tableStep_of_table rfl))
  split
  · exact ends_next (tableStep_of_table rfl)
  · exact ends_next (tableStep_of_table rfl)
  · rename_i t p chosen
    split
    · rename_i x hx
      obtain ⟨x', hx', waiting, _⟩ := eligible_iff.mp (choose_eligible chosen)
      rw [hx] at hx'
      cases hx'
      exact ends_next (Retains.tableStep
        (Retains.of_table (retains_setXchg hx (keepsRequest_startAttempt s waiting)) rfl))
    · exact ends_next (tableStep_of_table rfl)

theorem exec_requestFrameSent_table (s : State) : Ends (exec .requestFrameSent s) (TableStep s) := by
  show Ends (execRequestFrameSent s) _
  unfold execRequestFrameSent
  split
  · refine ends_ite (fun _ => ?_) (fun _ => ends_next (tableStep_of_table rfl))
    refine ends_next (Retains.tableStep (Retains.of_table (Reaches.retains (reaches_mapX fun tag x => ?_)) rfl))
    split
    · exact SameRequest.keep ⟨rfl, rfl, rfl, rfl, rfl, rfl, rfl, rfl⟩ rfl rfl
    · exact XStep.refl x
  · exact ends_next (tableStep_of_table rfl)

theorem reaches_noteFault (s : State) (k : FaultKind) (d : Dest) (t : Tag) : Reaches s (s.noteFault k d t) :=
  Reaches.of_table rfl

theorem recordFault_table (s : State) (v : Verdict) : (s.recordFault v).table = s.table := by
  unfold State.recordFault
  split <;> rfl

theorem reaches_report (s : State) (t : Tag) (v : Verdict) : Reaches s (s.report t v) :=
  (Reaches.of_table (recordFault_table s v)).trans (reaches_applyVerdict _ t v)

theorem lineAfterReply_table (s : State) (v : Verdict) : (s.lineAfterReply v).table = s.table := by
  unfold State.lineAfterReply
  split <;> rfl

/-- The commands that end the current attempt, or a broadcast, change the table by their outcome. -/
theorem exec_verdict_table {i : Instr} (s : State)
    (h : i = .bcastWriteSent ∨ i = .replyWindowExpiry ∨ (∃ bytes, i = .replyReceived bytes) ∨ i = .lineSettled ∨
      i = .stuckLineTimeout ∨ i = .contention) : Ends (exec i s) (Reaches s) := by
  have same {t : State} (h : t.table = s.table) : Ends (.next t) (Reaches s) := ends_next (Reaches.of_table h)
  have told {t : State} {tag : Tag} {v : Verdict} (h : t.table = (s.report tag v).table) : Ends (.next t) (Reaches s) :=
    ends_next ((reaches_report s tag v).trans (Reaches.of_table h))
  rcases h with rfl | rfl | ⟨bytes, rfl⟩ | rfl | rfl | rfl
  · show Ends (execBcastWriteSent s) _
    unfold execBcastWriteSent
    split
    · exact ends_next ((reaches_applyVerdict s _ _).trans (Reaches.of_table rfl))
    · exact same rfl
  · show Ends (execReplyWindowExpiry s) _
    unfold execReplyWindowExpiry
    split
    · exact told rfl
    · exact same rfl
  · show Ends (execReplyReceived bytes s) _
    unfold execReplyReceived
    split
    · split
      · exact same rfl
      · split
        · exact same rfl
        · exact told (lineAfterReply_table _ _)
    · exact same rfl
  · show Ends (execLineSettled s) _
    unfold execLineSettled
    split
    · exact told (lineAfterReply_table _ _)
    · exact same rfl
  · show Ends (execStuckLineTimeout s) _
    unfold execStuckLineTimeout
    split
    · dsimp only
      split <;> exact told rfl
    · exact same rfl
  · show Ends (execContention s) _
    unfold execContention
    split
    · exact same rfl
    · rename_i j _ _ _
      cases j with
      | attempt t ph q => exact told rfl
      | sweep => exact same (recordFault_table s _)
    · exact same rfl

/-! ## Creations -/

theorem internalRequest_proper {k : Kind} (n : Stn) (h : k = .census ∨ k = .purge ∨ k = .stationReset ∨ k = .fetchEvent) :
    (internalRequest k n).proper := by simp [Request.proper, internalRequest, h]

theorem windowRequest_proper {k : Kind} (n : Stn) (reg : BitVec 16) (h : k = .write ∨ k = .read) :
    (windowRequest k n reg).proper := by
  rcases h with rfl | rfl <;> simp [Request.proper, windowRequest]

/-- A descriptor asks for a WRITE, READ, SIGNAL or BCAST_WRITE (R134). -/
theorem DescKind.kind_listed {d : DescKind} {k : Kind} (h : d.kind = some k) :
    k = .write ∨ k = .read ∨ k = .signal ∨ k = .bcastWrite := by
  cases d <;> cases h <;> simp

theorem Desc.request_proper (d : Desc) (c : Chan) {k : Kind} (h : d.kind.kind = some k) : (d.request c k).proper := by
  rcases DescKind.kind_listed h with rfl | rfl | rfl | rfl <;> simp [Request.proper, Desc.request]

theorem not_disabled_of_isOpen {st : StnState} (h : st.isOpen = true) : st ≠ .disabled := by rintro rfl; cases h

/-- A window access creates at most one exchange, to a station that is open. -/
theorem tableStep_postWrite {s : State} {n : Stn} (reg : BitVec 16) (d : Bytes4) (h : (s.entry n).state.isOpen = true) :
    TableStep s (s.postWrite n reg d) := by
  unfold State.postWrite
  split
  · exact tableStep_of_table rfl
  · rename_i t s1 create
    exact (creations_one (v := s1) (fun _ => rfl) (fun _ => rfl) create rfl (windowRequest_proper n reg (.inl rfl))
      (fun m e => by cases e; exact not_disabled_of_isOpen h) (fun e => by cases e)).tableStep (Reaches.of_table rfl)

theorem tableStep_startRead {s : State} {n : Stn} (reg : BitVec 16) (h : (s.entry n).state.isOpen = true) :
    TableStep s (s.startRead n reg) := by
  unfold State.startRead
  split
  · exact tableStep_of_table rfl
  · exact tableStep_of_table rfl
  · split
    · exact tableStep_of_table rfl
    · rename_i t s1 create
      exact (creations_one (v := s1) (fun _ => rfl) (fun _ => rfl) create rfl (windowRequest_proper n reg (.inr rfl))
        (fun m e => by cases e; exact not_disabled_of_isOpen h) (fun e => by cases e)).tableStep (Reaches.of_table rfl)

theorem TableStep.of_table {s t u : State} (h : TableStep s t) (e : u.table = t.table) : TableStep s u := by
  obtain ⟨v, hv, k⟩ := h
  exact ⟨v, hv, k.of_table e⟩

theorem exec_stationWindowStore_table (offset : BitVec 17) (enables : BitVec 4) (d : Bytes4) (s : State) :
    Ends (exec (.stationWindowStore offset enables d) s) (TableStep s) := by
  have same {a : Answer} : Ends (.next (s.answer a)) (TableStep s) := ends_next (tableStep_of_table rfl)
  show Ends (execStationWindowStore offset enables d s) _
  unfold execStationWindowStore
  split
  · split
    · exact same
    · split
      · rename_i isOpen
        exact ends_next ((tableStep_postWrite _ d isOpen).of_table rfl)
      · exact same
  · exact same

theorem exec_stationWindowLoad_table (offset : BitVec 17) (enables : BitVec 4) (s : State) :
    Ends (exec (.stationWindowLoad offset enables) s) (TableStep s) := by
  have same {a : Answer} : Ends (.next (s.answer a)) (TableStep s) := ends_next (tableStep_of_table rfl)
  show Ends (execStationWindowLoad offset enables s) _
  unfold execStationWindowLoad
  split
  · split
    · exact same
    · dsimp only
      split
      · refine ends_next ?_
        unfold State.claim
        split
        · exact Reaches.tableStep (Reaches.trans (reaches_free s _) (Reaches.of_table rfl))
        · exact tableStep_of_table rfl
      · split
        · rename_i isOpen
          exact ends_next ((tableStep_startRead _ isOpen).of_table rfl)
        · exact same
  · exact same

theorem censusReady_not_disabled {s : State} {n : Stn} (h : s.censusReady n = true) : (s.entry n).state ≠ .disabled := by
  intro e
  simp [State.censusReady, e] at h

theorem exec_censusCreation_table (s : State) : Ends (exec .censusCreation s) (TableStep s) := by
  have same : Ends (.next s) (TableStep s) := ends_next (tableStep_of_table rfl)
  show Ends (execCensusCreation s) _
  unfold execCensusCreation
  split
  · exact same
  · split
    · exact same
    · rename_i n found
      split
      · exact same
      · rename_i t s1 create
        have ready := List.find?_some found
        exact ends_next ((creations_one (v := s1) (fun _ => rfl) (fun _ => rfl) create rfl
          (internalRequest_proper n (.inl rfl)) (fun m e => by cases e; exact censusReady_not_disabled ready)
          (fun e => by cases e)).tableStep (Reaches.of_table rfl))

theorem recoveryAdmitted_not_disabled {s : State} {r : Stn × RecAction} (h : s.recoveryAdmitted r = true) :
    (s.entry r.1).state ≠ .disabled := by
  intro e
  obtain ⟨n, act⟩ := r
  cases act <;> simp [State.recoveryAdmitted, e] at h

theorem RecAction.kind_internal (a : RecAction) :
    a.kind = .census ∨ a.kind = .purge ∨ a.kind = .stationReset ∨ a.kind = .fetchEvent := by
  cases a <;> simp [RecAction.kind]

theorem exec_recoveryCreation_table (s : State) : Ends (exec .recoveryCreation s) (TableStep s) := by
  have same : Ends (.next s) (TableStep s) := ends_next (tableStep_of_table rfl)
  show Ends (execRecoveryCreation s) _
  unfold execRecoveryCreation
  split
  · exact same
  · split
    · exact same
    · rename_i r found
      split
      · exact same
      · rename_i t s1 create
        have ready := List.find?_some found
        exact ends_next ((creations_one (v := s1) (fun _ => rfl) (fun _ => rfl) create rfl
          (internalRequest_proper r.1 r.2.kind_internal)
          (fun m e => by cases e; exact recoveryAdmitted_not_disabled ready)
          (fun e => by cases h : r.2 <;> simp [internalRequest, RecAction.kind, h] at e)).tableStep (Reaches.of_table rfl))

/-- A station whose event may be fetched is not DISABLED, and there is a place for the event (R164). -/
theorem fetchable_spec {s : State} {n : Stn} (h : s.fetchable n = true) :
    (s.entry n).state ≠ .disabled ∧ s.events.queue.length + s.countX (fun x => x.kind == .fetchEvent) < 16 := by
  simp only [State.fetchable, Bool.and_eq_true, Bool.or_eq_true, beq_iff_eq, decide_eq_true_eq] at h
  obtain ⟨⟨⟨⟨_, state⟩, _⟩, _⟩, room⟩ := h
  exact ⟨by rcases state with e | e <;> simp [e], room⟩

/-- What one look of the Event Unit does: nothing, or the creation of one FETCH_EVENT. -/
theorem fetchOne_cases (s : State) :
    s.fetchOne = s ∨ ∃ n t s1, s.fetchable n = true ∧ s.create (internalRequest .fetchEvent n) = some (t, s1) ∧
      s.fetchOne = { s1 with events.lastServed := n } := by
  unfold State.fetchOne
  split
  · exact .inl rfl
  · rename_i n found
    split
    · exact .inl rfl
    · rename_i t s1 create
      exact .inr ⟨n, t, s1, List.find?_some found, create, rfl⟩

theorem Creates.dir {s t : State} {r : Request} {tag : Tag} {us : List UnitNo} (h : Creates s r tag us t) :
    t.dir = s.dir := by rw [h.rest]

theorem Creates.events {s t : State} {r : Request} {tag : Tag} {us : List UnitNo} (h : Creates s r tag us t) :
    t.events = s.events := by rw [h.rest]

/-- One look of the Event Unit more, after others. -/
theorem Creations.fetchOne {s u : State} (h : Creations s u) (hd : u.dir = s.dir)
    (hq : u.events.queue = s.events.queue) :
    Creations s u.fetchOne ∧ u.fetchOne.dir = s.dir ∧ u.fetchOne.events.queue = s.events.queue := by
  rcases fetchOne_cases u with e | ⟨n, t, s1, ready, create, e⟩
  · rw [e]; exact ⟨h, hd, hq⟩
  · obtain ⟨us, creates⟩ := create_creates create
    obtain ⟨open', room⟩ := fetchable_spec ready
    rw [e]
    refine ⟨.more h ⟨s1, creates, fun _ => rfl, fun _ => rfl⟩ (internalRequest_proper n (by simp))
      (fun m hm => ?_) (fun _ => hq ▸ room), creates.dir.trans hd, ?_⟩
    · cases hm
      rwa [entry_of_dir hd] at open'
    · show s1.events.queue = _
      rw [creates.events, hq]

theorem exec_fetchEventCreation_table (s : State) : Ends (exec .fetchEventCreation s) (TableStep s) := by
  obtain ⟨one, dir, queue⟩ := (Creations.same (s := s) (u := s) (fun _ => rfl) (fun _ => rfl)).fetchOne rfl rfl
  obtain ⟨two, _, _⟩ := one.fetchOne dir queue
  exact ends_next (two.tableStep (Reaches.of_table rfl))

/-! ## Descriptors taken in -/

theorem takeIn_table (s : State) (c : Chan) (d : Desc) (r : QRec) : (s.takeIn c d r).table = s.table := by
  simp [State.takeIn]

/-- A descriptor's station takes new exchanges: then it is not DISABLED (R26, R140). -/
theorem notPresent_spec {s : State} {d : Desc} (h : ¬s.notPresent d = true) (n : Stn) (e : d.dest = .station n) :
    (s.entry n).state ≠ .disabled := by
  simp only [State.notPresent, e, Bool.not_eq_true', Bool.not_eq_false] at h
  exact not_disabled_of_isOpen h

/-- A grant creates at most one exchange of the channel. `s` is the state that its step began in. -/
theorem grant_table {s u : State} (hu : SameTable s u) (hd : u.dir = s.dir) (c : Chan) (d : Desc) :
    TableStep s (u.grant c d) := by
  have same : Reaches s u := Reaches.of_same hu.1 hu.2
  unfold State.grant
  split
  · exact same.tableStep
  · rename_i k hk
    split
    · exact ((same.trans (Reaches.of_table (takeIn_table u c d _))).trans (reaches_stopOnFailure _ c)).tableStep
    · rename_i present
      unfold State.createFor
      split
      · rename_i t s1 create
        refine (creations_one (v := s1) (fun tag => by simp [State.xchg, hu.1]) hu.2 create rfl (d.request_proper c hk)
          (fun n e => ?_) (fun e => ?_)).tableStep (Reaches.of_table (takeIn_table _ _ _ _))
        · rw [← entry_of_dir hd]
          exact notPresent_spec present n e
        · rcases DescKind.kind_listed hk with rfl | rfl | rfl | rfl <;> cases e
      · exact (same.trans (reaches_modChan u c _)).tableStep

theorem TableStep.trans {s t u : State} (h : TableStep s t) (k : Reaches t u) : TableStep s u := by
  obtain ⟨v, hv, r⟩ := h
  refine ⟨v, hv, ?_, ?_, ?_, ?_⟩
  · intro tag z hz
    obtain ⟨y, hy, yz⟩ := k.recs tag z hz
    obtain ⟨x, hx, xy⟩ := r.recs tag y hy
    exact ⟨x, hx, xy.trans yz.keepsRequest⟩
  · exact fun o => (k.sub o).trans (r.sub o)
  · intro o tag x hm hx ho
    obtain ⟨y, hy⟩ := Option.isSome_iff_exists.mp (r.keep o tag x ((k.sub o).subset hm) hx ho)
    obtain ⟨x', hx', xy⟩ := r.recs tag y hy
    rw [hx] at hx'
    cases hx'
    exact k.keep o tag y hm hy (xy.owner.trans ho)
  · intro o tag hm hn
    by_cases ht : tag ∈ t.table.creation o
    · exact k.drop o tag ht hn
    · have gone := r.drop o tag hm ht
      cases hu : u.xchg tag with
      | none => rfl
      | some z =>
        obtain ⟨y, hy, _⟩ := k.recs tag z hu
        rw [gone] at hy
        cases hy

theorem sameTable_wait (s : State) (l : List (Chan × Nat)) :
    SameTable s { s with table := { s.table with waitList := l } } :=
  ⟨rfl, fun o => by rcases o with _ | c | _ <;> try cases c
                    all_goals rfl⟩

theorem intake_table (s : State) (c : Chan) (d : Desc) : TableStep s ((s.endOp c).intake c d) := by
  have ended : SameTable s (s.endOp c) := .of_table (by simp [State.endOp])
  have dir : (s.endOp c).dir = s.dir := by simp [State.endOp]
  have same : Reaches s (s.endOp c) := Reaches.of_same ended.1 ended.2
  have asks : TableStep s ((s.endOp c).askUnits c d) := by
    unfold State.askUnits
    dsimp only
    split
    · exact grant_table ended dir c d
    · have waits := sameTable_wait ((s.endOp c).modChan c fun ch => { ch with pendingDesc := some d })
        (((s.endOp c).modChan c fun ch => { ch with pendingDesc := some d }).table.waitList ++ [(c, d.units)])
      exact ((same.trans (reaches_modChan _ c _)).trans (Reaches.of_same waits.1 waits.2)).tableStep
  unfold State.intake
  split
  · exact ((same.trans (Reaches.of_table (takeIn_table _ c d _))).trans (reaches_stopOnFailure _ c)).tableStep
  · split
    · exact (same.trans (Reaches.of_table (takeIn_table _ c d _))).tableStep
    · exact asks
    · exact asks
    · exact asks
    · exact asks
    · exact same.tableStep

theorem exec_descriptorFetchEnd_table (c : Chan) (w0 w1 w2 w3 w4 : Word) (s : State) :
    Ends (exec (.descriptorFetchEnd c w0 w1 w2 w3 w4) s) (TableStep s) := by
  show Ends (execDescriptorFetchEnd c w0 w1 w2 w3 w4 s) _
  unfold execDescriptorFetchEnd
  split
  · split
    · exact ends_next (tableStep_of_table (by simp [State.endOp]))
    · exact ends_next ((intake_table s c _).trans (reaches_endStep _ s))
  all_goals exact ends_next (tableStep_of_table rfl)

theorem exec_payloadGrant_table (s : State) : Ends (exec .payloadGrant s) (TableStep s) := by
  show Ends (execPayloadGrant s) _
  unfold execPayloadGrant
  split
  · exact ends_next (tableStep_of_table rfl)
  · rename_i c k rest _
    split
    · dsimp only
      split
      · exact ends_next ((grant_table (sameTable_wait s rest) rfl c _).trans (reaches_endStep _ s))
      · exact ends_next (sameTable_wait s rest).tableStep
    · exact ends_next (tableStep_of_table rfl)

/-! ## The master port and the lists -/

theorem setCompl_creation (tb : Table) (c : Chan) (l : List Tag) (o : Owner) :
    (tb.setCompl c l).creation o = tb.creation o := by
  cases c <;> rcases o with _ | d | _ <;> try cases d
  all_goals rfl

theorem setCompl_xs (tb : Table) (c : Chan) (l : List Tag) : (tb.setCompl c l).xs = tb.xs := by cases c <;> rfl

theorem reaches_startOp (s : State) (c : Chan) (op : PortOp) : Reaches s (s.startOp c op) := by
  have start : Reaches s { (s.modChan c fun ch => { ch with portOp := some op }) with portLast := c } :=
    Reaches.of_table (by simp)
  unfold State.startOp
  dsimp only
  split
  · rename_i t
    refine start.trans ?_
    let s1 : State := { (s.modChan c fun ch => { ch with portOp := some (.drain t) }) with portLast := c }
    let s2 : State := { s1 with table := s1.table.setCompl c ((s1.table.compl c).filter (· != t)) }
    have drop : Reaches s1 s2 := Reaches.of_same (setCompl_xs _ _ _) (setCompl_creation _ _ _)
    refine drop.trans ?_
    show Reaches s2 (match s2.xchg t with
      | some x => s2.setXchg t (some { x with state := .draining })
      | none => s2)
    split
    · rename_i x hx
      exact reaches_setXchg hx ⟨rfl, rfl, rfl, rfl, rfl, rfl, rfl, rfl, fun e => by simp at e,
        fun _ => ⟨rfl, rfl⟩⟩
    · exact Reaches.refl s2
  all_goals exact start

theorem reaches_fillDone {s : State} {t : Tag} {x : Exchange} (c : Chan) (hx : s.xchg t = some x)
    (filling : x.state = .filling) : Reaches s (s.fillDone c t x) := by
  have live : x.live = true := by simp [Exchange.live, filling]
  unfold State.fillDone
  split
  · exact reaches_setXchg hx (SameRequest.move ⟨rfl, rfl, rfl, rfl, rfl, rfl, rfl, rfl⟩ live (by simp))
  · refine (reaches_complete_of fun tag y hy sel => ?_).trans (reaches_stopOnFailure _ c)
    split at sel
    · rename_i e; subst e; rw [hx] at hy; cases hy; exact live
    · cases sel

theorem exec_fillEnd_table (c : Chan) (bytes : List Byte) (s : State) :
    Ends (exec (.fillEnd c bytes) s) (Reaches s) := by
  have same : Ends (.next s) (Reaches s) := ends_next (Reaches.refl s)
  show Ends (execFillEnd c bytes s) _
  unfold execFillEnd
  split
  · split
    · rename_i x hx
      refine ends_ite (fun h => ?_) (fun _ => same)
      have ended : Reaches s ({ s.endOp c with store := writeUnits x.units 0 bytes s.store } : State) :=
        Reaches.of_table (by simp [State.endOp])
      exact ends_next ((ended.trans (reaches_fillDone c ((xchg_of_table (by simp [State.endOp]) _).trans hx) h.1)).trans
        (reaches_endStep _ s))
    · exact same
  all_goals exact same

theorem exec_drainEnd_table (c : Chan) (s : State) : Ends (exec (.drainEnd c) s) (Reaches s) := by
  have same : Ends (.next s) (Reaches s) := ends_next (Reaches.refl s)
  show Ends (execDrainEnd c s) _
  unfold execDrainEnd
  split
  · rename_i t _
    split
    · split
      · refine ends_next ?_
        refine Reaches.trans ?_ (Reaches.of_table rfl)
        refine Reaches.trans ?_ (Reaches.of_table (retire_table _ c))
        refine Reaches.trans ?_ (reaches_settleCancel _ c)
        refine Reaches.trans ?_ (reaches_free _ t)
        exact Reaches.of_table (by simp [State.endOp])
      · exact same
    · exact same
  all_goals exact same

theorem exec_memoryFault_table (c : Chan) (a : Word) (s : State) : Ends (exec (.memoryFault c a) s) (Reaches s) := by
  have same : Ends (.next s) (Reaches s) := ends_next (Reaches.refl s)
  show Ends (execMemoryFault c a s) _
  unfold execMemoryFault
  dsimp only
  split
  · exact same
  · exact ends_next (Reaches.of_table (by simp [State.endOp]))
  · refine ends_next (Reaches.trans ?_ (reaches_endStep _ s))
    exact (Reaches.of_table (by simp [State.endOp])).trans (reaches_memFaultStops _ c)
  · rename_i t _
    split
    · exact same
    · refine ends_next (Reaches.trans ?_ (reaches_endStep _ s))
      refine Reaches.trans ?_ (reaches_settleCancel _ c)
      refine Reaches.trans ?_ (reaches_memFaultStops _ c)
      exact (Reaches.of_table (by simp [State.endOp])).trans (reaches_free _ t)
  · rename_i t _
    split
    · exact same
    · refine ends_next (Reaches.trans ?_ (reaches_endStep _ s))
      refine Reaches.trans ?_ (reaches_settleCancel _ c)
      refine Reaches.trans ?_ (reaches_memFaultStops _ c)
      exact ((Reaches.of_table (by simp [State.endOp])).trans (reaches_free _ t)).trans (Reaches.of_table rfl)
  · split
    · exact same
    · refine ends_next (Reaches.trans ?_ (reaches_endStep _ s))
      refine Reaches.trans ?_ (reaches_memFaultStops _ c)
      exact Reaches.of_table (by simp [State.endOp])

theorem resetDirectory_table (s : State) : s.resetDirectory.table = s.table := by
  unfold State.resetDirectory
  dsimp only
  exact foldl_table (f := State.noteChange) (fun _ _ => rfl) _ _

theorem reaches_resetChannel (s : State) (c : Chan) : Reaches s (s.resetChannel c) := by
  unfold State.resetChannel
  split
  · exact reaches_enterStopping s c _
  · exact Reaches.refl s

theorem live_of_linkResetSel (tag : Tag) (x : Exchange) (h : (linkResetSel tag x).isSome) : x.live = true := by
  unfold linkResetSel at h
  split at h
  · rename_i k; exact k.1
  · cases h

theorem reaches_linkWasReset (s : State) : Reaches s s.linkWasReset := by
  unfold State.linkWasReset
  dsimp only
  have toHead (u : State) (n : Stn) : Reaches u (u.resetToHead n) := by
    unfold State.resetToHead
    split
    · exact Reaches.refl u
    · exact Reaches.of_table rfl
  have census (u : State) (n : Stn) : Reaches u (u.censusReset n) :=
    Reaches.trans (t := u.modEntry n _) (Reaches.of_table rfl) (onlyDir_censusToHead _ n).reaches
  refine Reaches.trans ?_ (reaches_endStep _ s)
  refine Reaches.trans ?_ (reaches_resetChannel _ .B)
  refine Reaches.trans ?_ (reaches_resetChannel _ .A)
  refine Reaches.trans ?_ (Reaches.foldl (fun u n => (onlyDir_noteUnknown u n).reaches) _ _)
  refine Reaches.trans ?_ (Reaches.foldl toHead _ _)
  refine Reaches.trans ?_ (Reaches.foldl census _ _)
  refine Reaches.trans ?_ (Reaches.of_table (resetDirectory_table _))
  refine Reaches.trans ?_ (reaches_mapX fun _ x => xStep_markFill x _)
  exact Reaches.trans (t := s.resetLine) (Reaches.of_table rfl)
    (reaches_completeBatch fun tag x _ h => live_of_linkResetSel tag x h)

/-! ## Every command -/

/-- What any command but RESET_N does to the table. -/
theorem exec_table {i : Instr} (s : State) (h : i ≠ .resetN) : Ends (exec i s) (TableStep s) := by
  have same : Ends (.next s) (TableStep s) := ends_next (tableStep_of_table rfl)
  have verdict (k : i = .bcastWriteSent ∨ i = .replyWindowExpiry ∨ (∃ bytes, i = .replyReceived bytes) ∨
      i = .lineSettled ∨ i = .stuckLineTimeout ∨ i = .contention) : Ends (exec i s) (TableStep s) :=
    (exec_verdict_table s k).mono fun _ => Reaches.tableStep
  by_cases spares : sparesTable i = true
  · exact (exec_sameTable s spares).mono fun _ => SameTable.tableStep
  cases i with
  | resetN => exact absurd rfl h
  | linkReset f =>
    show Ends (execLinkReset f s) _
    unfold execLinkReset
    split
    · exact ends_next (tableStep_of_table rfl)
    · split
      · exact ends_next (tableStep_of_table rfl)
      · exact ends_next (Reaches.tableStep (Reaches.endsAs (reaches_linkWasReset s) rfl))
  | stationRelease f =>
    show Ends (execStationRelease f s) _
    unfold execStationRelease
    split
    · exact ends_next (tableStep_of_table rfl)
    · split
      · exact ends_next (Reaches.tableStep (Reaches.endsAs (reaches_released s _) rfl))
      · exact ends_next (tableStep_of_table rfl)
  | listAbort f =>
    show Ends (execListAbort f s) _
    unfold execListAbort
    have aborts := ((reaches_aborted s f.chan).trans (reaches_endStep _ s)).trans
      (Reaches.of_table (t := ((s.aborted f.chan).endStep s).command .accepted 0x14 f) rfl)
    split
    · exact ends_next (tableStep_of_table rfl)
    · exact ends_next (tableStep_of_table rfl)
    all_goals exact ends_next aborts.tableStep
  | stationWindowStore offset enables d => exact exec_stationWindowStore_table offset enables d s
  | stationWindowLoad offset enables => exact exec_stationWindowLoad_table offset enables s
  | jobOffer => exact exec_jobOffer_table s
  | requestFrameSent => exact exec_requestFrameSent_table s
  | bcastWriteSent => exact verdict (by simp)
  | replyWindowExpiry => exact verdict (by simp)
  | replyReceived bytes => exact verdict (by simp)
  | lineSettled => exact verdict (by simp)
  | stuckLineTimeout => exact verdict (by simp)
  | contention => exact verdict (by simp)
  | slotsEnd slots =>
    show Ends (execSlotsEnd slots s) _
    unfold execSlotsEnd
    split
    · exact ends_next (Reaches.tableStep (Reaches.endsAs (Reaches.foldl reaches_takeSlot _ _) rfl))
    · exact same
  | backoffExpiry t =>
    show Ends (execBackoffExpiry t s) _
    unfold execBackoffExpiry
    split
    · exact same
    · rename_i x hx
      exact ends_next (Reaches.tableStep (Reaches.endsAs (reaches_setXchg hx (xStep_backoffEnds x)) rfl))
  | deadlineExpiry t =>
    show Ends (execDeadlineExpiry t s) _
    unfold execDeadlineExpiry
    split
    · exact same
    · rename_i x hx
      exact ends_next (Reaches.tableStep (Reaches.endsAs (reaches_setXchg hx (xStep_deadlineEnds x)) rfl))
  | windowHoldExpiry =>
    show Ends (execWindowHoldExpiry s) _
    unfold execWindowHoldExpiry
    split
    · rename_i t _ _ _
      refine ends_next (Reaches.tableStep (Reaches.endsAs (reaches_free s t) ?_))
      show State.table (State.enterWindowFault _ _) = _
      unfold State.enterWindowFault
      split <;> rfl
    · exact same
  | censusCreation => exact exec_censusCreation_table s
  | recoveryCreation => exact exec_recoveryCreation_table s
  | fetchEventCreation => exact exec_fetchEventCreation_table s
  | payloadGrant => exact exec_payloadGrant_table s
  | portOperationStart =>
    show Ends (execPortOperationStart s) _
    unfold execPortOperationStart
    split
    · exact ends_next (Reaches.tableStep (Reaches.endsAs (reaches_startOp s _ _) rfl))
    · exact same
  | descriptorFetchEnd c w0 w1 w2 w3 w4 => exact exec_descriptorFetchEnd_table c w0 w1 w2 w3 w4 s
  | fillEnd c bytes => exact (exec_fillEnd_table c bytes s).mono fun _ => Reaches.tableStep
  | drainEnd c => exact (exec_drainEnd_table c s).mono fun _ => Reaches.tableStep
  | memoryFault c a => exact (exec_memoryFault_table c a s).mono fun _ => Reaches.tableStep
  | _ => exact absurd rfl spares

end Sys2Proof.Machine
end

section
/-! PROOF. An exchange keeps its request, and every step keeps the creation lists, the quotas and the units apart. -/

namespace Sys2Proof.Machine

/-! ## A step is a command -/

/-- A step idles on an empty queue and runs the front command on the rest of the queue otherwise. -/
theorem step_cases {s t : State} (h : step s = .next t) :
    t = s ∨ ∃ i rest, s.pending = i :: rest ∧ exec i { s with pending := rest } = .next t := by
  unfold step at h
  split at h
  · cases h; exact .inl rfl
  · rename_i i rest e; exact .inr ⟨i, rest, e, h⟩

/-- What the queue holds is read by no record and no creation list. -/
theorem Creations.of_pending {s u : State} {rest : List Instr} (h : Creations { s with pending := rest } u) :
    Creations s u := by
  induction h with
  | same xchg creation => exact .same xchg creation
  | more _ create proper dest room ih => exact .more ih create proper dest room

theorem TableStep.of_pending {s t : State} {rest : List Instr} (h : TableStep { s with pending := rest } t) :
    TableStep s t := by
  obtain ⟨u, creations, retains⟩ := h
  exact ⟨u, creations.of_pending, retains⟩

/-- What a step does to the table: creations, then changes; or RESET_N clears it. -/
theorem step_table {s t : State} (h : step s = .next t) :
    TableStep s t ∨ ((∀ tag, t.xchg tag = none) ∧ ∀ o, t.table.creation o = []) := by
  rcases step_cases h with rfl | ⟨i, rest, _, run⟩
  · exact .inl (tableStep_of_table rfl)
  · by_cases reset : i = .resetN
    · subst reset
      rw [exec_resetN] at run
      cases run
      refine .inr ⟨fun tag => xchg_of_reset_table rfl tag, fun o => ?_⟩
      rcases o with _ | c | _ <;> try cases c
      all_goals rfl
    · exact .inl (exec_table _ reset _ run).of_pending

/-! ## Requests -/

theorem Creations.xchg_some {s u : State} (h : Creations s u) {tag : Tag} {x : Exchange} (hx : s.xchg tag = some x) :
    u.xchg tag = some x := by
  induction h with
  | same xchg _ => rw [xchg, hx]
  | @more u v r tag' us _ create _ _ _ ih =>
    obtain ⟨w, creates, xchg, _⟩ := create
    have other : tag ≠ tag' := by
      intro e
      rw [e, creates.free] at ih
      cases ih
    rw [xchg, creates.xchg, if_neg other, ih]

theorem TableStep.keepsRequest {s t : State} (h : TableStep s t) {tag : Tag} {x y : Exchange}
    (hx : s.xchg tag = some x) (hy : t.xchg tag = some y) : KeepsRequest x y := by
  obtain ⟨u, creations, retains⟩ := h
  obtain ⟨x', hx', keeps⟩ := retains.recs tag y hy
  rw [creations.xchg_some hx] at hx'
  cases hx'
  exact keeps

/-- Settles O59: a creation takes a FREE record, and every other change of a record keeps its request. -/
theorem exchangesKeepTheirRequest : Obligations.ExchangesKeepTheirRequest := by
  intro c s t ne run tag x y hx hy
  exact (exec_table s ne t run).keepsRequest hx hy

/-! ## Creation lists (R4) -/

theorem Creates.listsAgree {s t : State} {r : Request} {tag : Tag} {us : List UnitNo} (h : Creates s r tag us t)
    (lists : ListsAgree s) : ListsAgree t where
  nodup o := by
    rw [h.creation]
    split
    · rename_i e
      refine List.nodup_append.mpr ⟨lists.nodup o, List.nodup_singleton tag, fun a ha b hb e => ?_⟩
      obtain ⟨x, hx, _⟩ := (lists.mem o a).mp ha
      rw [List.mem_singleton.mp hb] at e
      rw [e, h.free] at hx
      cases hx
    · exact lists.nodup o
  mem o tag' := by
    have old := lists.mem o tag'
    rw [h.creation, h.xchg]
    by_cases new : tag' = tag
    · subst new
      rw [h.free] at old
      by_cases owner : o = r.owner
      · simp [owner, Request.exchange]
      · simp only [owner, if_false, if_true, old]
        constructor
        · rintro ⟨_, e, _⟩; cases e
        · rintro ⟨_, e, eo⟩
          cases e
          exact absurd eo.symm owner
    · rw [if_neg new, ← old]
      split
      · simp [new]
      · rfl

theorem ListsAgree.of_same {s t : State} (lists : ListsAgree s) (xchg : ∀ tag, t.xchg tag = s.xchg tag)
    (creation : ∀ o, t.table.creation o = s.table.creation o) : ListsAgree t where
  nodup o := by rw [creation]; exact lists.nodup o
  mem o tag := by rw [creation, xchg]; exact lists.mem o tag

theorem Creations.listsAgree {s u : State} (h : Creations s u) (lists : ListsAgree s) : ListsAgree u := by
  induction h with
  | same xchg creation => exact lists.of_same xchg creation
  | more _ create _ _ _ ih =>
    obtain ⟨w, creates, xchg, creation⟩ := create
    exact (creates.listsAgree ih).of_same xchg creation

theorem Retains.listsAgree {s t : State} (h : Retains s t) (lists : ListsAgree s) : ListsAgree t where
  nodup o := (h.sub o).nodup (lists.nodup o)
  mem o tag := by
    constructor
    · intro hm
      obtain ⟨x, hx, ho⟩ := (lists.mem o tag).mp ((h.sub o).subset hm)
      obtain ⟨y, hy⟩ := Option.isSome_iff_exists.mp (h.keep o tag x hm hx ho)
      obtain ⟨x', hx', keeps⟩ := h.recs tag y hy
      rw [hx] at hx'
      cases hx'
      exact ⟨y, hy, keeps.owner.trans ho⟩
    · rintro ⟨y, hy, ho⟩
      obtain ⟨x, hx, keeps⟩ := h.recs tag y hy
      by_contra gone
      have listed := (lists.mem o tag).mpr ⟨x, hx, keeps.owner.symm.trans ho⟩
      rw [h.drop o tag listed gone] at hy
      cases hy

/-! ## Quotas (R3) -/

/-- Counting two properties that differ at one place of a list without repeats. -/
theorem countP_succ {α : Type} {l : List α} {p q : α → Bool} {a : α} (nodup : l.Nodup) (mem : a ∈ l) (ha : q a = true)
    (ha' : p a = false) (others : ∀ b, b ≠ a → q b = p b) : l.countP q = l.countP p + 1 := by
  obtain ⟨l₁, l₂, rfl⟩ := List.append_of_mem mem
  have fresh := List.nodup_middle.mp nodup
  rw [List.nodup_cons, List.mem_append, not_or] at fresh
  have same (m : List α) (h : a ∉ m) : m.countP q = m.countP p :=
    List.countP_congr fun b hb => by rw [others b fun e => h (e ▸ hb)]
  rw [List.countP_append, List.countP_cons, List.countP_append, List.countP_cons, same l₁ fresh.1.1, same l₂ fresh.1.2, ha,
    ha']
  simp only [if_true, Bool.false_eq_true, if_false]
  omega

theorem allTags_nodup : allTags.Nodup := List.nodup_finRange 32

theorem mem_allTags (tag : Tag) : tag ∈ allTags := List.mem_finRange tag

/-- A creation adds one to the counts of what the new exchange is. -/
theorem Creates.countX {s t : State} {r : Request} {tag : Tag} {us : List UnitNo} (h : Creates s r tag us t)
    (p : Exchange → Bool) : t.countX p = s.countX p + if p (r.exchange us) then 1 else 0 := by
  unfold State.countX
  by_cases new : p (r.exchange us) = true
  · rw [if_pos new]
    refine countP_succ allTags_nodup (mem_allTags tag) ?_ ?_ (fun b hb => ?_)
    · simp [h.xchg, new]
    · simp [h.free]
    · simp [h.xchg, hb]
  · rw [if_neg new, Nat.add_zero]
    refine List.countP_congr fun b _ => ?_
    rw [h.xchg]
    split
    · rename_i e; simp [e, h.free, new]
    · rfl

/-- A property that a kept request keeps is counted no more often. -/
theorem Retains.countX_le {s t : State} (h : Retains s t) {p : Exchange → Bool}
    (keeps : ∀ x y, KeepsRequest x y → p y = true → p x = true) : t.countX p ≤ s.countX p := by
  refine List.countP_mono_left fun tag _ hy => ?_
  obtain ⟨y, hy, py⟩ := Option.any_eq_true _ _ |>.mp hy
  obtain ⟨x, hx, k⟩ := h.recs tag y hy
  simp [hx, keeps x y k py]

theorem QuotasHold.of_countX {s t : State} (h : QuotasHold s) (xchg : ∀ tag, t.xchg tag = s.xchg tag) : QuotasHold t := by
  have same := countX_of_xchg xchg
  exact ⟨by rw [same]; exact h.window, fun c => by rw [same]; exact h.list c, by rw [same]; exact h.census,
    by rw [same]; exact h.recovery, by rw [same]; exact h.fetch, fun tag x hx => h.internal tag x (by rwa [← xchg])⟩

theorem anyX_eq_false_iff {s : State} {p : Exchange → Bool} :
    s.anyX p = false ↔ ∀ tag x, s.xchg tag = some x → p x = false := by
  simp only [State.anyX, List.any_eq_false, mem_allTags, forall_const]
  refine forall_congr' fun tag => ?_
  cases s.xchg tag <;> simp

theorem countX_eq_zero {s : State} {p : Exchange → Bool} (h : s.anyX p = false) : s.countX p = 0 := by
  refine List.countP_eq_zero.mpr fun tag _ hy => ?_
  obtain ⟨y, hy, py⟩ := Option.any_eq_true _ _ |>.mp hy
  rw [anyX_eq_false_iff.mp h tag y hy] at py
  cases py

/-- The quotas after a creation: each count has room before, or does not rise. -/
theorem Creates.quotasHold {s t : State} {r : Request} {tag : Tag} {us : List UnitNo} (h : Creates s r tag us t)
    (proper : r.proper) (quotas : QuotasHold s) : QuotasHold t := by
  have quota := h.quota
  unfold State.quotaOk at quota
  constructor
  · rw [h.countX]
    by_cases owner : r.owner = .window
    · rw [owner] at quota
      have : s.countX (fun x => x.owner == .window) < 8 := of_decide_eq_true quota
      split <;> omega
    · have := quotas.window
      simp [Request.exchange, owner, this]
  · intro c
    rw [h.countX]
    by_cases owner : r.owner = .list c
    · rw [owner] at quota
      have : s.countX (fun x => x.owner == .list c) < 10 := of_decide_eq_true quota
      split <;> omega
    · have := quotas.list c
      simp [Request.exchange, owner, this]
  · rw [h.countX]
    by_cases kind : r.kind = .census
    · rw [proper.mpr (by simp [kind]), kind] at quota
      have : s.countX (fun x => x.kind == .census) = 0 := countX_eq_zero (by simpa using quota)
      split <;> omega
    · have := quotas.census
      simp [Request.exchange, kind, this]
  · rw [h.countX]
    by_cases kind : r.kind = .purge ∨ r.kind = .stationReset
    · have : s.countX (fun x => x.kind == .purge || x.kind == .stationReset) = 0 := by
        rw [proper.mpr (by rcases kind with e | e <;> simp [e])] at quota
        rcases kind with e | e <;> rw [e] at quota <;> exact countX_eq_zero (by simpa using quota)
      split <;> omega
    · have := quotas.recovery
      rw [not_or] at kind
      simp [Request.exchange, kind, this]
  · rw [h.countX]
    by_cases kind : r.kind = .fetchEvent
    · rw [proper.mpr (by simp [kind]), kind] at quota
      have : s.countX (fun x => x.kind == .fetchEvent) < 2 := of_decide_eq_true quota
      split <;> omega
    · have := quotas.fetch
      simp [Request.exchange, kind, this]
  · intro tag' x hx
    rw [h.xchg] at hx
    split at hx
    · cases hx; exact proper
    · exact quotas.internal tag' x hx

theorem Creations.quotasHold {s u : State} (h : Creations s u) (quotas : QuotasHold s) : QuotasHold u := by
  induction h with
  | same xchg _ => exact quotas.of_countX xchg
  | more _ create proper _ _ ih =>
    obtain ⟨w, creates, xchg, _⟩ := create
    exact (creates.quotasHold proper ih).of_countX xchg

theorem Retains.quotasHold {s t : State} (h : Retains s t) (quotas : QuotasHold s) : QuotasHold t where
  window := (h.countX_le fun x y k e => by simpa [k.owner] using e).trans quotas.window
  list c := (h.countX_le fun x y k e => by simpa [k.owner] using e).trans (quotas.list c)
  census := (h.countX_le fun x y k e => by simpa [k.kind] using e).trans quotas.census
  recovery := (h.countX_le fun x y k e => by simpa [k.kind] using e).trans quotas.recovery
  fetch := (h.countX_le fun x y k e => by simpa [k.kind] using e).trans quotas.fetch
  internal tag y hy := by
    obtain ⟨x, hx, k⟩ := h.recs tag y hy
    rw [k.owner, k.kind]
    exact quotas.internal tag x hx

/-! ## Units (R11) -/

/-- The units of a creation are free ones of the partition, without repeats. -/
theorem Creates.unit_free {s t : State} {r : Request} {tag : Tag} {us : List UnitNo} (h : Creates s r tag us t)
    {u : UnitNo} (hu : u ∈ us) :
    (partition r.owner).1 ≤ u.val ∧ u.val < (partition r.owner).2 ∧ ∀ tag' x, s.xchg tag' = some x → u ∉ x.units := by
  rw [h.units] at hu
  have found := List.mem_of_mem_take hu
  simp only [State.freeUnits, List.mem_filter, Bool.and_eq_true, decide_eq_true_eq, Bool.not_eq_true'] at found
  obtain ⟨_, ⟨low, high⟩, held⟩ := found
  refine ⟨low, high, fun tag' x hx => ?_⟩
  simpa using anyX_eq_false_iff.mp held tag' x hx

theorem Creates.units_nodup {s t : State} {r : Request} {tag : Tag} {us : List UnitNo} (h : Creates s r tag us t) :
    us.Nodup := by
  rw [h.units]
  exact ((List.nodup_finRange 64).filter _).sublist (List.take_sublist _ _)

theorem UnitsDisjoint.of_same {s t : State} (h : UnitsDisjoint s) (xchg : ∀ tag, t.xchg tag = s.xchg tag) :
    UnitsDisjoint t := by
  constructor
  · intro tag x u hx; rw [xchg] at hx; exact h.own tag x u hx
  · intro tag x hx; rw [xchg] at hx; exact h.need tag x hx
  · intro tag x hx; rw [xchg] at hx; exact h.nodup tag x hx
  · intro t₁ t₂ x y u hx hy; rw [xchg] at hx hy; exact h.apart t₁ t₂ x y u hx hy

theorem Creates.unitsDisjoint {s t : State} {r : Request} {tag : Tag} {us : List UnitNo} (h : Creates s r tag us t)
    (units : UnitsDisjoint s) : UnitsDisjoint t := by
  constructor
  · intro tag' x u hx hu
    rw [h.xchg] at hx
    split at hx
    · cases hx
      obtain ⟨low, high, _⟩ := h.unit_free hu
      exact ⟨low, high⟩
    · exact units.own tag' x u hx hu
  · intro tag' x hx
    rw [h.xchg] at hx
    split at hx
    · cases hx; exact h.enough
    · exact units.need tag' x hx
  · intro tag' x hx
    rw [h.xchg] at hx
    split at hx
    · cases hx; exact h.units_nodup
    · exact units.nodup tag' x hx
  · intro t₁ t₂ x y u hx hy ux uy
    rw [h.xchg] at hx hy
    by_cases e₁ : t₁ = tag <;> by_cases e₂ : t₂ = tag
    · rw [e₁, e₂]
    · rw [if_pos e₁] at hx
      rw [if_neg e₂] at hy
      cases hx
      exact absurd uy ((h.unit_free ux).2.2 t₂ y hy)
    · rw [if_neg e₁] at hx
      rw [if_pos e₂] at hy
      cases hy
      exact absurd ux ((h.unit_free uy).2.2 t₁ x hx)
    · rw [if_neg e₁] at hx
      rw [if_neg e₂] at hy
      exact units.apart t₁ t₂ x y u hx hy ux uy

theorem Creations.unitsDisjoint {s u : State} (h : Creations s u) (units : UnitsDisjoint s) : UnitsDisjoint u := by
  induction h with
  | same xchg _ => exact units.of_same xchg
  | more _ create _ _ _ ih =>
    obtain ⟨w, creates, xchg, _⟩ := create
    exact (creates.unitsDisjoint ih).of_same xchg

theorem Retains.unitsDisjoint {s t : State} (h : Retains s t) (units : UnitsDisjoint s) : UnitsDisjoint t := by
  constructor
  · intro tag y u hy hu
    obtain ⟨x, hx, k⟩ := h.recs tag y hy
    rw [k.units] at hu
    rw [k.owner]
    exact units.own tag x u hx hu
  · intro tag y hy
    obtain ⟨x, hx, k⟩ := h.recs tag y hy
    rw [k.units, k.kind, k.length]
    exact units.need tag x hx
  · intro tag y hy
    obtain ⟨x, hx, k⟩ := h.recs tag y hy
    rw [k.units]
    exact units.nodup tag x hx
  · intro t₁ t₂ y z u hy hz uy uz
    obtain ⟨x, hx, k⟩ := h.recs t₁ y hy
    obtain ⟨w, hw, l⟩ := h.recs t₂ z hz
    rw [k.units] at uy
    rw [l.units] at uz
    exact units.apart t₁ t₂ x w u hx hw uy uz

/-! ## The step -/

/-- An empty table with empty lists agrees with everything that is asked of records. -/
theorem listsAgree_empty {t : State} (free : ∀ tag, t.xchg tag = none) (lists : ∀ o, t.table.creation o = []) :
    ListsAgree t where
  nodup o := by rw [lists]; exact List.nodup_nil
  mem o tag := by rw [lists, free]; simp

theorem quotasHold_empty {t : State} (free : ∀ tag, t.xchg tag = none) : QuotasHold t := by
  have none (p : Exchange → Bool) : t.countX p = 0 := by simp [State.countX, free]
  exact ⟨by simp [none], fun c => by simp [none], by simp [none], by simp [none], by simp [none],
    fun tag x hx => by rw [free] at hx; cases hx⟩

theorem unitsDisjoint_empty {t : State} (free : ∀ tag, t.xchg tag = none) : UnitsDisjoint t := by
  constructor
  · intro tag x u hx; rw [free] at hx; cases hx
  · intro tag x hx; rw [free] at hx; cases hx
  · intro tag x hx; rw [free] at hx; cases hx
  · intro t₁ t₂ x y u hx; rw [free] at hx; cases hx

/-- Settles O56: creations and changes of records keep all three, and RESET_N leaves an empty table. -/
theorem everyStepKeepsListsQuotasAndUnits : Obligations.EveryStepKeepsListsQuotasAndUnits := by
  intro s t run
  rcases step_table run with ⟨u, creations, retains⟩ | ⟨free, lists⟩
  · exact ⟨fun h => retains.listsAgree (creations.listsAgree h), fun h => retains.quotasHold (creations.quotasHold h),
      fun h => retains.unitsDisjoint (creations.unitsDisjoint h)⟩
  · exact ⟨fun _ => listsAgree_empty free lists, fun _ => quotasHold_empty free, fun _ => unitsDisjoint_empty free⟩

end Sys2Proof.Machine
end

section
/-! PROOF. What the operations over the directory keep: entries in range, lists without repeats and without DISABLED
stations, no station newly DISABLED, and no cause raised that is not an edge cause. -/

namespace Sys2Proof.Machine

/-! ## The relation -/

/-- The counts of an entry are in range (R25). -/
def Entry.InRange (e : Entry) : Prop := e.failures ≤ 15 ∧ e.capacity ≤ 3

/-- What every directory operation keeps, but for the command that makes a station DISABLED. -/
structure Directs (s t : State) : Prop where
  range : (∀ n, (s.entry n).InRange) → ∀ n, (t.entry n).InRange
  disabled : ∀ n, (t.entry n).state = .disabled → (s.entry n).state = .disabled
  lists : DirectoryLists s → DirectoryLists t
  edge : s.irq.edge &&& ~~~edgeCauses = 0#32 → t.irq.edge &&& ~~~edgeCauses = 0#32

theorem Directs.refl (s : State) : Directs s s := ⟨id, fun _ => id, id, id⟩

theorem Directs.trans {s t u : State} (h : Directs s t) (k : Directs t u) : Directs s u :=
  ⟨k.range ∘ h.range, fun n => h.disabled n ∘ k.disabled n, k.lists ∘ h.lists, k.edge ∘ h.edge⟩

theorem Directs.foldl {α : Type} {f : State → α → State} (h : ∀ s a, Directs s (f s a)) (l : List α) (s : State) :
    Directs s (l.foldl f s) := by
  induction l generalizing s with
  | nil => exact Directs.refl s
  | cons a l ih => exact (h s a).trans (ih _)

theorem DirectoryLists.of_same {s t : State} (h : DirectoryLists s) (census : t.dir.census = s.dir.census)
    (recovery : t.dir.recovery = s.dir.recovery)
    (disabled : ∀ n, (t.entry n).state = .disabled → (s.entry n).state = .disabled) : DirectoryLists t where
  census := by rw [census]; exact h.census
  disabled n hn e := h.disabled n (census ▸ hn) (disabled n e)
  recovery := by rw [recovery]; exact h.recovery

/-- The directory and the causes are untouched. -/
theorem Directs.of_same {s t : State} (dir : t.dir = s.dir) (irq : t.irq = s.irq) : Directs s t := by
  have entry := entry_of_dir dir
  exact ⟨fun h n => by rw [entry]; exact h n, fun n e => by rwa [entry] at e,
    fun h => h.of_same (by rw [dir]) (by rw [dir]) fun n e => by rwa [entry] at e, fun h => by rwa [irq]⟩

/-- Entries are rewritten, and the lists and the causes are untouched. -/
theorem Directs.of_entries {s t : State} (census : t.dir.census = s.dir.census) (recovery : t.dir.recovery = s.dir.recovery)
    (irq : t.irq = s.irq) (range : ∀ n, (s.entry n).InRange → (t.entry n).InRange)
    (disabled : ∀ n, (t.entry n).state = .disabled → (s.entry n).state = .disabled) : Directs s t :=
  ⟨fun h n => range n (h n), disabled, fun h => h.of_same census recovery disabled, fun h => by rwa [irq]⟩

/-! ## The plain updates -/

theorem directs_modEntry {s : State} {n : Stn} {f : Entry → Entry} (range : (s.entry n).InRange → (f (s.entry n)).InRange)
    (disabled : (f (s.entry n)).state = .disabled → (s.entry n).state = .disabled) : Directs s (s.modEntry n f) := by
  refine Directs.of_entries rfl rfl rfl (fun m h => ?_) (fun m h => ?_)
  · rw [entry_modEntry]
    split
    · rename_i e; subst e; exact range h
    · exact h
  · rw [entry_modEntry] at h
    split at h
    · rename_i e; subst e; exact disabled h
    · exact h

theorem directs_noteChange (s : State) (n : Stn) : Directs s (s.noteChange n) :=
  Directs.of_entries rfl rfl rfl (fun _ h => h) fun _ h => h

theorem directs_moveTo (s : State) (n : Stn) {st : StnState} (h : st ≠ .disabled) : Directs s (s.moveTo n st) :=
  (directs_modEntry (fun r => r) fun e => absurd e h).trans (directs_noteChange _ n)

theorem directs_recount (s : State) : Directs s s.recount :=
  Directs.of_entries rfl rfl rfl (fun n h => by rw [entry_recount]; exact h) fun n h => by rwa [entry_recount] at h

theorem directs_setXchg (s : State) (t : Tag) (x : Option Exchange) : Directs s (s.setXchg t x) := Directs.of_same rfl rfl

theorem directs_mapX (s : State) (f : Tag → Exchange → Exchange) : Directs s (s.mapX f) := Directs.of_same rfl rfl

theorem directs_setChan (s : State) (c : Chan) (ch : Channel) : Directs s (s.setChan c ch) :=
  Directs.of_same (by simp) (by simp)

theorem directs_modChan (s : State) (c : Chan) (f : Channel → Channel) : Directs s (s.modChan c f) :=
  Directs.of_same (by simp) (by simp)

/-- A cause among the edge causes may be raised. -/
theorem directs_raise (s : State) {k : Word} (h : k &&& ~~~edgeCauses = 0#32) : Directs s (s.raise k) :=
  ⟨fun h n => h n, fun _ h => h, fun l => l.of_same rfl rfl fun _ h => h, fun e => by
    show (s.irq.edge ||| k) &&& ~~~edgeCauses = 0#32
    rw [BitVec.and_comm, BitVec.and_or_distrib_left, BitVec.and_comm, e, BitVec.and_comm, h]; rfl⟩

theorem causeHalt_edge (c : Chan) : causeHalt c &&& ~~~edgeCauses = 0#32 := by cases c <;> rfl

theorem causeNote_edge (c : Chan) : causeNote c &&& ~~~edgeCauses = 0#32 := by cases c <;> rfl

/-! ## The lists -/

theorem directs_dropRecovery (s : State) (n : Stn) : Directs s (s.dropRecovery n) :=
  ⟨fun h => h, fun _ h => h, fun l => ⟨l.census, l.disabled, l.recovery.sublist (List.filter_sublist.map _)⟩, id⟩

theorem DirectoryLists.joins {s : State} (l : DirectoryLists s) {n : Stn} (h : ¬((s.entry n).state = .disabled ∨ n ∈ s.dir.census)) :
    (s.dir.census ++ [n]).Nodup ∧ (n :: s.dir.census).Nodup ∧
      ∀ m, m = n ∨ m ∈ s.dir.census → (s.entry m).state ≠ .disabled := by
  rw [not_or] at h
  refine ⟨?_, List.nodup_cons.mpr ⟨h.2, l.census⟩, fun m hm => ?_⟩
  · exact List.nodup_append.mpr ⟨l.census, List.nodup_singleton n,
      fun a ha b hb e => h.2 (List.mem_singleton.mp hb ▸ e ▸ ha)⟩
  · rcases hm with rfl | hm
    · exact h.1
    · exact l.disabled m hm

theorem directs_joinCensus (s : State) (n : Stn) : Directs s (s.joinCensus n) := by
  unfold State.joinCensus
  split
  · exact Directs.refl s
  · rename_i h
    refine ⟨fun h => h, fun _ h => h, fun l => ⟨(l.joins h).1, fun m hm => ?_, l.recovery⟩, id⟩
    exact (l.joins h).2.2 m (by simpa [or_comm] using hm)

theorem directs_joinCensusAll (s : State) (ns : List Stn) : Directs s (s.joinCensusAll ns) :=
  Directs.foldl directs_joinCensus ns s

theorem directs_censusToHead (s : State) (n : Stn) : Directs s (s.censusToHead n) := by
  unfold State.censusToHead
  split
  · exact Directs.refl s
  · rename_i h
    exact ⟨fun h => h, fun _ h => h, fun l => ⟨(l.joins h).2.1, fun m hm => (l.joins h).2.2 m (by simpa using hm), l.recovery⟩,
      id⟩

theorem not_mem_of_recoveryOf {s : State} {n : Stn} (h : ¬(s.recoveryOf n).isSome = true) :
    n ∉ s.dir.recovery.map (·.1) := by
  intro hm
  obtain ⟨⟨m, act⟩, hr, rfl⟩ := List.mem_map.mp hm
  exact h (recoveryOf_isSome hr)

theorem DirectoryLists.recovers {s : State} (l : DirectoryLists s) {n : Stn} (h : ¬(s.recoveryOf n).isSome = true)
    (act : RecAction) :
    ((s.dir.recovery ++ [(n, act)]).map (·.1)).Nodup ∧ (((n, act) :: s.dir.recovery).map (·.1)).Nodup := by
  have fresh := not_mem_of_recoveryOf h
  refine ⟨?_, ?_⟩
  · rw [List.map_append]
    exact List.nodup_append.mpr ⟨l.recovery, List.nodup_singleton n,
      fun a ha b hb e => fresh (by rw [List.mem_singleton.mp hb] at e; rwa [e] at ha)⟩
  · rw [List.map_cons]
    exact List.nodup_cons.mpr ⟨fresh, l.recovery⟩

theorem directs_placePurge (s : State) (n : Stn) : Directs s (s.placePurge n) := by
  unfold State.placePurge
  split
  · exact Directs.refl s
  · rename_i h
    exact ⟨fun h => h, fun _ h => h, fun l => ⟨l.census, l.disabled, (l.recovers h .purge).1⟩, id⟩

theorem directs_placeReset (s : State) (n : Stn) : Directs s (s.placeReset n) := by
  unfold State.placeReset
  split
  · have keys (l : List (Stn × RecAction)) :
        (l.map fun r => if r.1 = n then (n, RecAction.reset) else r).map (·.1) = l.map (·.1) := by
      rw [List.map_map]
      refine List.map_congr_left fun r _ => ?_
      by_cases e : r.1 = n <;> simp [e]
    exact ⟨fun h => h, fun _ h => h, fun l => ⟨l.census, l.disabled, (keys _).symm ▸ l.recovery⟩, id⟩
  · rename_i h
    exact ⟨fun h => h, fun _ h => h, fun l => ⟨l.census, l.disabled, (l.recovers h .reset).1⟩, id⟩

theorem directs_resetToHead (s : State) (n : Stn) : Directs s (s.resetToHead n) := by
  unfold State.resetToHead
  split
  · exact Directs.refl s
  · rename_i h
    exact ⟨fun h => h, fun _ h => h, fun l => ⟨l.census, l.disabled, (l.recovers h .reset).2⟩, id⟩

theorem directs_setPurge (s : State) (n : Stn) : Directs s (s.setPurge n) := by
  have mark : Directs s (s.modEntry n fun e => { e with purgeNeeded := true }) := directs_modEntry id id
  unfold State.setPurge
  split
  · exact Directs.refl s
  · dsimp only
    split <;> first | exact mark | exact mark.trans (directs_placePurge _ n)

theorem directs_noteUnknown (s : State) (n : Stn) : Directs s (s.noteUnknown n) :=
  (directs_modEntry id id).trans (directs_joinCensus _ n)

/-! ## Completions and channels -/

theorem directs_completeBatch (s : State) (sel : Sel) : Directs s (s.completeBatch sel) := Directs.of_same rfl rfl

theorem directs_complete (s : State) (sel : Sel) : Directs s (s.complete sel) :=
  (directs_completeBatch s sel).trans (Directs.foldl directs_noteUnknown _ _)

theorem directs_leaveRunning (s : State) (c : Chan) : Directs s (s.leaveRunning c) :=
  Directs.trans (t := s.withdraw c) (Directs.of_same rfl rfl) (directs_modChan _ c _)

theorem directs_cancelIssue (s : State) (c : Chan) : Directs s (s.cancelIssue c) :=
  ((directs_complete s _).trans (Directs.foldl directs_setPurge _ _)).trans (directs_mapX _ _)

theorem directs_settleCancel (s : State) (c : Chan) : Directs s (s.settleCancel c) := by
  unfold State.settleCancel
  split
  · exact Directs.refl s
  · exact directs_modChan s c _

theorem directs_haltIfDone (s : State) (c : Chan) : Directs s (s.haltIfDone c) := by
  unfold State.haltIfDone
  split
  · exact (directs_modChan s c _).trans (directs_raise _ (causeHalt_edge c))
  · exact Directs.refl s

theorem directs_endAbortIfDone (s : State) (c : Chan) : Directs s (s.endAbortIfDone c) := by
  unfold State.endAbortIfDone
  split
  · exact directs_modChan s c _
  · exact Directs.refl s

theorem directs_enterStopping (s : State) (c : Chan) (k : HaltCause) : Directs s (s.enterStopping c k) :=
  ((((directs_leaveRunning s c).trans (directs_modChan _ c _)).trans (directs_cancelIssue _ c)).trans
    (directs_settleCancel _ c)).trans (directs_haltIfDone _ c)

theorem directs_stopOnFailure (s : State) (c : Chan) : Directs s (s.stopOnFailure c) := by
  unfold State.stopOnFailure
  split
  · exact directs_enterStopping s c _
  · exact Directs.refl s

theorem directs_stopOnFailures (s : State) : Directs s s.stopOnFailures :=
  (directs_stopOnFailure s .A).trans (directs_stopOnFailure _ .B)

theorem directs_memFaultStops (s : State) (c : Chan) : Directs s (s.memFaultStops c) := by
  unfold State.memFaultStops
  split
  · exact directs_enterStopping s c _
  · exact directs_enterStopping s c _
  · exact directs_modChan s c _
  all_goals exact Directs.refl s

theorem directs_aborted (s : State) (c : Chan) : Directs s (s.aborted c) :=
  (((((directs_leaveRunning s c).trans (directs_modChan _ c _)).trans (directs_cancelIssue _ c)).trans
    (directs_mapX _ _)).trans (directs_settleCancel _ c)).trans (directs_endAbortIfDone _ c)

theorem directs_enterWindowFault (s : State) (f : WinFault) : Directs s (s.enterWindowFault f) := by
  unfold State.enterWindowFault
  dsimp only
  split
  · refine Directs.trans (Directs.of_same ?_ ?_) (directs_raise _ (k := causeWindowFault) rfl) <;> rfl
  · exact Directs.of_same rfl rfl

theorem directs_windowTakeTag (s : State) (t : Tag) : Directs s (s.windowTakeTag t) := by
  unfold State.windowTakeTag
  split
  · exact Directs.refl s
  · split
    · unfold State.windowTake
      dsimp only
      split
      · split
        · refine Directs.trans (Directs.of_same ?_ ?_) (directs_enterWindowFault _ _) <;> rfl
        · exact Directs.of_same rfl rfl
      · split
        · exact Directs.refl s
        · exact directs_enterWindowFault _ _
      all_goals exact Directs.refl s
    · exact Directs.refl s
    · exact Directs.refl s

theorem directs_handOver (s before : State) : Directs s (s.handOver before) := by
  have takes := Directs.foldl directs_windowTakeTag (s.table.winList.filter (s.newlyDone before)) s
  unfold State.handOver
  exact takes.trans (Directs.of_same rfl rfl)

theorem directs_endStep (s before : State) : Directs s (s.endStep before) :=
  (directs_handOver s before).trans (directs_recount _)

theorem directs_declareSilent (s : State) (n : Stn) : Directs s (s.declareSilent n) := by
  unfold State.declareSilent
  dsimp only
  refine Directs.trans ?_ (directs_stopOnFailures _)
  refine Directs.trans ?_ (directs_mapX _ _)
  refine Directs.trans ?_ (directs_complete _ _)
  refine Directs.trans ?_ (directs_dropRecovery _ n)
  exact (directs_moveTo s n (by simp)).trans (directs_modEntry id id)

/-! ## Outcomes -/

theorem directs_applyMove (s : State) (t : Tag) (m : Move × Exchange) : Directs s (s.applyMove t m) := by
  unfold State.applyMove
  split
  · exact directs_setXchg s t _
  · exact ((directs_setXchg s t _).trans (directs_complete _ _)).trans (directs_stopOnFailures _)

theorem directs_takeRestart (s : State) (n : Stn) (own : Tag) (x : Exchange) (v : Verdict) :
    Directs s (s.takeRestart n own x v) := by
  unfold State.takeRestart
  split
  · exact ((directs_complete s _).trans (directs_stopOnFailures _)).trans
      ((directs_modEntry id id).trans (directs_noteChange _ n))
  · exact Directs.refl s

theorem adopt_inRange {e : Entry} (i : Identity) (hi : i.capacity ≤ 3) (h : e.InRange) : (e.adopt i).InRange := ⟨h.1, hi⟩

theorem identityOf_capacity (p : List Byte) : (identityOf p).capacity ≤ 3 := Nat.min_le_left _ _

theorem directs_comesIn (s : State) (n : Stn) (ep : BitVec 4) {i : Identity} (hi : i.capacity ≤ 3) :
    Directs s (s.comesIn n ep i) := by
  have adopts : Directs s (s.modEntry n fun e => { e.adopt i with epoch := some ep }) :=
    directs_modEntry (adopt_inRange i hi) id
  have resync : Directs s (((s.modEntry n fun e => { e.adopt i with epoch := some ep }).moveTo n .resync).placePurge n) :=
    (adopts.trans (directs_moveTo _ n (by simp))).trans (directs_placePurge _ n)
  unfold State.comesIn
  dsimp only
  split
  · exact adopts.trans ((directs_modEntry id id).trans (directs_moveTo _ n (by simp)))
  · split
    · exact resync
    · exact adopts.trans ((directs_modEntry id id).trans (directs_moveTo _ n (by simp)))
  all_goals exact resync

theorem directs_checkIdent (s : State) (n : Stn) (b : Bool) {i : Identity} (hi : i.capacity ≤ 3) :
    Directs s (s.checkIdent n b i) := by
  unfold State.checkIdent
  dsimp only
  split
  · exact directs_modEntry (adopt_inRange i hi) id
  · split
    · exact directs_modEntry id id
    · exact (directs_modEntry id id).trans (directs_noteChange _ n)

theorem directs_censusFailed (s : State) (n : Stn) (st : CensusStatus) : Directs s (s.censusFailed n st) := by
  have marks : Directs s (s.modEntry n fun e => { e with lastCensus := some { status := st, stationFault := false } }) :=
    directs_modEntry id id
  unfold State.censusFailed
  dsimp only
  split
  · exact marks.trans (directs_joinCensus _ n)
  · exact marks

theorem directs_ownerActs (s : State) (n : Stn) (own : Tag) (x : Exchange) (b : Bool) (m : Move) (v : Verdict) :
    Directs s (s.ownerActs n own x b m v) := by
  unfold State.ownerActs
  split
  · exact Directs.refl s
  · split
    · unfold State.takeIdent
      split <;> first | exact directs_comesIn s n _ (identityOf_capacity _) | exact directs_checkIdent s n b (identityOf_capacity _)
    · exact directs_censusFailed s n _
    · have clears : Directs s (s.modEntry n fun e => { e with purgeNeeded := false }) := directs_modEntry id id
      unfold State.purgeAccepted
      dsimp only
      split
      · exact clears.trans (directs_moveTo _ n (by simp))
      · exact clears
    · exact ((directs_complete s _).trans (directs_stopOnFailures _)).trans
        ((directs_modEntry id id).trans (directs_moveTo _ n (by simp)))
    · split
      · have clears : Directs s (s.modEntry n fun e => { e with eventPending := false }) := directs_modEntry id id
        unfold State.eventFetched
        dsimp only
        split <;> first | exact clears | exact clears.trans (Directs.of_same rfl rfl)
      · exact Directs.refl s
    · exact Directs.refl s

theorem directs_countOutcome (s : State) (n : Stn) (v : Verdict) : Directs s (s.countOutcome n v) := by
  have zero : Directs s (s.modEntry n fun e => { e with failures := 0 }) :=
    directs_modEntry (fun r => ⟨Nat.zero_le _, r.2⟩) id
  have rise : Directs s (s.modEntry n fun e => { e with failures := min 15 ((s.entry n).failures + 1) }) :=
    directs_modEntry (fun r => ⟨Nat.min_le_left _ _, r.2⟩) id
  unfold State.countOutcome
  dsimp only
  split
  · split
    · exact zero.trans (directs_moveTo _ n (by simp))
    · exact zero
  · split
    · split
      · exact rise.trans (directs_moveTo _ n (by simp))
      · exact rise
    · exact Directs.refl s

theorem directs_setSeqBit (s : State) (n : Stn) (x : Exchange) (b : Bool) (v : Verdict) :
    Directs s (s.setSeqBit n x b v) := by
  unfold State.setSeqBit
  split
  · exact directs_modEntry id id
  · exact Directs.refl s

theorem directs_readySign (s : State) (n : Stn) (own : Option Tag) : Directs s (s.readySign n own) := by
  unfold State.readySign
  split <;> first | exact directs_mapX s _ | exact directs_modEntry id id | exact Directs.refl s

theorem directs_eventSign (s : State) (n : Stn) : Directs s (s.eventSign n) := by
  unfold State.eventSign
  split <;> first | exact directs_modEntry id id | exact Directs.refl s

theorem directs_takeAttention (s : State) (n : Stn) (own : Tag) (v : Verdict) : Directs s (s.takeAttention n own v) := by
  unfold State.takeAttention
  split
  · exact Directs.refl s
  · rename_i h _
    have ready : Directs s (if h.attReady then s.readySign n (some own) else s) := by
      split
      · exact directs_readySign s n _
      · exact Directs.refl s
    dsimp only
    split
    · exact ready.trans (directs_eventSign _ n)
    · exact ready

theorem directs_censusDone (s : State) (x : Exchange) (m : Move) : Directs s (s.censusDone x m) := by
  unfold State.censusDone
  split
  · split
    · exact directs_raise s rfl
    · exact Directs.refl s
  · exact Directs.refl s

theorem directs_directoryActs (s : State) (n : Stn) (own : Tag) (x : Exchange) (m : Move) (v : Verdict) :
    Directs s (s.directoryActs n own x m v) := by
  unfold State.directoryActs
  dsimp only
  refine Directs.trans ?_ (directs_censusDone _ x m)
  refine Directs.trans ?_ (directs_takeAttention _ n own v)
  have counted : Directs s (((s.takeRestart n own x v).ownerActs n own x (s.showsRestart n v) m v).countOutcome n v) :=
    ((directs_takeRestart s n own x v).trans (directs_ownerActs _ n own x _ m v)).trans (directs_countOutcome _ n v)
  have purged (u : State) : Directs u (if m.purges then u.setPurge n else u) := by
    split
    · exact directs_setPurge u n
    · exact Directs.refl u
  have silent (u : State) (b : Bool) : Directs u (if b then u.declareSilent n else u) := by
    split
    · exact directs_declareSilent u n
    · exact Directs.refl u
  exact ((counted.trans (directs_setSeqBit _ n x _ v)).trans (purged _)).trans (silent _ _)

theorem directs_applyVerdict (s : State) (t : Tag) (v : Verdict) : Directs s (s.applyVerdict t v) := by
  unfold State.applyVerdict
  split
  · exact Directs.refl s
  · rename_i x _
    split
    · have kept : Directs s (s.keepPayload x v) := by
        unfold State.keepPayload
        split <;> exact Directs.of_same rfl rfl
      have moved := kept.trans (directs_applyMove _ t (s.moveOf x v))
      dsimp only
      split
      · exact (moved.trans (directs_directoryActs _ _ t x _ v)).trans (directs_endStep _ s)
      · exact moved.trans (directs_endStep _ s)
    · exact Directs.refl s

end Sys2Proof.Machine
end

section
/-! PROOF. Every command answers a next state, leaves the waiting commands alone, and keeps the ranges of chapter 11. -/

namespace Sys2Proof.Machine

/-! ## Commands that answer a next state -/

/-- The outcome is a next state, and it has the property. -/
def Runs (o : Host.Outcome State Fault Refusal) (P : State → Prop) : Prop := ∃ t, o = .next t ∧ P t

theorem runs_next {t : State} {P : State → Prop} (h : P t) : Runs (.next t) P := ⟨t, rfl, h⟩

theorem Runs.ends {o : Host.Outcome State Fault Refusal} {P : State → Prop} (h : Runs o P) : Ends o P := by
  obtain ⟨t, rfl, ht⟩ := h
  exact ends_next ht

theorem Runs.mono {o : Host.Outcome State Fault Refusal} {P Q : State → Prop} (h : Runs o P) (k : ∀ t, P t → Q t) :
    Runs o Q := by
  obtain ⟨t, e, ht⟩ := h
  exact ⟨t, e, k t ht⟩

/-! ## What a command keeps of the outer blocks -/

/-- The store stays canonical, the registers and the line-fault count and the enable set stay in their ranges, and the
waiting commands stay. -/
structure Ranges (s t : State) : Prop where
  store : Memory.wf s.store = true → Memory.wf t.store = true
  regs : s.regs.InRange → t.regs.InRange
  faults : s.regs.InRange → s.line.faultCount ≤ 7 → t.line.faultCount ≤ 7
  enable : s.irq.enable &&& ~~~allCauses = 0#32 → t.irq.enable &&& ~~~allCauses = 0#32
  pending : t.pending = s.pending

theorem Ranges.refl (s : State) : Ranges s s := ⟨id, id, fun _ => id, id, rfl⟩

theorem Ranges.trans {s t u : State} (h : Ranges s t) (k : Ranges t u) : Ranges s u :=
  ⟨k.store ∘ h.store, k.regs ∘ h.regs, fun r e => k.faults (h.regs r) (h.faults r e), k.enable ∘ h.enable,
    k.pending.trans h.pending⟩

theorem Ranges.of_outer {s t : State} (h : t.outer = s.outer) : Ranges s t where
  store := by rw [show t.store = s.store from congrArg Outer.store h]; exact id
  regs := by rw [show t.regs = s.regs from congrArg Outer.regs h]; exact id
  faults := by rw [show t.line = s.line from congrArg Outer.line h]; exact fun _ => id
  enable := by rw [show t.irq.enable = s.irq.enable from congrArg Outer.enable h]; exact id
  pending := congrArg Outer.pending h

/-- What a command keeps that neither fetches an event nor disables a station. -/
structure Mild (s t : State) : Prop where
  ranges : Ranges s t
  directs : Directs s t
  queue : t.events.queue.length ≤ s.events.queue.length

theorem Mild.refl (s : State) : Mild s s := ⟨.refl s, .refl s, Nat.le_refl _⟩

theorem Mild.trans {s t u : State} (h : Mild s t) (k : Mild t u) : Mild s u :=
  ⟨h.ranges.trans k.ranges, h.directs.trans k.directs, k.queue.trans h.queue⟩

theorem Mild.of_outer {s t : State} (h : t.outer = s.outer) (d : Directs s t) : Mild s t :=
  ⟨.of_outer h, d, by rw [show t.events = s.events from congrArg Outer.events h]⟩

/-- A step that leaves the store, the registers, the causes, the directory, the event queue and the waiting commands alone,
and does not raise the line-fault count. -/
theorem Mild.of_line {s t : State} (store : t.store = s.store) (regs : t.regs = s.regs) (irq : t.irq = s.irq)
    (dir : t.dir = s.dir) (events : t.events.queue = s.events.queue) (pending : t.pending = s.pending)
    (faults : t.line.faultCount ≤ s.line.faultCount) : Mild s t where
  ranges := ⟨by rw [store]; exact id, by rw [regs]; exact id, fun _ => faults.trans, by rw [irq]; exact id, pending⟩
  directs := .of_same dir irq
  queue := by rw [events]

/-- The verdict of a command is no register of R172. -/
theorem mild_command (s : State) (v : CmdVerdict) (k : Nat) (f : CmdFields) : Mild s (s.command v k f) where
  ranges := ⟨id, fun r => ⟨r.1, r.2, r.3, r.4, r.5, r.6, r.7, r.8, r.9, r.10, r.11, r.12, r.13, r.14, r.15, r.16, r.17⟩,
    fun _ => id, id, rfl⟩
  directs := .of_same rfl rfl
  queue := Nat.le_refl _

theorem mild_answer (s : State) (a : Answer) : Mild s (s.answer a) := .of_line rfl rfl rfl rfl rfl rfl (Nat.le_refl _)

/-- An update of the registers that stays in their ranges. -/
theorem mild_regs (s : State) {r : Regs} (h : s.regs.InRange → r.InRange) : Mild s { s with regs := r } where
  ranges := ⟨id, h, fun _ => id, id, rfl⟩
  directs := .of_same rfl rfl
  queue := Nat.le_refl _

/-! ## The registers -/

theorem clamp_bounds {lo hi : Nat} (v : Nat) (h : lo ≤ hi) : lo ≤ clamp lo hi v ∧ clamp lo hi v ≤ hi := by
  unfold clamp
  omega

theorem mask_stationBits (v : Word) : (v &&& stationBits) &&& ~~~stationBits = 0#32 := by
  rw [BitVec.and_assoc, BitVec.and_not_self]
  exact BitVec.and_zero

theorem mask_allCauses (v : Word) : (v &&& allCauses) &&& ~~~allCauses = 0#32 := by
  rw [BitVec.and_assoc, BitVec.and_not_self]
  exact BitVec.and_zero

theorem written_inRange {r : Regs} (h : r.InRange) (p : ParamReg) (v : Word) : (r.written p v).InRange := by
  have bounds {lo hi : Nat} (k : Nat) (e : lo ≤ hi := by decide) := clamp_bounds k e
  cases p with
  | replyWindow => exact { h with replyWindow := bounds _ }
  | guardTime => exact { h with guardTime := bounds _ }
  | retryConfig => exact { h with retryLimit := Nat.le_of_lt_succ (BitVec.isLt _), retryGap := bounds _ }
  | busyConfig => exact { h with busyLimit := bounds _, busyGap := bounds _ }
  | faultThresholds =>
    exact { h with suspectThreshold := bounds _, silentThreshold := bounds _, lineFaultLimit := bounds _ }
  | deferDeadline => exact { h with deferDeadline := bounds _ }
  | resetHold => exact { h with resetHold := bounds _ }
  | windowHold => exact { h with windowHold := bounds _ }
  | censusMask => exact { h with censusMask := mask_stationBits v }
  | commandMask => exact { h with commandMask := mask_stationBits v }
  | dirSelect => exact { h with }
  | xtSelect => exact { h with }
  | listBase _ => exact h
  | unheld _ => exact h

theorem exec_write_mild {i : Instr} (s : State)
    (h : (∃ v, i = .sweepIntervalWrite v) ∨ (∃ v, i = .rediscoverIntervalWrite v) ∨ (∃ v, i = .eventThresholdWrite v) ∨
      (∃ v, i = .linkConfigWrite v) ∨ ∃ p v, i = .parameterWrite p v) : Runs (exec i s) (Mild s) := by
  have answered {t : State} (h : Mild s t) : Runs (.next (t.answer .done)) (Mild s) :=
    runs_next (h.trans (mild_answer t .done))
  rcases h with ⟨v, rfl⟩ | ⟨v, rfl⟩ | ⟨v, rfl⟩ | ⟨v, rfl⟩ | ⟨p, v, rfl⟩
  · show Runs (execSweepIntervalWrite v s) _
    unfold execSweepIntervalWrite
    have write := mild_regs s (r := { s.regs with sweepInterval := clamp 0 255 v.toNat })
      fun h => { h with sweepInterval := (clamp_bounds _ (by decide)).2 }
    dsimp only
    split
    · exact answered (write.trans (.of_line rfl rfl rfl rfl rfl rfl (Nat.le_refl _)))
    · exact answered write
  · show Runs (execRediscoverIntervalWrite v s) _
    unfold execRediscoverIntervalWrite
    have write := mild_regs s (r := { s.regs with rediscoverInterval := clamp 0 255 v.toNat })
      fun h => { h with rediscoverInterval := (clamp_bounds _ (by decide)).2 }
    dsimp only
    split
    · refine answered (write.trans ⟨⟨id, id, fun _ => id, id, rfl⟩, ?_, Nat.le_refl _⟩)
      exact .of_entries rfl rfl rfl (fun _ h => h) fun _ h => h
    · exact answered write
  · exact answered (mild_regs s fun h => { h with eventThreshold := clamp_bounds _ (by decide) })
  · exact answered (mild_regs s fun h => { h with })
  · show Runs (execParameterWrite p v s) _
    unfold execParameterWrite
    have write := mild_regs s (r := s.regs.written p v) fun h => written_inRange h p v
    dsimp only
    split
    · exact answered (write.trans (.of_outer (by simp) (directs_modChan _ _ _)))
    all_goals exact answered write

end Sys2Proof.Machine
end

section
/-! PROOF. What the commands that end no attempt keep: the ranges, the directory's lists, and the event queue. -/

namespace Sys2Proof.Machine

/-! ## The link commands -/

theorem mild_rediscovery (s : State) (o : Option Nat) : Mild s { s with dir.rediscovery := o } :=
  ⟨⟨id, id, fun _ => id, id, rfl⟩, .of_entries rfl rfl rfl (fun _ h => h) fun _ h => h, Nat.le_refl _⟩

theorem mild_joinCensusAll (s : State) (ns : List Stn) : Mild s (s.joinCensusAll ns) :=
  .of_outer (by simp) (directs_joinCensusAll s ns)

theorem mild_linkStarted (s : State) : Mild s s.linkStarted := by
  let started : State := { s with
    line.state := .wake, line.rate := s.regs.rate, line.faultCount := 0, line.readyPending := true,
    line.timer := some Config.wakeLength, pointer := .listB, sweep.timer := loadKbt s.regs.sweepInterval }
  have starts : Mild s { started with dir.rediscovery := loadKbt s.regs.rediscoverInterval } :=
    Mild.trans (t := started) (.of_line rfl rfl rfl rfl rfl rfl (Nat.zero_le _)) (mild_rediscovery started _)
  unfold State.linkStarted
  dsimp only
  split
  · exact starts.trans (mild_joinCensusAll _ _)
  · exact starts

theorem mild_mapEntries (s : State) {f : Stn → Entry → Entry} (range : ∀ n e, e.InRange → (f n e).InRange)
    (disabled : ∀ n e, (f n e).state = .disabled → e.state = .disabled) : Mild s (s.mapEntries f) :=
  .of_outer (by simp) (.of_entries rfl rfl rfl (fun n h => by rw [entry_mapEntries]; exact range n _ h)
    fun n h => by rw [entry_mapEntries] at h; exact disabled n _ h)

theorem mild_noteChanges (s : State) (l : List Stn) : Mild s (l.foldl State.noteChange s) :=
  .of_outer (foldl_outer noteChange_outer l s) (Directs.foldl directs_noteChange l s)

theorem entry_reset_inRange : Entry.reset.InRange := ⟨Nat.zero_le _, Nat.zero_le _⟩

theorem mild_clearDirectory (s : State) : Mild s s.clearDirectory := by
  refine Mild.trans (mild_mapEntries s (fun n e h => ?_) fun n e h => ?_) (mild_noteChanges _ _)
  · split
    · exact h
    · exact entry_reset_inRange
  · split at h
    · exact h
    · cases h

theorem mild_recount (s : State) : Mild s s.recount := .of_outer (by simp) (directs_recount s)

theorem mild_linkStopped (s : State) : Mild s s.linkStopped := by
  refine (mild_clearDirectory s).trans ((mild_rediscovery _ none).trans ?_)
  exact .of_line rfl rfl rfl rfl rfl rfl (Nat.zero_le _)

theorem mild_resetDirectory (s : State) : Mild s s.resetDirectory := by
  have entries : Mild s (s.mapEntries fun _ e => e.linkReset) := by
    refine mild_mapEntries s (fun n e h => ⟨Nat.zero_le _, h.2⟩) fun n e h => ?_
    unfold Entry.linkReset at h
    dsimp only at h
    split at h <;> first | cases h | exact h
  unfold State.resetDirectory
  dsimp only
  refine (entries.trans (mild_noteChanges _ _)).trans (.of_outer rfl ⟨fun h => h, fun _ h => h, fun l => ?_, id⟩)
  exact ⟨l.census, l.disabled, l.recovery.sublist (List.filter_sublist.map _)⟩

theorem Mild.foldl {α : Type} {f : State → α → State} (h : ∀ s a, Mild s (f s a)) (l : List α) (s : State) :
    Mild s (l.foldl f s) := by
  induction l generalizing s with
  | nil => exact .refl s
  | cons a l ih => exact (h s a).trans (ih _)

theorem mild_censusReset (s : State) (n : Stn) : Mild s (s.censusReset n) :=
  .of_outer (by simp [State.censusReset]) ((directs_modEntry id id).trans (directs_censusToHead _ n))

theorem mild_resetToHead (s : State) (n : Stn) : Mild s (s.resetToHead n) :=
  .of_outer (by unfold State.resetToHead; split <;> rfl) (directs_resetToHead s n)

theorem mild_noteUnknown (s : State) (n : Stn) : Mild s (s.noteUnknown n) := .of_outer (by simp) (directs_noteUnknown s n)

theorem mild_enterStopping (s : State) (c : Chan) (k : HaltCause) : Mild s (s.enterStopping c k) :=
  .of_outer (by simp) (directs_enterStopping s c k)

theorem mild_resetChannel (s : State) (c : Chan) : Mild s (s.resetChannel c) := by
  unfold State.resetChannel
  split
  · exact mild_enterStopping s c _
  · exact .refl s

theorem mild_endStep (s before : State) : Mild s (s.endStep before) := .of_outer (by simp) (directs_endStep s before)

theorem mild_mapX (s : State) (f : Tag → Exchange → Exchange) : Mild s (s.mapX f) := .of_outer rfl (directs_mapX s f)

theorem mild_linkWasReset (s : State) : Mild s s.linkWasReset := by
  unfold State.linkWasReset
  dsimp only
  refine Mild.trans ?_ (mild_endStep _ s)
  refine Mild.trans ?_ (mild_resetChannel _ .B)
  refine Mild.trans ?_ (mild_resetChannel _ .A)
  refine Mild.trans ?_ (Mild.foldl mild_noteUnknown _ _)
  refine Mild.trans ?_ (Mild.foldl mild_resetToHead _ _)
  refine Mild.trans ?_ (Mild.foldl mild_censusReset _ _)
  refine Mild.trans ?_ (mild_resetDirectory _)
  refine Mild.trans ?_ (mild_mapX _ _)
  refine Mild.trans (t := s.resetLine) ?_ (.of_outer (by simp) (directs_completeBatch _ _))
  exact .of_line rfl rfl rfl rfl rfl rfl (Nat.zero_le _)

/-- A command's effects, then its verdict. -/
theorem Mild.command {s t : State} (h : Mild s t) (v : CmdVerdict) (k : Nat) (f : CmdFields) :
    Runs (.next (t.command v k f)) (Mild s) := runs_next (h.trans (mild_command t v k f))

theorem exec_link_mild {i : Instr} (s : State) (f : CmdFields)
    (h : i = .linkStart f ∨ i = .linkStop f ∨ i = .linkReset f ∨ i = .sweepNow f) : Runs (exec i s) (Mild s) := by
  rcases h with rfl | rfl | rfl | rfl
  · show Runs (execLinkStart f s) _
    unfold execLinkStart
    split
    · exact (mild_linkStarted s).command _ _ _
    · exact (Mild.refl s).command _ _ _
  · show Runs (execLinkStop f s) _
    unfold execLinkStop
    split
    · exact ((mild_linkStopped s).trans (mild_recount _)).command _ _ _
    · exact (Mild.refl s).command _ _ _
  · show Runs (execLinkReset f s) _
    unfold execLinkReset
    split
    · exact (Mild.refl s).command _ _ _
    · split
      · exact (Mild.refl s).command _ _ _
      · exact (mild_linkWasReset s).command _ _ _
  · show Runs (execSweepNow f s) _
    unfold execSweepNow
    split
    · exact (Mild.refl s).command _ _ _
    · have due : Mild s { s with sweep.due := true } := .of_line rfl rfl rfl rfl rfl rfl (Nat.le_refl _)
      exact due.command _ _ _

/-! ## The station commands -/

theorem mild_released (s : State) (n : Stn) : Mild s (s.released n) := by
  have moved : Mild s (s.moveTo n (if s.regs.suspectThreshold ≤ (s.entry n).failures then .suspect else .present)) :=
    .of_outer (by simp) (directs_moveTo s n (by split <;> simp))
  rw [released_eq]
  split
  · exact moved.trans ((Mild.of_outer (by simp) (directs_modEntry id id)).trans (mild_mapX _ _))
  · exact moved

theorem mild_enabled (s : State) (n : Stn) : Mild s (s.enabled n) := by
  let cleared := s.modEntry n fun e => { Entry.reset with wasPresent := e.wasPresent }
  have clears : Mild s (cleared.noteChange n) := by
    refine .of_outer (by simp [cleared]) (Directs.trans (t := cleared) ?_ (directs_noteChange _ n))
    exact directs_modEntry (fun _ => ⟨Nat.zero_le _, Nat.zero_le _⟩) fun h => by cases h
  unfold State.enabled
  dsimp only
  split
  · exact clears.trans (.of_outer (joinCensus_outer _ n) (directs_joinCensus _ n))
  · exact clears

theorem exec_station_mild {i : Instr} (s : State) (f : CmdFields)
    (h : i = .census f ∨ i = .stationHold f ∨ i = .stationRelease f ∨ i = .stationEnable f ∨ i = .stationReset f) :
    Runs (exec i s) (Mild s) := by
  have refused (v : CmdVerdict) (k : Nat) : Runs (.next (s.command v k f)) (Mild s) := (Mild.refl s).command v k f
  rcases h with rfl | rfl | rfl | rfl | rfl
  · show Runs (execCensus f s) _
    unfold execCensus
    split
    · exact refused _ _
    · exact (mild_joinCensusAll s _).command _ _ _
  · show Runs (execStationHold f s) _
    unfold execStationHold
    split
    · exact refused _ _
    · rename_i n _
      have held : Mild s (s.moveTo n .held) := .of_outer (by simp) (directs_moveTo s n (by simp))
      split <;> first | exact held.command _ _ _ | exact refused _ _
  · show Runs (execStationRelease f s) _
    unfold execStationRelease
    split
    · exact refused _ _
    · split
      · exact ((mild_released s _).trans (mild_recount _)).command _ _ _
      · exact refused _ _
  · show Runs (execStationEnable f s) _
    unfold execStationEnable
    split
    · exact refused _ _
    · split
      · exact ((mild_enabled s _).trans (mild_recount _)).command _ _ _
      · exact refused _ _
  · show Runs (execStationReset f s) _
    unfold execStationReset
    split
    · exact refused _ _
    · rename_i n _
      have placed : Mild s (s.placeReset n) := .of_outer (by simp) (directs_placeReset s n)
      split <;> first | exact placed.command _ _ _ | exact refused _ _

/-! ## The list commands -/

theorem mild_modChan (s : State) (c : Chan) (f : Channel → Channel) : Mild s (s.modChan c f) :=
  .of_outer (by simp) (directs_modChan s c f)

theorem mild_leaveRunning (s : State) (c : Chan) : Mild s (s.leaveRunning c) :=
  .of_outer (by simp) (directs_leaveRunning s c)

theorem aborted_outer (s : State) (c : Chan) : (s.aborted c).outer = s.outer := by simp [State.aborted]

theorem exec_list_mild {i : Instr} (s : State) (f : CmdFields)
    (h : i = .listStart f ∨ i = .listPause f ∨ i = .listResume f ∨ i = .listContinue f ∨ i = .listAbort f) :
    Runs (exec i s) (Mild s) := by
  have refused (v : CmdVerdict) (k : Nat) : Runs (.next (s.command v k f)) (Mild s) := (Mild.refl s).command v k f
  rcases h with rfl | rfl | rfl | rfl | rfl
  · show Runs (execListStart f s) _
    unfold execListStart
    split <;> first | exact (mild_modChan s _ _).command _ _ _ | exact refused _ _
  · show Runs (execListPause f s) _
    unfold execListPause
    split
    · exact ((mild_leaveRunning s _).trans (mild_modChan _ _ _)).command _ _ _
    · exact refused _ _
  · show Runs (execListResume f s) _
    unfold execListResume
    split
    · exact (mild_modChan s _ _).command _ _ _
    · exact refused _ _
  · show Runs (execListContinue f s) _
    unfold execListContinue
    dsimp only
    split
    · exact (mild_modChan s _ _).command _ _ _
    · exact refused _ _
  · show Runs (execListAbort f s) _
    unfold execListAbort
    have aborts : Mild s ((s.aborted f.chan).endStep s) :=
      (Mild.of_outer (aborted_outer s f.chan) (directs_aborted s f.chan)).trans (mild_endStep _ s)
    split <;> first | exact aborts.command _ _ _ | exact refused _ _

/-! ## The event queue, the causes and the register window -/

theorem mild_events (s : State) {q : List EventEntry} (h : q.length ≤ s.events.queue.length) :
    Mild s { s with events.queue := q } := ⟨⟨id, id, fun _ => id, id, rfl⟩, .of_same rfl rfl, h⟩

theorem mild_window (s : State) (w : Window) : Mild s { s with window := w } :=
  .of_line rfl rfl rfl rfl rfl rfl (Nat.le_refl _)

/-- Edge causes go, or none. -/
theorem mild_edge (s : State) (w : Word) : Mild s { s with irq.edge := s.irq.edge &&& w } where
  ranges := ⟨id, id, fun _ => id, id, rfl⟩
  directs := ⟨fun h => h, fun _ h => h, fun l => l.of_same rfl rfl fun _ h => h, fun e => by
    show (s.irq.edge &&& w) &&& ~~~edgeCauses = 0#32
    rw [BitVec.and_assoc, BitVec.and_comm w, ← BitVec.and_assoc, e, BitVec.zero_and]⟩
  queue := Nat.le_refl _

theorem mild_takeCopy (s : State) (offset : Nat) : Mild s (s.takeCopy offset) := by
  unfold State.takeCopy
  split <;> exact .of_line rfl rfl rfl rfl rfl rfl (Nat.le_refl _)

theorem exec_register_mild {i : Instr} (s : State)
    (h : (∃ f, i = .eventPop f) ∨ (∃ f, i = .eventFlush f) ∨ (∃ f, i = .ackChanges f) ∨ (∃ f, i = .windowClearFault f) ∨
      (∃ c f, i = .unknownCommand c f) ∨ (∃ m, i = .causeAck m) ∨ (∃ m, i = .causeEnable m) ∨
      (∃ o, i = .viewSnapshot o) ∨ i = .registerAccessError) : Runs (exec i s) (Mild s) := by
  rcases h with ⟨f, rfl⟩ | ⟨f, rfl⟩ | ⟨f, rfl⟩ | ⟨f, rfl⟩ | ⟨c, f, rfl⟩ | ⟨m, rfl⟩ | ⟨m, rfl⟩ | ⟨o, rfl⟩ | rfl
  · show Runs (execEventPop f s) _
    unfold execEventPop
    split
    · exact (Mild.refl s).command _ _ _
    · rename_i e q h
      exact (mild_events s (by rw [h]; simp)).command _ _ _
  · exact (mild_events s (q := []) (Nat.zero_le _)).command _ _ _
  · have acked : Mild s { s with dir.changes := s.dir.changes &&& ~~~s.regs.commandMask } :=
      .of_outer rfl (.of_entries rfl rfl rfl (fun _ h => h) fun _ h => h)
    exact acked.command _ _ _
  · exact (mild_window s _).command _ _ _
  · exact (Mild.refl s).command _ _ _
  · exact runs_next ((mild_edge s _).trans (mild_answer _ _))
  · have enabled : Mild s { s with irq.enable := m &&& allCauses } :=
      ⟨⟨id, id, fun _ => id, fun _ => mask_allCauses m, rfl⟩,
        ⟨fun h => h, fun _ h => h, fun l => l.of_same rfl rfl fun _ h => h, id⟩, Nat.le_refl _⟩
    exact runs_next (enabled.trans (mild_answer _ _))
  · show Runs (execViewSnapshot o s) _
    unfold execViewSnapshot
    split
    · exact runs_next ((mild_takeCopy s _).trans (mild_answer _ _))
    · exact runs_next (mild_answer s _)
  · exact runs_next (mild_answer s _)

/-! ## The station window -/

theorem mild_create {s t : State} {r : Request} {tag : Tag} (h : s.create r = some (tag, t)) : Mild s t := by
  obtain ⟨us, creates⟩ := create_creates h
  exact .of_outer (create_outer h) (.of_same creates.dir (by rw [creates.rest]))

theorem mild_free (s : State) (t : Tag) : Mild s (s.free t) := by
  refine .of_outer (by simp) (.of_same ?_ ?_) <;>
  · unfold State.free
    split
    · rfl
    · dsimp only
      split <;> rfl

/-- Bytes are placed into units of the store. -/
theorem mild_writeUnits (s : State) (us : List UnitNo) (bs : List Byte) :
    Mild s { s with store := writeUnits us 0 bs s.store } :=
  ⟨⟨writeUnits_wf us 0 bs, id, fun _ => id, id, rfl⟩, .of_same rfl rfl, Nat.le_refl _⟩

theorem mild_dropHold (s : State) (t : Tag) : Mild s (s.dropHold t) := (mild_free s t).trans (mild_window _ _)

theorem exec_window_mild {i : Instr} (s : State)
    (h : (∃ o e d, i = .stationWindowStore o e d) ∨ (∃ o e, i = .stationWindowLoad o e) ∨ i = .windowHoldExpiry) :
    Runs (exec i s) (Mild s) := by
  have answered (a : Answer) : Runs (.next (s.answer a)) (Mild s) := runs_next (mild_answer s a)
  rcases h with ⟨o, e, d, rfl⟩ | ⟨o, e, rfl⟩ | rfl
  · show Runs (execStationWindowStore o e d s) _
    unfold execStationWindowStore
    split
    · split
      · exact answered _
      · split
        · refine runs_next (Mild.trans ?_ (mild_recount _))
          unfold State.postWrite
          split
          · exact mild_answer s _
          · rename_i create
            exact ((mild_create create).trans (mild_writeUnits _ _ _)).trans (mild_answer _ _)
        · exact answered _
    · exact answered _
  · show Runs (execStationWindowLoad o e s) _
    unfold execStationWindowLoad
    split
    · split
      · exact answered _
      · dsimp only
        split
        · refine runs_next (Mild.trans ?_ (mild_recount _))
          unfold State.claim
          split
          · exact (mild_dropHold s _).trans (mild_answer _ _)
          · exact mild_answer s _
        · split
          · refine runs_next (Mild.trans ?_ (mild_recount _))
            unfold State.startRead
            split
            · exact mild_answer s _
            · exact mild_answer s _
            · split
              · exact mild_answer s _
              · rename_i create
                exact ((mild_create create).trans (mild_window _ _)).trans (mild_answer _ _)
          · exact answered _
    · exact answered _
  · show Runs (execWindowHoldExpiry s) _
    unfold execWindowHoldExpiry
    split
    · refine runs_next (Mild.trans ?_ (mild_recount _))
      exact (mild_dropHold s _).trans (.of_outer (by simp) (directs_enterWindowFault _ _))
    · exact runs_next (.refl s)

end Sys2Proof.Machine
end

section
/-! PROOF. The ranges, the directory's lists and the event queue under the events of the line, the timers, the creations and
the master port; and the two statements about every step. -/

namespace Sys2Proof.Machine

/-! ## The line and its timers -/

theorem mild_setXchg (s : State) (t : Tag) (x : Option Exchange) : Mild s (s.setXchg t x) :=
  .of_outer rfl (directs_setXchg s t x)

theorem mild_takeAttempt (s : State) (t : Tag) (x : Exchange) : Mild s (s.takeAttempt t x) := by
  refine (mild_setXchg s t (some (s.startAttempt x))).trans ?_
  exact .of_line rfl rfl rfl rfl rfl rfl (Nat.le_refl _)

theorem mild_enterIdle (s : State) : Mild s s.enterIdle := by
  have idle : Mild s { s with line.state := .idle, line.timer := none, line.readyPending := false } :=
    .of_line rfl rfl rfl rfl rfl rfl (Nat.le_refl _)
  unfold State.enterIdle
  dsimp only
  split
  · exact idle.trans (.of_outer (by simp) (directs_raise _ (k := causeLinkReady) rfl))
  · exact idle

theorem mild_enterGuard (s : State) : Mild s s.enterGuard := .of_line rfl rfl rfl rfl rfl rfl (Nat.le_refl _)

theorem mild_enterBreak (s : State) (k : BreakKind) (c : BreakCause) : Mild s (s.enterBreak k c) :=
  .of_line rfl rfl rfl rfl rfl rfl (Nat.zero_le _)

theorem slotCensus_outer (s : State) (n : Stn) : (s.slotCensus n).outer = s.outer := by
  unfold State.slotCensus
  split
  · split <;> simp
  · simp
  all_goals rfl

theorem directs_slotCensus (s : State) (n : Stn) : Directs s (s.slotCensus n) := by
  unfold State.slotCensus
  split
  · split
    · exact directs_joinCensus s n
    · exact .refl s
  · exact directs_joinCensus s n
  all_goals exact .refl s

theorem mild_takeSlot (s : State) (no : Stn × SlotOutcome) : Mild s (s.takeSlot no) := by
  have census : Mild s (if no.2.hasReady || no.2.hasEvent then s.slotCensus no.1 else s) := by
    split
    · exact .of_outer (slotCensus_outer s no.1) (directs_slotCensus s no.1)
    · exact .refl s
  have ready (u : State) : Mild u (if no.2.hasReady then u.readySign no.1 none else u) := by
    split
    · exact .of_outer (by simp) (directs_readySign _ _ _)
    · exact .refl _
  have event (u : State) : Mild u (if no.2.hasEvent then u.eventSign no.1 else u) := by
    split
    · exact .of_outer (by simp) (directs_eventSign _ _)
    · exact .refl _
  unfold State.takeSlot
  exact (census.trans (ready _)).trans (event _)

theorem exec_line_mild {i : Instr} (s : State)
    (h : i = .jobOffer ∨ i = .requestFrameSent ∨ i = .sweepFrameSent ∨ i = .replyStart ∨ i = .earlyFramingFault ∨
      i = .contentionWaitEnd ∨ (∃ l, i = .slotsEnd l) ∨ i = .breakEnd ∨ i = .guardEnd ∨ i = .wakeEnd) :
    Runs (exec i s) (Mild s) := by
  have same : Runs (.next s) (Mild s) := runs_next (.refl s)
  rcases h with rfl | rfl | rfl | rfl | rfl | rfl | ⟨l, rfl⟩ | rfl | rfl | rfl
  · show Runs (execJobOffer s) _
    unfold execJobOffer
    split
    · split
      · exact same
      · exact runs_next (.of_line rfl rfl rfl rfl rfl rfl (Nat.le_refl _))
      · rename_i t _ _
        split
        · rename_i x _
          refine runs_next (((mild_takeAttempt s t x).trans (mild_recount _)).trans ?_)
          exact .of_line rfl rfl rfl rfl rfl rfl (Nat.le_refl _)
        · exact same
    · exact same
  · show Runs (execRequestFrameSent s) _
    unfold execRequestFrameSent
    split
    · rename_i t _ _ _ _
      split
      · refine runs_next (((mild_mapX s fun t' x =>
          if t' = t ∧ x.kind.nonIdem ∧ x.phase = .issue then { x with unanswered := true } else x).trans
          (mild_recount _)).trans ?_)
        exact .of_line rfl rfl rfl rfl rfl rfl (Nat.le_refl _)
      · exact same
    · exact same
  · show Runs (execSweepFrameSent s) _
    unfold execSweepFrameSent
    split
    · exact runs_next (.of_line rfl rfl rfl rfl rfl rfl (Nat.le_refl _))
    · exact same
  · show Runs (execReplyStart s) _
    unfold execReplyStart
    split
    · exact runs_next (.of_line rfl rfl rfl rfl rfl rfl (Nat.le_refl _))
    · exact same
  · show Runs (execEarlyFramingFault s) _
    unfold execEarlyFramingFault
    split
    · exact runs_next (.of_line rfl rfl rfl rfl rfl rfl (Nat.le_refl _))
    · exact same
  · show Runs (execContentionWaitEnd s) _
    unfold execContentionWaitEnd
    split
    · exact runs_next (mild_enterBreak s _ _)
    · exact same
  · show Runs (execSlotsEnd l s) _
    unfold execSlotsEnd
    split
    · exact runs_next (((Mild.foldl mild_takeSlot _ _).trans (mild_recount _)).trans (mild_enterGuard _))
    · exact same
  · show Runs (execBreakEnd s) _
    unfold execBreakEnd
    split
    · exact runs_next (mild_enterGuard s)
    · exact same
  · show Runs (execGuardEnd s) _
    unfold execGuardEnd
    split
    · exact runs_next (mild_enterIdle s)
    · exact same
  · show Runs (execWakeEnd s) _
    unfold execWakeEnd
    split
    · exact runs_next (mild_enterIdle s)
    · exact same

theorem exec_timer_mild {i : Instr} (s : State)
    (h : (∃ t, i = .backoffExpiry t) ∨ (∃ t, i = .deadlineExpiry t) ∨ (∃ n, i = .holdTimerExpiry n) ∨
      i = .rediscoveryTimerExpiry ∨ i = .sweepIntervalExpiry) : Runs (exec i s) (Mild s) := by
  have same : Runs (.next s) (Mild s) := runs_next (.refl s)
  have sets (t : Tag) (x : Option Exchange) : Runs (.next (s.setXchg t x).recount) (Mild s) :=
    runs_next ((mild_setXchg s t x).trans (mild_recount _))
  rcases h with ⟨t, rfl⟩ | ⟨t, rfl⟩ | ⟨n, rfl⟩ | rfl | rfl
  · show Runs (execBackoffExpiry t s) _
    unfold execBackoffExpiry
    split
    · exact same
    · exact sets _ _
  · show Runs (execDeadlineExpiry t s) _
    unfold execDeadlineExpiry
    split
    · exact same
    · exact sets _ _
  · show Runs (execHoldTimerExpiry n s) _
    unfold execHoldTimerExpiry
    split
    · exact same
    · split
      · exact runs_next (.of_outer (by simp) ((directs_modEntry id id).trans (directs_joinCensus _ n)))
      · exact same
  · show Runs (execRediscoveryTimerExpiry s) _
    unfold execRediscoveryTimerExpiry
    split
    · exact same
    · exact runs_next ((mild_joinCensusAll s _).trans (mild_rediscovery _ _))
  · show Runs (execSweepIntervalExpiry s) _
    unfold execSweepIntervalExpiry
    split
    · exact same
    · exact runs_next (.of_line rfl rfl rfl rfl rfl rfl (Nat.le_refl _))

/-! ## Creations and grants -/

theorem directs_takeIn (s : State) (c : Chan) (d : Desc) (r : QRec) : Directs s (s.takeIn c d r) := directs_modChan s c _

theorem mild_grant (s : State) (c : Chan) (d : Desc) : Mild s (s.grant c d) := by
  refine .of_outer (by simp) ?_
  unfold State.grant
  split
  · exact .refl s
  · split
    · exact (directs_takeIn s c d _).trans (directs_stopOnFailure _ c)
    · unfold State.createFor
      split
      · rename_i create
        exact (mild_create create).directs.trans (directs_takeIn _ c d _)
      · exact directs_modChan s c _

theorem mild_fetchOne (s : State) : Mild s s.fetchOne := by
  rcases fetchOne_cases s with e | ⟨n, t, s1, _, create, e⟩
  · rw [e]; exact .refl s
  · rw [e]
    exact (mild_create create).trans (.of_line rfl rfl rfl rfl rfl rfl (Nat.le_refl _))

/-- A list of the directory is filtered. -/
theorem mild_filterLists (s : State) (p : Stn → Bool) (q : Stn × RecAction → Bool) :
    Mild s { s with dir.census := s.dir.census.filter p, dir.recovery := s.dir.recovery.filter q } :=
  .of_outer rfl ⟨fun h => h, fun _ h => h,
    fun l => ⟨l.census.filter _, fun n hn => l.disabled n (List.mem_of_mem_filter hn),
      l.recovery.sublist (List.filter_sublist.map _)⟩, id⟩

theorem mild_filterCensus (s : State) (p : Stn → Bool) : Mild s { s with dir.census := s.dir.census.filter p } :=
  .of_outer rfl ⟨fun h => h, fun _ h => h,
    fun l => ⟨l.census.filter _, fun n hn => l.disabled n (List.mem_of_mem_filter hn), l.recovery⟩, id⟩

theorem mild_filterRecovery (s : State) (q : Stn × RecAction → Bool) :
    Mild s { s with dir.recovery := s.dir.recovery.filter q } :=
  .of_outer rfl ⟨fun h => h, fun _ h => h,
    fun l => ⟨l.census, l.disabled, l.recovery.sublist (List.filter_sublist.map _)⟩, id⟩

theorem mild_waitList (s : State) (l : List (Chan × Nat)) : Mild s { s with table.waitList := l } :=
  .of_line rfl rfl rfl rfl rfl rfl (Nat.le_refl _)

theorem exec_creation_mild {i : Instr} (s : State)
    (h : i = .censusCreation ∨ i = .recoveryCreation ∨ i = .fetchEventCreation ∨ i = .payloadGrant) :
    Runs (exec i s) (Mild s) := by
  have same : Runs (.next s) (Mild s) := runs_next (.refl s)
  rcases h with rfl | rfl | rfl | rfl
  · show Runs (execCensusCreation s) _
    unfold execCensusCreation
    split
    · exact same
    · split
      · exact same
      · split
        · exact same
        · rename_i s1 create
          exact runs_next (((mild_create create).trans (mild_recount s1)).trans (mild_filterCensus s1.recount _))
  · show Runs (execRecoveryCreation s) _
    unfold execRecoveryCreation
    split
    · exact same
    · split
      · exact same
      · split
        · exact same
        · rename_i s1 create
          exact runs_next (((mild_create create).trans (mild_recount s1)).trans (mild_filterRecovery s1.recount _))
  · exact runs_next (((mild_fetchOne s).trans (mild_fetchOne _)).trans (mild_recount _))
  · show Runs (execPayloadGrant s) _
    unfold execPayloadGrant
    split
    · exact same
    · split
      · dsimp only
        split
        · exact runs_next (((mild_waitList s _).trans (mild_grant _ _ _)).trans (mild_endStep _ s))
        · exact runs_next (mild_waitList s _)
      · exact same

/-! ## The master port and the channels -/

theorem mild_startOp (s : State) (c : Chan) (op : PortOp) : Mild s (s.startOp c op) := by
  have start : Mild s { (s.modChan c fun ch => { ch with portOp := some op }) with portLast := c } :=
    (mild_modChan s c _).trans (.of_line rfl rfl rfl rfl rfl rfl (Nat.le_refl _))
  have drains (u : State) (t : Tag) (tb : Table) : Mild u
      (match State.xchg { u with table := tb } t with
        | some x => State.setXchg { u with table := tb } t (some { x with state := .draining })
        | none => { u with table := tb }) := by
    have drop : Mild u { u with table := tb } := .of_line rfl rfl rfl rfl rfl rfl (Nat.le_refl _)
    split
    · exact drop.trans (mild_setXchg _ _ _)
    · exact drop
  cases op with
  | drain t => exact start.trans (drains _ t _)
  | fetch d => exact start
  | fill t => exact start
  | statusWrite => exact start

theorem mild_endOp (s : State) (c : Chan) : Mild s (s.endOp c) := mild_modChan s c _

theorem mild_takeIn (s : State) (c : Chan) (d : Desc) (r : QRec) : Mild s (s.takeIn c d r) := mild_modChan s c _

theorem mild_stopOnFailure (s : State) (c : Chan) : Mild s (s.stopOnFailure c) :=
  .of_outer (by simp) (directs_stopOnFailure s c)

theorem mild_askUnits (s : State) (c : Chan) (d : Desc) : Mild s (s.askUnits c d) := by
  unfold State.askUnits
  dsimp only
  split
  · exact mild_grant s c d
  · exact (mild_modChan s c _).trans (mild_waitList _ _)

theorem mild_intake (s : State) (c : Chan) (d : Desc) : Mild s (s.intake c d) := by
  unfold State.intake
  split
  · exact (mild_takeIn s c d _).trans (mild_stopOnFailure _ c)
  · split
    · exact mild_takeIn s c d _
    · exact mild_askUnits s c d
    · exact mild_askUnits s c d
    · exact mild_askUnits s c d
    · exact mild_askUnits s c d
    · exact .refl s

theorem directs_retire (s : State) (c : Chan) : Directs s (s.retire c) := by
  unfold State.retire
  dsimp only
  split
  · exact (directs_setChan s c _).trans (directs_raise _ (causeNote_edge c))
  · exact directs_setChan s c _

theorem mild_retire (s : State) (c : Chan) : Mild s (s.retire c) := .of_outer (by simp) (directs_retire s c)

theorem mild_fillDone (s : State) (c : Chan) (t : Tag) (x : Exchange) : Mild s (s.fillDone c t x) := by
  unfold State.fillDone
  split
  · exact mild_setXchg s t _
  · exact .of_outer (by simp) ((directs_complete s _).trans (directs_stopOnFailure _ c))

theorem mild_bus (s : State) (b : Bus) : Mild s { s with bus := b } :=
  .of_line rfl rfl rfl rfl rfl rfl (Nat.le_refl _)

theorem mild_settleCancel (s : State) (c : Chan) : Mild s (s.settleCancel c) :=
  .of_outer (by simp) (directs_settleCancel s c)

theorem mild_memFaultStops (s : State) (c : Chan) : Mild s (s.memFaultStops c) :=
  .of_outer (by simp) (directs_memFaultStops s c)

theorem exec_memoryFault_mild (s : State) (c : Chan) (a : Word) : Runs (exec (.memoryFault c a) s) (Mild s) := by
  have same : Runs (.next s) (Mild s) := runs_next (.refl s)
  have noted (f : Channel → Channel) : Mild s ((s.endOp c).modChan c f) := (mild_endOp s c).trans (mild_modChan _ c f)
  show Runs (execMemoryFault c a s) _
  unfold execMemoryFault
  dsimp only
  split
  · exact same
  · exact runs_next (mild_endOp s c)
  · exact runs_next (((noted _).trans (mild_memFaultStops _ c)).trans (mild_endStep _ s))
  · split
    · exact same
    · exact runs_next (((((noted _).trans (mild_free _ _)).trans (mild_memFaultStops _ c)).trans
        (mild_settleCancel _ c)).trans (mild_endStep _ s))
  · split
    · exact same
    · exact runs_next ((((((noted _).trans (mild_free _ _)).trans (mild_bus _ _)).trans (mild_memFaultStops _ c)).trans
        (mild_settleCancel _ c)).trans (mild_endStep _ s))
  · split
    · exact same
    · exact runs_next ((((noted _).trans (mild_bus _ _)).trans (mild_memFaultStops _ c)).trans (mild_endStep _ s))

theorem exec_port_mild {i : Instr} (s : State)
    (h : i = .portOperationStart ∨ (∃ c w0 w1 w2 w3 w4, i = .descriptorFetchEnd c w0 w1 w2 w3 w4) ∨
      (∃ c b, i = .fillEnd c b) ∨ (∃ c, i = .drainEnd c) ∨ (∃ c, i = .intakeStatusWriteEnd c) ∨
      (∃ c a, i = .memoryFault c a) ∨ (∃ c, i = .nopFenceFinish c) ∨ (∃ c, i = .channelHalt c) ∨ ∃ c, i = .abortEnd c) :
    Runs (exec i s) (Mild s) := by
  have same : Runs (.next s) (Mild s) := runs_next (.refl s)
  rcases h with rfl | ⟨c, w0, w1, w2, w3, w4, rfl⟩ | ⟨c, b, rfl⟩ | ⟨c, rfl⟩ | ⟨c, rfl⟩ | ⟨c, a, rfl⟩ | ⟨c, rfl⟩ |
    ⟨c, rfl⟩ | ⟨c, rfl⟩
  · show Runs (execPortOperationStart s) _
    unfold execPortOperationStart
    split
    · exact runs_next ((mild_startOp s _ _).trans (mild_recount _))
    · exact same
  · show Runs (execDescriptorFetchEnd c w0 w1 w2 w3 w4 s) _
    unfold execDescriptorFetchEnd
    split
    · split
      · exact runs_next (mild_endOp s c)
      · exact runs_next (((mild_endOp s c).trans (mild_intake _ c _)).trans (mild_endStep _ s))
    all_goals exact same
  · show Runs (execFillEnd c b s) _
    unfold execFillEnd
    split
    · split
      · rename_i x _
        split
        · have filled : Mild s { s.endOp c with store := writeUnits x.units 0 b s.store } := by
            have store : (s.endOp c).store = s.store := by simp [State.endOp]
            rw [← store]
            exact (mild_endOp s c).trans (mild_writeUnits (s.endOp c) x.units b)
          exact runs_next ((filled.trans (mild_fillDone _ c _ x)).trans (mild_endStep _ s))
        · exact same
      · exact same
    all_goals exact same
  · show Runs (execDrainEnd c s) _
    unfold execDrainEnd
    split
    · split
      · split
        · refine runs_next (((((Mild.trans ?_ (mild_modChan _ c _)).trans (mild_free _ _)).trans
            (mild_settleCancel _ c)).trans (mild_retire _ c)).trans (mild_recount _))
          exact (mild_endOp s c).trans (mild_bus _ _)
        · exact same
      · exact same
    all_goals exact same
  · show Runs (execIntakeStatusWriteEnd c s) _
    unfold execIntakeStatusWriteEnd
    split
    · split
      · refine runs_next ((Mild.trans ?_ (mild_modChan _ c _)).trans (mild_retire _ c))
        exact (mild_endOp s c).trans (mild_bus _ _)
      · exact same
    all_goals exact same
  · exact exec_memoryFault_mild s c a
  · show Runs (execNopFenceFinish c s) _
    unfold execNopFenceFinish
    split
    · exact same
    · exact runs_next (mild_modChan s c _)
  · exact runs_next (.of_outer (by simp) (directs_haltIfDone s c))
  · exact runs_next (.of_outer (by simp) (directs_endAbortIfDone s c))

end Sys2Proof.Machine
end

section
/-! PROOF. How the channels react to completions: what a completion, a cancellation and a stopping leave of every record, of
every entry, and of the blocks they do not touch. -/

namespace Sys2Proof.Machine

open Relation (ReflTransGen)

/-! ## Records -/

/-- What stopping a channel does to a record: it cancels an exchange of the ISSUE phase that waits for the line, or puts a
fill end mark (R20). -/
inductive Stop : Exchange → Exchange → Prop
  | cancel {x : Exchange} (phase : x.phase = .issue) (state : x.state = .waiting ∨ x.state = .backoff) :
      Stop x (x.finish (Completion.plain .cancelled))
  | mark (x : Exchange) (m : FillMark) : Stop x (x.markFill m)

/-- What the reactions to an outcome do to a record: stopping, completion, or waking from PARKED. -/
inductive Mend : Exchange → Exchange → Prop
  | stop {x y : Exchange} (h : Stop x y) : Mend x y
  | finish {x : Exchange} (live : x.live = true) (c : Completion) : Mend x (x.finish c)
  | wake {x : Exchange} (parked : x.state = .parked) : Mend x { x with state := .waiting }

theorem Stop.live {x y : Exchange} (h : Stop x y) (e : x.live = false) : y = x := by
  cases h with
  | cancel _ state => rcases state with s | s <;> simp [Exchange.live, s] at e
  | mark m =>
    unfold Exchange.markFill
    split
    · rename_i h; simp [Exchange.live, h.1] at e
    · rfl

/-- A finished record is left alone (R7). -/
theorem Mend.live {x y : Exchange} (h : Mend x y) (e : x.live = false) : y = x := by
  cases h with
  | stop h => exact h.live e
  | finish live => rw [live] at e; cases e
  | wake parked => simp [Exchange.live, parked] at e

theorem Mend.live_star {x y : Exchange} (h : ReflTransGen Mend x y) (e : x.live = false) : y = x := by
  induction h with
  | refl => rfl
  | tail _ step ih => subst ih; exact step.live e

/-- Stopping a channel leaves an exchange ON_LINE alone. -/
theorem Stop.onLine {x y : Exchange} (h : Stop x y) (e : x.state = .onLine) : y = x := by
  cases h with
  | cancel _ state => rw [e] at state; rcases state with s | s <;> cases s
  | mark m =>
    unfold Exchange.markFill
    split
    · rename_i h; rw [e] at h; cases h.1
    · rfl

theorem Stop.onLine_star {x y : Exchange} (h : ReflTransGen Stop x y) (e : x.state = .onLine) : y = x := by
  induction h with
  | refl => rfl
  | tail _ step ih => subst ih; exact step.onLine e

theorem sameRequest_markFill (x : Exchange) (m : FillMark) : SameRequest x (x.markFill m) := by
  unfold Exchange.markFill
  split <;> exact ⟨rfl, rfl, rfl, rfl, rfl, rfl, rfl, rfl⟩

theorem Mend.sameRequest {x y : Exchange} (h : Mend x y) : SameRequest x y := by
  cases h with
  | stop h => cases h with
    | cancel => exact ⟨rfl, rfl, rfl, rfl, rfl, rfl, rfl, rfl⟩
    | mark m => exact sameRequest_markFill x m
  | finish => exact ⟨rfl, rfl, rfl, rfl, rfl, rfl, rfl, rfl⟩
  | wake => exact ⟨rfl, rfl, rfl, rfl, rfl, rfl, rfl, rfl⟩

theorem Mend.sameRequest_star {x y : Exchange} (h : ReflTransGen Mend x y) : SameRequest x y := by
  induction h with
  | refl => exact .refl x
  | tail _ step ih => exact ih.trans step.sameRequest

theorem Stop.mends {x y : Exchange} (h : ReflTransGen Stop x y) : ReflTransGen Mend x y :=
  ReflTransGen.mono (fun _ _ => Mend.stop) _ _ h

/-! ## Entries -/

/-- The marks of an entry that a reaction may set; the rest of the entry stays. -/
def Marked (e e' : Entry) : Prop :=
  ∃ u p, (e.seqUncertain = true → u = true) ∧ (e.purgeNeeded = true → p = true) ∧
    e' = { e with seqUncertain := u, purgeNeeded := p }

theorem Marked.refl (e : Entry) : Marked e e := ⟨_, _, id, id, rfl⟩

theorem Marked.trans {e f g : Entry} (h : Marked e f) (k : Marked f g) : Marked e g := by
  obtain ⟨u, p, hu, hp, rfl⟩ := h
  obtain ⟨u', p', hu', hp', rfl⟩ := k
  exact ⟨u', p', fun h => hu' (hu h), fun h => hp' (hp h), rfl⟩

/-! ## The state -/

/-- What a reaction leaves: the outer blocks, the window, the change summary and the lists of the table stay; entries may be
marked; records change by `R`; the census and recovery lists may grow at the tail; of the causes only the halts of the two
channels may become pending. -/
structure Reacts (R : Exchange → Exchange → Prop) (s t : State) : Prop where
  outer : t.outer = s.outer
  window : t.window = s.window
  changes : t.dir.changes = s.dir.changes
  entry : ∀ n, Marked (s.entry n) (t.entry n)
  xchg : ∀ tag, Option.Rel (ReflTransGen R) (s.xchg tag) (t.xchg tag)
  creation : ∀ o, t.table.creation o = s.table.creation o
  compl : ∀ c, t.table.compl c = s.table.compl c
  census : ∃ more, t.dir.census = s.dir.census ++ more
  recovery : ∃ more, t.dir.recovery = s.dir.recovery ++ more ∧ ∀ r ∈ more, r.2 = .purge
  edge : ∀ i, i ≠ 1 → i ≠ 3 → t.irq.edge.getLsbD i = s.irq.edge.getLsbD i

theorem optionRel_refl {R : Exchange → Exchange → Prop} (o : Option Exchange) : Option.Rel (ReflTransGen R) o o := by
  cases o with
  | none => exact .none
  | some x => exact .some .refl

theorem optionRel_trans {R : Exchange → Exchange → Prop} {a b c : Option Exchange} (h : Option.Rel (ReflTransGen R) a b)
    (k : Option.Rel (ReflTransGen R) b c) : Option.Rel (ReflTransGen R) a c := by
  cases h with
  | none => exact k
  | some h => cases k with
    | some k => exact .some (h.trans k)

variable {R : Exchange → Exchange → Prop}

theorem Reacts.refl (s : State) : Reacts R s s :=
  ⟨rfl, rfl, rfl, fun _ => .refl _, fun _ => optionRel_refl _, fun _ => rfl, fun _ => rfl, ⟨[], by simp⟩,
    ⟨[], by simp⟩, fun _ _ _ => rfl⟩

theorem Reacts.trans {s t u : State} (h : Reacts R s t) (k : Reacts R t u) : Reacts R s u where
  outer := k.outer.trans h.outer
  window := k.window.trans h.window
  changes := k.changes.trans h.changes
  entry n := (h.entry n).trans (k.entry n)
  xchg tag := optionRel_trans (h.xchg tag) (k.xchg tag)
  creation o := (k.creation o).trans (h.creation o)
  compl c := (k.compl c).trans (h.compl c)
  census := by
    obtain ⟨a, ha⟩ := h.census
    obtain ⟨b, hb⟩ := k.census
    exact ⟨a ++ b, by rw [hb, ha, List.append_assoc]⟩
  recovery := by
    obtain ⟨a, ha, pa⟩ := h.recovery
    obtain ⟨b, hb, pb⟩ := k.recovery
    exact ⟨a ++ b, by rw [hb, ha, List.append_assoc], fun r hr => (List.mem_append.mp hr).elim (pa r) (pb r)⟩
  edge i h1 h3 := (k.edge i h1 h3).trans (h.edge i h1 h3)

theorem Reacts.foldl {α : Type} {f : State → α → State} (h : ∀ s a, Reacts R s (f s a)) (l : List α) (s : State) :
    Reacts R s (l.foldl f s) := by
  induction l generalizing s with
  | nil => exact .refl s
  | cons a l ih => exact (h s a).trans (ih _)

theorem Reacts.mono {Q : Exchange → Exchange → Prop} {s t : State} (h : Reacts R s t) (k : ∀ x y, R x y → Q x y) :
    Reacts Q s t :=
  { h with
    xchg := fun tag => by
      have step := h.xchg tag
      generalize s.xchg tag = a at step ⊢
      generalize t.xchg tag = b at step ⊢
      cases step with
      | none => exact .none
      | some e => exact .some (ReflTransGen.mono k _ _ e) }

/-- A reaction within the channels and the payload wait list. -/
theorem Reacts.of_chan {s t : State} (outer : t.outer = s.outer) (window : t.window = s.window) (dir : t.dir = s.dir)
    (table : SameTable s t) (compl : ∀ c, t.table.compl c = s.table.compl c)
    (edge : ∀ i, i ≠ 1 → i ≠ 3 → t.irq.edge.getLsbD i = s.irq.edge.getLsbD i) : Reacts R s t where
  outer := outer
  window := window
  changes := by rw [dir]
  entry n := by rw [entry_of_dir dir]; exact .refl _
  xchg tag := by rw [show t.xchg tag = s.xchg tag by simp [State.xchg, table.1]]; exact optionRel_refl _
  creation := table.2
  compl := compl
  census := ⟨[], by simp [dir]⟩
  recovery := ⟨[], by simp [dir]⟩
  edge := edge

theorem reacts_setChan (s : State) (c : Chan) (ch : Channel) : Reacts R s (s.setChan c ch) :=
  .of_chan (by simp) (by simp) (by simp) (.of_table (by simp)) (by simp) (by simp)

theorem reacts_modChan (s : State) (c : Chan) (f : Channel → Channel) : Reacts R s (s.modChan c f) := reacts_setChan s c _

theorem reacts_withdraw (s : State) (c : Chan) : Reacts R s (s.withdraw c) :=
  .of_chan rfl rfl rfl (sameTable_withdraw s c) (fun d => by cases d <;> rfl) fun _ _ _ => rfl

theorem reacts_leaveRunning (s : State) (c : Chan) : Reacts R s (s.leaveRunning c) :=
  (reacts_withdraw s c).trans (reacts_modChan _ c _)

theorem causeHalt_getLsbD (c : Chan) {i : Nat} (h1 : i ≠ 1) (h3 : i ≠ 3) : (causeHalt c).getLsbD i = false := by
  by_cases big : 32 ≤ i
  · exact BitVec.getLsbD_of_ge _ _ big
  · have small (c : Chan) : ∀ i : Fin 32, i.val ≠ 1 → i.val ≠ 3 → (causeHalt c).getLsbD i.val = false := by
      cases c <;> decide
    exact small c ⟨i, Nat.lt_of_not_le big⟩ h1 h3

theorem reacts_halt (s : State) (c : Chan) : Reacts R s (s.raise (causeHalt c)) :=
  .of_chan rfl rfl rfl (.of_table rfl) (fun _ => rfl) fun i h1 h3 => by
    show (s.irq.edge ||| causeHalt c).getLsbD i = _
    rw [BitVec.getLsbD_or, causeHalt_getLsbD c h1 h3, Bool.or_false]

theorem reacts_settleCancel (s : State) (c : Chan) : Reacts R s (s.settleCancel c) := by
  unfold State.settleCancel
  split
  · exact .refl s
  · exact reacts_modChan s c _

theorem reacts_haltIfDone (s : State) (c : Chan) : Reacts R s (s.haltIfDone c) := by
  unfold State.haltIfDone
  split
  · exact (reacts_modChan s c _).trans (reacts_halt _ c)
  · exact .refl s

/-! ## Marks of the directory -/

theorem reacts_modEntry (s : State) (n : Stn) {f : Entry → Entry} (h : Marked (s.entry n) (f (s.entry n))) :
    Reacts R s (s.modEntry n f) :=
  ⟨by simp, rfl, rfl, fun m => by
    rw [entry_modEntry]
    split
    · rename_i e; rw [e]; exact h
    · exact .refl _, fun _ => optionRel_refl _, fun _ => rfl, fun _ => rfl, ⟨[], by simp [State.modEntry, State.setEntry]⟩,
    ⟨[], by simp [State.modEntry, State.setEntry]⟩, fun _ _ _ => rfl⟩

theorem reacts_joinCensus (s : State) (n : Stn) : Reacts R s (s.joinCensus n) := by
  rw [joinCensus_eq]
  exact ⟨rfl, rfl, rfl, fun _ => .refl _, fun _ => optionRel_refl _, fun _ => rfl, fun _ => rfl, ⟨_, rfl⟩,
    ⟨[], by simp⟩, fun _ _ _ => rfl⟩

theorem reacts_noteUnknown (s : State) (n : Stn) : Reacts R s (s.noteUnknown n) :=
  (reacts_modEntry s n ⟨true, _, fun _ => rfl, id, rfl⟩).trans (reacts_joinCensus _ n)

theorem reacts_placePurge (s : State) (n : Stn) : Reacts R s (s.placePurge n) := by
  unfold State.placePurge
  split
  · exact .refl s
  · exact ⟨rfl, rfl, rfl, fun _ => .refl _, fun _ => optionRel_refl _, fun _ => rfl, fun _ => rfl, ⟨[], by simp⟩,
      ⟨[(n, .purge)], rfl, by simp⟩, fun _ _ _ => rfl⟩

theorem reacts_setPurge (s : State) (n : Stn) : Reacts R s (s.setPurge n) := by
  have mark : Reacts R s (s.modEntry n fun e => { e with purgeNeeded := true }) :=
    reacts_modEntry s n ⟨_, true, id, fun _ => rfl, rfl⟩
  unfold State.setPurge
  split
  · exact .refl s
  · dsimp only
    split <;> first | exact mark | exact mark.trans (reacts_placePurge _ n)

/-! ## Completions and cancellations -/

theorem reacts_mapX (s : State) {f : Tag → Exchange → Exchange} (h : ∀ tag x, ReflTransGen R x (f tag x)) :
    Reacts R s (s.mapX f) :=
  ⟨rfl, rfl, rfl, fun _ => .refl _, fun tag => by
    rw [xchg_mapX]
    cases s.xchg tag with
    | none => exact .none
    | some x => exact .some (h tag x), fun o => mapX_creation s f o, fun c => mapX_compl s f c, ⟨[], by simp⟩,
    ⟨[], by simp⟩, fun _ _ _ => rfl⟩

theorem completeBatch_creation (s : State) (sel : Sel) (o : Owner) :
    (s.completeBatch sel).table.creation o = s.table.creation o := mapX_creation s (afterSel sel) o

theorem completeBatch_compl (s : State) (sel : Sel) (c : Chan) :
    (s.completeBatch sel).table.compl c = s.table.compl c := mapX_compl s (afterSel sel) c

theorem reacts_completeBatch (s : State) {sel : Sel} (h : ∀ tag x, s.xchg tag = some x → ReflTransGen R x (afterSel sel tag x)) :
    Reacts R s (s.completeBatch sel) :=
  ⟨rfl, rfl, rfl, fun _ => .refl _, fun tag => by
    rw [xchg_completeBatch]
    cases hx : s.xchg tag with
    | none => exact .none
    | some x => exact .some (h tag x hx), completeBatch_creation s sel, completeBatch_compl s sel, ⟨[], by simp [State.completeBatch]⟩,
    ⟨[], by simp [State.completeBatch]⟩, fun _ _ _ => rfl⟩

theorem reacts_complete (s : State) {sel : Sel} (h : ∀ tag x, s.xchg tag = some x → ReflTransGen R x (afterSel sel tag x)) :
    Reacts R s (s.complete sel) :=
  (reacts_completeBatch s h).trans (.foldl reacts_noteUnknown _ _)

theorem stop_cancelSel (c : Chan) (tag : Tag) (x : Exchange) : ReflTransGen Stop x (afterSel (cancelSel c) tag x) := by
  unfold afterSel cancelSel
  split
  · rename_i h
    split at h
    · cases h
    · exact .refl
  · rename_i k h
    split at h
    · rename_i sel
      cases h
      exact .single (.cancel sel.2.1 sel.2.2)
    · cases h

theorem reacts_cancelIssue (s : State) (c : Chan) : Reacts Stop s (s.cancelIssue c) := by
  unfold State.cancelIssue
  dsimp only
  refine ((reacts_complete s fun tag x _ => stop_cancelSel c tag x).trans (.foldl reacts_setPurge _ _)).trans
    (reacts_mapX _ fun tag x => ?_)
  split
  · exact .single (.mark x _)
  · exact .refl

theorem reacts_enterStopping (s : State) (c : Chan) (k : HaltCause) : Reacts Stop s (s.enterStopping c k) :=
  ((((reacts_leaveRunning s c).trans (reacts_modChan _ c _)).trans (reacts_cancelIssue _ c)).trans
    (reacts_settleCancel _ c)).trans (reacts_haltIfDone _ c)

theorem reacts_stopOnFailure (s : State) (c : Chan) : Reacts Stop s (s.stopOnFailure c) := by
  unfold State.stopOnFailure
  split
  · exact reacts_enterStopping s c _
  · exact .refl s

theorem reacts_stopOnFailures (s : State) : Reacts Stop s s.stopOnFailures :=
  (reacts_stopOnFailure s .A).trans (reacts_stopOnFailure _ .B)

theorem reacts_memFaultStops (s : State) (c : Chan) : Reacts Stop s (s.memFaultStops c) := by
  unfold State.memFaultStops
  split
  · exact reacts_enterStopping s c _
  · exact reacts_enterStopping s c _
  · exact reacts_modChan s c _
  all_goals exact .refl s

theorem reacts_resetChannel (s : State) (c : Chan) : Reacts Stop s (s.resetChannel c) := by
  unfold State.resetChannel
  split
  · exact reacts_enterStopping s c _
  · exact .refl s

/-- Completions of unfinished exchanges. -/
theorem mend_afterSel {s : State} {sel : Sel} (h : ∀ tag x, s.xchg tag = some x → (sel tag x).isSome → x.live = true) (tag : Tag)
    (x : Exchange) (hx : s.xchg tag = some x) : ReflTransGen Mend x (afterSel sel tag x) := by
  unfold afterSel
  split
  · exact .refl
  · rename_i c e
    exact .single (.finish (h tag x hx (by simp [e])) c)

end Sys2Proof.Machine
end

section
/-! PROOF. What an outcome leaves of the records: its own exchange where the move puts it, every other one as the reactions
leave it; and what an outcome adds to the event queue. -/

namespace Sys2Proof.Machine

open Relation (ReflTransGen)

/-! ## Records under the directory's part of an outcome -/

/-- Every record changes by reactions alone; none goes FREE. -/
def Mended (s t : State) : Prop := ∀ tag, Option.Rel (ReflTransGen Mend) (s.xchg tag) (t.xchg tag)

theorem Mended.refl (s : State) : Mended s s := fun _ => optionRel_refl _

theorem Mended.trans {s t u : State} (h : Mended s t) (k : Mended t u) : Mended s u :=
  fun tag => optionRel_trans (h tag) (k tag)

theorem Mended.of_table {s t : State} (h : t.table = s.table) : Mended s t :=
  fun tag => by rw [xchg_of_table h]; exact optionRel_refl _

theorem Reacts.mended {s t : State} (h : Reacts Mend s t) : Mended s t := h.xchg

theorem Reacts.stops {s t : State} (h : Reacts Stop s t) : Reacts Mend s t := h.mono fun _ _ => Mend.stop

theorem mended_stopOnFailures (s : State) : Mended s s.stopOnFailures := (reacts_stopOnFailures s).stops.mended

theorem mended_complete (s : State) {sel : Sel} (h : ∀ tag x, s.xchg tag = some x → (sel tag x).isSome → x.live = true) :
    Mended s (s.complete sel) := (reacts_complete s (mend_afterSel h)).mended

theorem mended_mapX (s : State) {f : Tag → Exchange → Exchange} (h : ∀ tag x, ReflTransGen Mend x (f tag x)) :
    Mended s (s.mapX f) := (reacts_mapX s h).mended

theorem mended_markFill (s : State) (p : Exchange → Prop) [DecidablePred p] (m : FillMark) :
    Mended s (s.mapX fun _ x => if p x then x.markFill m else x) :=
  mended_mapX s fun _ x => by
    split
    · exact .single (.stop (.mark x m))
    · exact .refl

theorem mended_declareSilent (s : State) (n : Stn) : Mended s (s.declareSilent n) := by
  unfold State.declareSilent
  dsimp only
  refine ((Mended.trans ?_ (mended_complete _ fun tag x _ => live_of_lostSel tag x)).trans
    (mended_markFill _ (fun x => x.dest = .station n) .stationLost)).trans (mended_stopOnFailures _)
  exact .of_table rfl

theorem mended_restart (s : State) (n : Stn) (own : Tag) : Mended s (s.complete (restartSel n own)).stopOnFailures :=
  (mended_complete s fun tag x _ => live_of_restartSel tag x).trans (mended_stopOnFailures _)

theorem mended_takeRestart (s : State) (n : Stn) (own : Tag) (x : Exchange) (v : Verdict) :
    Mended s (s.takeRestart n own x v) := by
  unfold State.takeRestart
  split
  · exact (mended_restart s n own).trans (.of_table rfl)
  · exact .refl s

theorem takeIdent_table (s : State) (n : Stn) (b : Bool) (ep : BitVec 4) (i : Identity) :
    (s.takeIdent n b ep i).table = s.table := by
  unfold State.takeIdent
  split <;> first | exact comesIn_table _ _ _ _ | exact checkIdent_table _ _ _ _

theorem purgeAccepted_table (s : State) (n : Stn) : (s.purgeAccepted n).table = s.table := by
  unfold State.purgeAccepted
  dsimp only
  split <;> rfl

theorem eventFetched_table (s : State) (n : Stn) (r : Reply) : (s.eventFetched n r).table = s.table := by
  unfold State.eventFetched
  dsimp only
  split <;> rfl

theorem mended_ownerActs (s : State) (n : Stn) (own : Tag) (x : Exchange) (b : Bool) (m : Move) (v : Verdict) :
    Mended s (s.ownerActs n own x b m v) := by
  unfold State.ownerActs
  split
  · exact .refl s
  · split
    · exact .of_table (takeIdent_table _ _ _ _ _)
    · exact .of_table (censusFailed_table _ _ _)
    · exact .of_table (purgeAccepted_table _ _)
    · exact (mended_restart s n own).trans (.of_table rfl)
    · split
      · exact .of_table (eventFetched_table _ _ _)
      · exact .refl s
    · exact .refl s

theorem mended_readySign (s : State) (n : Stn) (own : Option Tag) : Mended s (s.readySign n own) := by
  have wakes : Mended s (s.mapX fun t x =>
      if x.dest = .station n ∧ x.state = .parked ∧ some t ≠ own then { x with state := .waiting } else x) := by
    refine mended_mapX s fun tag x => ?_
    split
    · rename_i h; exact .single (.wake h.2.1)
    · exact .refl
  unfold State.readySign
  split <;> first | exact wakes | exact .of_table rfl

theorem mended_takeAttention (s : State) (n : Stn) (own : Tag) (v : Verdict) : Mended s (s.takeAttention n own v) := by
  unfold State.takeAttention
  split
  · exact .refl s
  · rename_i h _
    have ready : Mended s (if h.attReady then s.readySign n (some own) else s) := by
      split
      · exact mended_readySign s n _
      · exact .refl s
    dsimp only
    split
    · exact ready.trans (.of_table (eventSign_table _ n))
    · exact ready

theorem mended_directoryActs (s : State) (n : Stn) (own : Tag) (x : Exchange) (m : Move) (v : Verdict) :
    Mended s (s.directoryActs n own x m v) := by
  unfold State.directoryActs
  dsimp only
  refine Mended.trans ?_ (.of_table (censusDone_table _ x m))
  refine Mended.trans ?_ (mended_takeAttention _ n own v)
  have acts : Mended s ((((s.takeRestart n own x v).ownerActs n own x (s.showsRestart n v) m v).countOutcome n v).setSeqBit n x
      (s.showsRestart n v) v) :=
    (((mended_takeRestart s n own x v).trans (mended_ownerActs _ _ _ _ _ _ _)).trans
      (.of_table (countOutcome_table _ _ _))).trans (.of_table (setSeqBit_table _ _ _ _ _))
  have purged (u : State) : Mended u (if m.purges then u.setPurge n else u) := by
    split
    · exact .of_table (onlyDir_setPurge u n).table
    · exact .refl u
  have silent (u : State) (b : Bool) : Mended u (if b then u.declareSilent n else u) := by
    split
    · exact mended_declareSilent u n
    · exact .refl u
  exact (acts.trans (purged _)).trans (silent _ _)

/-! ## The exchange of the outcome -/

theorem keepPayload_table (s : State) (x : Exchange) (v : Verdict) : (s.keepPayload x v).table = s.table := by
  unfold State.keepPayload
  split <;> rfl

/-- The outcome up to the end of its step: the move, then the directory's part. -/
def State.movedBy (s : State) (tag : Tag) (x : Exchange) (v : Verdict) : State :=
  match x.dest with
  | .station n =>
    ((s.keepPayload x v).applyMove tag (s.moveOf x v)).directoryActs n tag x (s.moveOf x v).1 v
  | .broadcast => (s.keepPayload x v).applyMove tag (s.moveOf x v)

theorem applyVerdict_eq {s : State} {tag : Tag} {x : Exchange} (v : Verdict) (hx : s.xchg tag = some x)
    (onLine : x.state = .onLine) : s.applyVerdict tag v = (s.movedBy tag x v).endStep s := by
  unfold State.applyVerdict State.movedBy
  rw [hx]
  dsimp only
  rw [if_pos onLine]
  cases x.dest <;> rfl

theorem mended_afterMove (s : State) (tag : Tag) (x : Exchange) (v : Verdict) :
    Mended ((s.keepPayload x v).applyMove tag (s.moveOf x v)) (s.movedBy tag x v) := by
  unfold State.movedBy
  split
  · exact mended_directoryActs _ _ _ _ _ _
  · exact .refl _

theorem Mended.finished {s t : State} (h : Mended s t) {tag : Tag} {x : Exchange} (hx : s.xchg tag = some x)
    (e : x.live = false) : t.xchg tag = some x := by
  have step := h tag
  rw [hx] at step
  generalize ht : t.xchg tag = b at step
  cases step with
  | some step => rw [Mend.live_star step e]

theorem Mended.none {s t : State} (h : Mended s t) {tag : Tag} (hx : s.xchg tag = none) : t.xchg tag = none := by
  have step := h tag
  rw [hx] at step
  generalize ht : t.xchg tag = b at step
  cases step with
  | none => rfl

theorem Mended.some {s t : State} (h : Mended s t) {tag : Tag} {x : Exchange} (hx : s.xchg tag = some x) :
    ∃ y, t.xchg tag = some y ∧ ReflTransGen Mend x y := by
  have step := h tag
  rw [hx] at step
  generalize ht : t.xchg tag = b at step
  cases step with
  | some step => exact ⟨_, rfl, step⟩

/-- Completing one exchange, and the channels' reactions to it. -/
theorem completeOne_xchg {s : State} {tag : Tag} {y : Exchange} (c : Completion) (hy : s.xchg tag = some y) :
    ((s.complete fun t' _ => if t' = tag then Option.some c else Option.none).stopOnFailures).xchg tag =
      some (y.finish c) := by
  refine (mended_stopOnFailures _).finished ?_ rfl
  rw [xchg_complete, hy]
  simp [afterSel]

/-- An outcome that completes its exchange leaves the result in the record, up to the end of the step. -/
theorem movedBy_completes {s : State} {tag : Tag} {x : Exchange} {v : Verdict} {c : Completion} {p : Bool}
    (move : (s.moveOf x v).1 = .complete c p) :
    (s.movedBy tag x v).xchg tag = some ((s.moveOf x v).2.finish c) := by
  refine (mended_afterMove s tag x v).finished ?_ rfl
  generalize hm : s.moveOf x v = m at move ⊢
  obtain ⟨m, y⟩ := m
  cases move
  exact completeOne_xchg c (by simp)

theorem newlyDone_of {s before : State} {tag : Tag} {x y : Exchange} (hx : before.xchg tag = some x)
    (live : x.state ≠ .complete) (hy : s.xchg tag = some y) (done : y.state = .complete) : s.newlyDone before tag = true := by
  simp [State.newlyDone, hx, hy, live, done]

theorem retiresNow_of {s before : State} {tag : Tag} {x y : Exchange} (hx : before.xchg tag = some x)
    (live : x.state ≠ .complete) (hy : s.xchg tag = some y) (done : y.state = .complete) :
    s.retiresNow before tag = y.retiredAtOnce := by
  simp [State.retiresNow, newlyDone_of hx live hy done, hy]

theorem retiredAtOnce_of {x y : Exchange} (h : SameRequest x y) : y.retiredAtOnce = x.retiredAtOnce := by
  simp [Exchange.retiredAtOnce, h.owner, h.kind]

/-- An outcome that completes its exchange: the record has the result, or is FREE where the owner retires it at once. -/
theorem applyVerdict_completes {s : State} {tag : Tag} {x : Exchange} {v : Verdict} {c : Completion} {p : Bool}
    (hx : s.xchg tag = some x) (onLine : x.state = .onLine) (move : (s.moveOf x v).1 = .complete c p) :
    (s.applyVerdict tag v).xchg tag = if x.retiredAtOnce then none else some ((s.moveOf x v).2.finish c) := by
  have record := movedBy_completes (tag := tag) move
  rw [applyVerdict_eq v hx onLine, xchg_endStep, record,
    retiresNow_of hx (by simp [onLine]) record rfl, retiredAtOnce_of (x := x) (y := (s.moveOf x v).2.finish c)]
  exact (goodMove_moveOf s x v onLine).before.trans ⟨rfl, rfl, rfl, rfl, rfl, rfl, rfl, rfl⟩

/-- What an outcome's move leaves of the other records. -/
theorem afterMove_other {s : State} {tag t' : Tag} {x : Exchange} {v : Verdict} (other : t' ≠ tag) :
    Option.Rel (ReflTransGen Stop) (s.xchg t') (((s.keepPayload x v).applyMove tag (s.moveOf x v)).xchg t') := by
  have kept : (s.keepPayload x v).xchg t' = s.xchg t' := xchg_of_table (keepPayload_table s x v) t'
  unfold State.applyMove
  split
  · rw [xchg_setXchg, if_neg other, kept]
    exact optionRel_refl _
  · refine optionRel_trans ?_ ((reacts_stopOnFailures _).xchg t')
    rw [xchg_complete, xchg_setXchg, if_neg other, kept]
    cases s.xchg t' with
    | none => exact .none
    | some y => simpa [afterSel, other] using optionRel_refl (R := Stop) (some y)

/-- What an outcome leaves of the other records, up to the end of its step. -/
theorem movedBy_other {s : State} {tag t' : Tag} {x : Exchange} {v : Verdict} (other : t' ≠ tag) :
    Option.Rel (ReflTransGen Mend) (s.xchg t') ((s.movedBy tag x v).xchg t') := by
  refine optionRel_trans ?_ (mended_afterMove s tag x v t')
  have step := afterMove_other (s := s) (x := x) (v := v) other
  generalize s.xchg t' = a at step ⊢
  generalize ((s.keepPayload x v).applyMove tag (s.moveOf x v)).xchg t' = b at step ⊢
  cases step with
  | none => exact .none
  | some step => exact .some (Stop.mends step)

/-! ## The event queue -/

theorem events_of_outer {s t : State} (h : t.outer = s.outer) : t.events = s.events := congrArg Outer.events h

/-- An EVENT adds one entry. -/
theorem eventFetched_queue (s : State) (n : Stn) (r : Reply) :
    (s.eventFetched n r).events.queue.length ≤ s.events.queue.length + 1 := by
  unfold State.eventFetched
  dsimp only
  split
  · simp
  all_goals exact Nat.le_succ _

/-- The part of the directory that created the exchange leaves the event queue alone, unless a FETCH_EVENT has completed. -/
theorem ownerActs_queue (s : State) (n : Stn) (own : Tag) (x : Exchange) (b : Bool) (m : Move) (v : Verdict) :
    (s.ownerActs n own x b m v).events = s.events ∨
      (x.kind = .fetchEvent ∧ (∃ c p, m = .complete c p) ∧
        (s.ownerActs n own x b m v).events.queue.length ≤ s.events.queue.length + 1) := by
  unfold State.ownerActs
  split
  · exact .inl rfl
  · rename_i c p
    split
    · exact .inl (events_of_outer (by simp))
    · exact .inl (events_of_outer (by simp))
    · exact .inl (events_of_outer (by simp))
    · exact .inl (events_of_outer (by simp))
    · rename_i kind
      split
      · exact .inr ⟨kind, ⟨c, p, rfl⟩, eventFetched_queue _ _ _⟩
      · exact .inl rfl
    · exact .inl rfl

theorem directoryActs_events (s : State) (n : Stn) (own : Tag) (x : Exchange) (m : Move) (v : Verdict) :
    (s.directoryActs n own x m v).events =
      ((s.takeRestart n own x v).ownerActs n own x (s.showsRestart n v) m v).events := by
  refine events_of_outer ?_
  unfold State.directoryActs
  dsimp only
  split <;> split <;> simp

theorem movedBy_events (s : State) (tag : Tag) (x : Exchange) (v : Verdict) :
    (s.movedBy tag x v).events = s.events ∨
      (x.kind = .fetchEvent ∧ (∃ c p, (s.moveOf x v).1 = .complete c p) ∧
        (s.movedBy tag x v).events.queue.length ≤ s.events.queue.length + 1) := by
  have moved : ((s.keepPayload x v).applyMove tag (s.moveOf x v)).events = s.events := by
    rw [events_of_outer (applyMove_outer _ _ _)]
    unfold State.keepPayload
    split <;> rfl
  unfold State.movedBy
  split
  · rename_i n _
    have restart : (((s.keepPayload x v).applyMove tag (s.moveOf x v)).takeRestart n tag x v).events = s.events :=
      (events_of_outer (takeRestart_outer _ n tag x v)).trans moved
    rw [directoryActs_events, ← restart]
    exact ownerActs_queue _ _ _ _ _ _ _
  · exact .inl moved

end Sys2Proof.Machine
end

section
/-! PROOF. Every command answers a next state; every step keeps the ranges, the directory's lists, a place for every event
in flight, and DISABLED stations idle. -/

namespace Sys2Proof.Machine

/-! ## The commands that end an attempt -/

/-- What a command keeps that may fetch an event: the place of an event that joins the queue was its FETCH_EVENT's. -/
structure Told (s t : State) : Prop where
  ranges : Ranges s t
  directs : Directs s t
  room : QuotasHold s → t.events.queue.length + t.countX (fun x => x.kind == .fetchEvent) ≤
    s.events.queue.length + s.countX fun x => x.kind == .fetchEvent

theorem Mild.told {s t : State} (h : Mild s t) (table : t.table = s.table) : Told s t :=
  ⟨h.ranges, h.directs, fun _ => by rw [countX_of_xchg fun tag => xchg_of_table table tag]; exact Nat.add_le_add_right h.queue _⟩

theorem Told.trans {s t u : State} (h : Told s t) (k : Told t u) (quotas : QuotasHold s → QuotasHold t) : Told s u :=
  ⟨h.ranges.trans k.ranges, h.directs.trans k.directs, fun q => (k.room (quotas q)).trans (h.room q)⟩

/-- A count falls by one where one of its records goes FREE and no other record joins. -/
theorem countX_succ_le {s t : State} {p : Exchange → Bool} {tag : Tag} {x : Exchange} (hx : s.xchg tag = some x)
    (px : p x = true) (gone : t.xchg tag = none)
    (others : ∀ tag', (t.xchg tag').any p = true → (s.xchg tag').any p = true) : t.countX p + 1 ≤ s.countX p := by
  have less : t.countX p ≤ allTags.countP fun b => (b != tag) && (s.xchg b).any p := by
    refine List.countP_mono_left fun b _ hb => ?_
    have ne : b ≠ tag := by
      rintro rfl
      rw [gone] at hb
      cases hb
    simp [ne, others b hb]
  have more : s.countX p = (allTags.countP fun b => (b != tag) && (s.xchg b).any p) + 1 :=
    countP_succ allTags_nodup (mem_allTags tag) (by simp [hx, px]) (by simp) fun b hb => by simp [hb]
  omega

theorem told_applyVerdict (s : State) (tag : Tag) (v : Verdict) : Told s (s.applyVerdict tag v) := by
  have outer := applyVerdict_outer s tag v
  have ranges : Ranges s (s.applyVerdict tag v) :=
    { store := fun wf => by
        rcases applyVerdict_store s tag v with e | ⟨us, bs, e⟩
        · rw [e]; exact wf
        · rw [e]; exact writeUnits_wf us 0 bs wf
      regs := by rw [show (s.applyVerdict tag v).regs = s.regs from congrArg Outer.regs outer]; exact id
      faults := by rw [show (s.applyVerdict tag v).line = s.line from congrArg Outer.line outer]; exact fun _ => id
      enable := by rw [show (s.applyVerdict tag v).irq.enable = s.irq.enable from congrArg Outer.enable outer]; exact id
      pending := congrArg Outer.pending outer }
  have retains := (reaches_applyVerdict s tag v).retains
  refine ⟨ranges, directs_applyVerdict s tag v, fun quotas => ?_⟩
  have fewer := retains.countX_le (p := fun x => x.kind == .fetchEvent) fun x y k e => by simpa [k.kind] using e
  by_cases acts : ∃ x, s.xchg tag = some x ∧ x.state = .onLine
  · obtain ⟨x, hx, onLine⟩ := acts
    have events : (s.applyVerdict tag v).events = (s.movedBy tag x v).events := by
      rw [applyVerdict_eq v hx onLine, endStep_events]
    rw [events]
    rcases movedBy_events s tag x v with e | ⟨kind, ⟨c, p, move⟩, queue⟩
    · rw [e]
      exact Nat.add_le_add_left fewer _
    · have owner : x.owner = .internal := (quotas.internal tag x hx).mpr (by simp [kind])
      have gone : (s.applyVerdict tag v).xchg tag = none := by
        rw [applyVerdict_completes hx onLine move]
        simp [Exchange.retiredAtOnce, owner]
      have less := countX_succ_le (p := fun x => x.kind == .fetchEvent) hx (by simp [kind]) gone fun tag' h => by
        obtain ⟨y, hy, py⟩ := (Option.any_eq_true _ _).mp h
        obtain ⟨z, hz, k⟩ := retains.recs tag' y hy
        simpa [hz, ← k.kind] using py
      omega
  · have same : s.applyVerdict tag v = s := by
      unfold State.applyVerdict
      split
      · rfl
      · rename_i x hx
        exact if_neg fun onLine => acts ⟨x, hx, onLine⟩
    rw [same]

theorem mild_recordFault (s : State) (v : Verdict) : Mild s (s.recordFault v) := by
  unfold State.recordFault
  split
  · exact .of_line rfl rfl rfl rfl rfl rfl (Nat.le_refl _)
  · exact .refl s

theorem QuotasHold.of_table {s t : State} (h : QuotasHold s) (table : t.table = s.table) : QuotasHold t :=
  h.of_countX fun tag => xchg_of_table table tag

theorem told_report (s : State) (tag : Tag) (v : Verdict) : Told s (s.report tag v) :=
  ((mild_recordFault s v).told (recordFault_table s v)).trans (told_applyVerdict _ tag v)
    fun q => q.of_table (recordFault_table s v)

/-- Where the line-fault limit is not reached the count stays below it (R77). -/
theorem faultCountAfter_le {s : State} {v : Verdict} (reached : ¬s.lineFaultReached v = true) (regs : s.regs.InRange)
    (count : s.line.faultCount ≤ 7) : faultCountAfter s.line.faultCount v ≤ 7 := by
  have limit := regs.lineFaultLimit.2
  have below (h : v = .lost .crc ∨ v = .lost .framing) : s.line.faultCount + 1 ≤ 7 := by
    rcases h with rfl | rfl <;> simp [State.lineFaultReached] at reached <;> omega
  unfold faultCountAfter
  split <;> first | exact below (by simp) | exact count | exact Nat.zero_le _

theorem told_lineAfterReply (s : State) (v : Verdict) : Told s (s.lineAfterReply v) := by
  have table := lineAfterReply_table s v
  unfold State.lineAfterReply at table ⊢
  split
  · rename_i reached
    rw [if_pos reached] at table
    exact Mild.told ((Mild.of_outer (by simp) (directs_raise s (k := causeLineFault) rfl)).trans (mild_enterBreak _ _ _)) table
  · rename_i reached
    exact ⟨⟨id, id, fun r k => faultCountAfter_le reached r k, id, rfl⟩, .of_same rfl rfl, fun _ => Nat.le_refl _⟩

theorem Told.quotas {s t : State} (h : TableStep s t) (q : QuotasHold s) : QuotasHold t := by
  obtain ⟨u, creations, retains⟩ := h
  exact retains.quotasHold (creations.quotasHold q)

theorem told_reported (s : State) (tag : Tag) (v : Verdict) {t : State} (h : Told (s.report tag v) t) : Told s t :=
  (told_report s tag v).trans h (Told.quotas (reaches_report s tag v).tableStep)

theorem exec_verdict_told {i : Instr} (s : State)
    (h : i = .bcastWriteSent ∨ i = .replyWindowExpiry ∨ (∃ bytes, i = .replyReceived bytes) ∨ i = .lineSettled ∨
      i = .stuckLineTimeout ∨ i = .contention) : Runs (exec i s) (Told s) := by
  have lined {t : State} (e : Mild s t) (table : t.table = s.table) : Runs (.next t) (Told s) := runs_next (e.told table)
  have same : Runs (.next s) (Told s) := lined (.refl s) rfl
  rcases h with rfl | rfl | ⟨bytes, rfl⟩ | rfl | rfl | rfl
  · show Runs (execBcastWriteSent s) _
    unfold execBcastWriteSent
    split
    · rename_i tag _ _ _
      refine runs_next ((told_applyVerdict s tag .sent).trans (Mild.told ?_ rfl)
        (Told.quotas (reaches_applyVerdict s tag .sent).tableStep))
      exact .of_line rfl rfl rfl rfl rfl rfl (Nat.le_refl _)
    · exact same
  · show Runs (execReplyWindowExpiry s) _
    unfold execReplyWindowExpiry
    split
    · exact runs_next (told_reported s _ _ ((mild_enterGuard _).told rfl))
    · exact same
  · show Runs (execReplyReceived bytes s) _
    unfold execReplyReceived
    split
    · split
      · exact same
      · split
        · exact lined (.of_line rfl rfl rfl rfl rfl rfl (Nat.le_refl _)) rfl
        · exact runs_next (told_reported s _ _ (told_lineAfterReply _ _))
    · exact same
  · show Runs (execLineSettled s) _
    unfold execLineSettled
    split
    · exact runs_next (told_reported s _ _ (told_lineAfterReply _ _))
    · exact same
  · show Runs (execStuckLineTimeout s) _
    unfold execStuckLineTimeout
    split
    · dsimp only
      split
      · exact runs_next (told_reported s _ _ (Mild.told ((Mild.of_outer (by simp)
          (directs_raise _ (k := causeLineFault) rfl)).trans (mild_enterBreak _ _ _)) rfl))
      · exact runs_next (told_reported s _ _ ((mild_enterBreak _ _ _).told rfl))
    · exact same
  · show Runs (execContention s) _
    unfold execContention
    split
    · exact lined (.of_line rfl rfl rfl rfl rfl rfl (Nat.le_refl _)) rfl
    · rename_i j _ _ _
      cases j with
      | attempt tag ph q =>
        exact runs_next (told_reported s tag (.lost .contention) (Mild.told (.of_line rfl rfl rfl rfl rfl rfl (Nat.le_refl _)) rfl))
      | sweep =>
        exact lined ((mild_recordFault s (.lost .contention)).trans (.of_line rfl rfl rfl rfl rfl rfl (Nat.le_refl _)))
          (recordFault_table s (.lost .contention))
    · exact same

/-! ## Every command -/

/-- The commands that end the current attempt or a broadcast. -/
def endsJob : Instr → Bool
  | .bcastWriteSent | .replyWindowExpiry | .replyReceived _ | .lineSettled | .stuckLineTimeout | .contention => true
  | _ => false

/-- What every command but RESET_N, STATION_DISABLE and the ends of an attempt keeps. -/
theorem exec_mild {i : Instr} (s : State) (reset : i ≠ .resetN) (disable : ∀ f, i ≠ .stationDisable f)
    (job : endsJob i = false) : Runs (exec i s) (Mild s) := by
  cases i with
  | resetN => exact absurd rfl reset
  | stationDisable f => exact absurd rfl (disable f)
  | linkStart f | linkStop f | linkReset f | sweepNow f => exact exec_link_mild s f (by simp)
  | census f | stationHold f | stationRelease f | stationEnable f | stationReset f => exact exec_station_mild s f (by simp)
  | listStart f | listPause f | listResume f | listContinue f | listAbort f => exact exec_list_mild s f (by simp)
  | eventPop f | eventFlush f | ackChanges f | windowClearFault f | unknownCommand c f | causeAck m | causeEnable m
  | viewSnapshot o | registerAccessError => exact exec_register_mild s (by simp)
  | sweepIntervalWrite v | rediscoverIntervalWrite v | eventThresholdWrite v | linkConfigWrite v | parameterWrite p v =>
    exact exec_write_mild s (by simp)
  | stationWindowStore o e d | stationWindowLoad o e | windowHoldExpiry => exact exec_window_mild s (by simp)
  | jobOffer | requestFrameSent | sweepFrameSent | replyStart | earlyFramingFault | contentionWaitEnd | slotsEnd l
  | breakEnd | guardEnd | wakeEnd => exact exec_line_mild s (by simp)
  | backoffExpiry t | deadlineExpiry t | holdTimerExpiry n | rediscoveryTimerExpiry | sweepIntervalExpiry =>
    exact exec_timer_mild s (by simp)
  | censusCreation | recoveryCreation | fetchEventCreation | payloadGrant => exact exec_creation_mild s (by simp)
  | portOperationStart | descriptorFetchEnd c w0 w1 w2 w3 w4 | fillEnd c b | drainEnd c | intakeStatusWriteEnd c
  | memoryFault c a | nopFenceFinish c | channelHalt c | abortEnd c => exact exec_port_mild s (by simp)
  | bcastWriteSent | replyWindowExpiry | replyReceived b | lineSettled | stuckLineTimeout | contention => cases job

theorem endsJob_cases {i : Instr} (h : endsJob i = true) :
    i = .bcastWriteSent ∨ i = .replyWindowExpiry ∨ (∃ bytes, i = .replyReceived bytes) ∨ i = .lineSettled ∨
      i = .stuckLineTimeout ∨ i = .contention := by
  cases i <;> first | cases h; done | simp

/-- What every command keeps but RESET_N and STATION_DISABLE. -/
theorem exec_directs {i : Instr} (s : State) (reset : i ≠ .resetN) (disable : ∀ f, i ≠ .stationDisable f) :
    Runs (exec i s) fun t => Ranges s t ∧ Directs s t := by
  by_cases job : endsJob i = true
  · exact (exec_verdict_told s (endsJob_cases job)).mono fun _ h => ⟨h.ranges, h.directs⟩
  · exact (exec_mild s reset disable (by simpa using job)).mono fun _ h => ⟨h.ranges, h.directs⟩

/-- A station that is made DISABLED (R42): the lists lose it, and the other entries stay. -/
theorem disabled_entry (s : State) (n m : Stn) :
    (s.disabled n).entry m = if m = n then
      { s.entry n with
        state := .disabled, holdTimer := none, eventPending := false, purgeNeeded := false, keptReady := false,
        failures := 0 } else s.entry m := by
  show ((s.moveTo n .disabled).modEntry n fun e => { e with
    holdTimer := none, eventPending := false, purgeNeeded := false, keptReady := false, failures := 0 }).entry m = _
  by_cases h : m = n <;> simp [h]

theorem disabled_lists {s : State} (h : DirectoryLists s) (n : Stn) : DirectoryLists (s.disabled n) where
  census := h.census.filter _
  disabled m hm := by
    have filtered : m ∈ s.dir.census.filter (· != n) := hm
    have old : m ∈ s.dir.census ∧ m ≠ n := by simpa using List.mem_filter.mp filtered
    rw [disabled_entry, if_neg old.2]
    exact h.disabled m old.1
  recovery := h.recovery.sublist (List.filter_sublist.map _)

/-- STATION_DISABLE is refused, or makes a station DISABLED to which nothing is in flight. -/
theorem exec_stationDisable_cases (f : CmdFields) (s : State) :
    Runs (exec (.stationDisable f) s) fun t => (∃ v, t = s.command v 0x0A f) ∨
      ∃ n, s.inFlightTo n = false ∧ t = (s.disabled n).command .accepted 0x0A f := by
  show Runs (execStationDisable f s) _
  unfold execStationDisable
  split
  · exact runs_next (.inl ⟨_, rfl⟩)
  · rename_i n _
    split
    · exact runs_next (.inl ⟨_, rfl⟩)
    · split
      · exact runs_next (.inl ⟨_, rfl⟩)
      · rename_i idle
        exact runs_next (.inr ⟨n, by simpa using idle, rfl⟩)

/-- The state that RESET_N leaves. -/
def State.cleared (s : State) : State := { State.reset with pending := s.pending, freeCount := s.freeCount }

theorem exec_resetN_cleared (s : State) : exec .resetN s = .next s.cleared := exec_resetN s

theorem cleared_entry (s : State) (n : Stn) : s.cleared.entry n = Entry.reset := entry_of_reset_dir rfl n

theorem cleared_xchg (s : State) (tag : Tag) : s.cleared.xchg tag = none := xchg_of_reset_table rfl tag

theorem cleared_countX (s : State) (p : Exchange → Bool) : s.cleared.countX p = 0 := by
  simp [State.countX, cleared_xchg]

/-- Every command answers a next state, leaves the waiting commands alone, and keeps the ranges. -/
theorem exec_ranges (i : Instr) (s : State) : Runs (exec i s) fun t => t.pending = s.pending ∧
    (Memory.wf s.store = true → Memory.wf t.store = true) ∧ (s.regs.InRange → t.regs.InRange) ∧
    (s.regs.InRange → CountsInRange s → CountsInRange t) := by
  have kept {t : State} (r : Ranges s t) (entries : (∀ n, (s.entry n).InRange) → ∀ n, (t.entry n).InRange)
      (edge : s.irq.edge &&& ~~~edgeCauses = 0#32 → t.irq.edge &&& ~~~edgeCauses = 0#32) :
      t.pending = s.pending ∧ (Memory.wf s.store = true → Memory.wf t.store = true) ∧ (s.regs.InRange → t.regs.InRange) ∧
        (s.regs.InRange → CountsInRange s → CountsInRange t) :=
    ⟨r.pending, r.store, r.regs, fun regs c =>
      have inRange := entries fun n => ⟨c.failures n, c.capacity n⟩
      ⟨r.faults regs c.faultCount, fun n => (inRange n).1, fun n => (inRange n).2, edge c.edge, r.enable c.enable⟩⟩
  by_cases reset : i = .resetN
  · subst reset
    have regs : State.reset.regs.InRange := by constructor <;> decide
    have ranges : Ranges s s.cleared := ⟨fun _ => rfl, fun _ => regs, fun _ _ => Nat.zero_le _,
      fun _ => BitVec.zero_and, rfl⟩
    refine ⟨_, exec_resetN_cleared s, kept ranges (fun _ n => ?_) (fun _ => BitVec.zero_and)⟩
    rw [cleared_entry]
    exact entry_reset_inRange
  · by_cases disable : ∃ f, i = .stationDisable f
    · obtain ⟨f, rfl⟩ := disable
      refine (exec_stationDisable_cases f s).mono fun t ht => ?_
      rcases ht with ⟨v, rfl⟩ | ⟨n, _, rfl⟩
      · have m := mild_command s v 0x0A f
        exact kept m.ranges m.directs.range m.directs.edge
      · have m := mild_command (s.disabled n) .accepted 0x0A f
        have outer : (s.disabled n).outer = s.outer := rfl
        refine kept ((Ranges.of_outer outer).trans m.ranges) (fun h => m.directs.range fun k => ?_) m.directs.edge
        rw [disabled_entry]
        split
        · exact ⟨Nat.zero_le _, (h n).2⟩
        · exact h k
    · rw [not_exists] at disable
      exact (exec_directs s reset disable).mono fun t h => kept h.1 h.2.range h.2.edge

/-- Settles O2: each command's meaning ends in a next state, and none writes the queue of waiting commands. -/
theorem emptyQueueIdlesAndNothingStops : Obligations.EmptyQueueIdlesAndNothingStops := by
  refine ⟨fun s h => by simp [step, h], fun c s => ?_⟩
  obtain ⟨t, run, pending, _⟩ := exec_ranges c s
  exact ⟨t, run, pending⟩

/-- Settles O54: command by command, from `exec_ranges`. -/
theorem everyStepKeepsTheRanges : Obligations.EveryStepKeepsTheRanges := by
  intro s t run
  rcases step_cases run with rfl | ⟨i, rest, _, run⟩
  · exact ⟨id, id, fun _ => id⟩
  · obtain ⟨store, regs, counts⟩ := ((exec_ranges i { s with pending := rest }).ends t run).2
    exact ⟨store, regs, fun r c => counts r ⟨c.1, c.2, c.3, c.4, c.5⟩⟩

/-! ## The directory's lists and the event queue -/

theorem directoryLists_reset {t : State} (h : t.dir = State.reset.dir) : DirectoryLists t where
  census := by rw [h]; exact List.nodup_nil
  disabled n hn := by rw [h] at hn; cases hn
  recovery := by rw [h]; exact List.nodup_nil

/-- A record after creations is an old one, or is of a station that is not DISABLED. -/
theorem Creations.dest {s u : State} (h : Creations s u) {tag : Tag} {x : Exchange} (hx : u.xchg tag = some x) :
    s.xchg tag = some x ∨ ∀ n, x.dest = .station n → (s.entry n).state ≠ .disabled := by
  induction h with
  | same xchg _ => exact .inl (by rwa [xchg] at hx)
  | more _ create _ dest _ ih =>
    obtain ⟨w, creates, xchg, _⟩ := create
    rw [xchg, creates.xchg] at hx
    split at hx
    · cases hx; exact .inr dest
    · exact ih hx

/-- Creations leave a place for every event in flight. -/
theorem Creations.eventRoom {s u : State} (h : Creations s u) (room : EventRoom s) :
    s.events.queue.length + u.countX (fun x => x.kind == .fetchEvent) ≤ 16 := by
  induction h with
  | same xchg _ => rw [countX_of_xchg xchg]; exact room
  | @more u v r tag us _ create _ _ fits ih =>
    obtain ⟨w, creates, xchg, _⟩ := create
    rw [countX_of_xchg xchg, creates.countX]
    by_cases kind : r.kind = .fetchEvent
    · have := fits kind
      split <;> omega
    · simpa [Request.exchange, kind] using ih

theorem TableStep.disabledIsIdle {s t : State} (h : TableStep s t) (d : ∀ n, (t.entry n).state = .disabled → (s.entry n).state = .disabled)
    (idle : DisabledIsIdle s) : DisabledIsIdle t := by
  obtain ⟨u, creations, retains⟩ := h
  intro n tag y st hy dest
  obtain ⟨x, hx, keeps⟩ := retains.recs tag y hy
  have dest' : x.dest = .station n := keeps.dest.symm.trans dest
  rcases creations.dest hx with old | open'
  · exact (keeps.finished (idle n tag x (d n st) old dest')).1
  · exact absurd (d n st) (open' n dest')

theorem TableStep.eventRoom {s t : State} (h : TableStep s t) (queue : t.events.queue.length ≤ s.events.queue.length)
    (room : EventRoom s) : EventRoom t := by
  obtain ⟨u, creations, retains⟩ := h
  have fewer := retains.countX_le (p := fun x => x.kind == .fetchEvent) fun x y k e => by simpa [k.kind] using e
  have := creations.eventRoom room
  unfold EventRoom
  omega

/-- Settles O60: RESET_N leaves empty lists and an empty table, STATION_DISABLE takes its station from the lists, and every
other command keeps all three. -/
theorem everyStepKeepsTheDirectoryLists : Obligations.EveryStepKeepsTheDirectoryLists := by
  intro s t run
  rcases step_cases run with rfl | ⟨i, rest, _, run⟩
  · exact ⟨id, fun _ => id, id⟩
  · let s' : State := { s with pending := rest }
    suffices (DirectoryLists s' → DirectoryLists t) ∧ (QuotasHold s' → EventRoom s' → EventRoom t) ∧
        (DisabledIsIdle s' → DisabledIsIdle t) from
      ⟨fun l => this.1 ⟨l.1, l.2, l.3⟩, fun q => this.2.1 ⟨q.1, q.2, q.3, q.4, q.5, q.6⟩, this.2.2⟩
    by_cases reset : i = .resetN
    · subst reset
      have run' : exec .resetN s' = .next t := run
      rw [exec_resetN_cleared] at run'
      injection run' with run'
      subst run'
      refine ⟨fun _ => directoryLists_reset rfl, fun _ _ => ?_, fun _ n tag x _ hx => ?_⟩
      · unfold EventRoom
        rw [cleared_countX]
        exact Nat.zero_le _
      · rw [cleared_xchg] at hx
        cases hx
    · have table := exec_table s' reset t run
      by_cases disable : ∃ f, i = .stationDisable f
      · obtain ⟨f, rfl⟩ := disable
        rcases (exec_stationDisable_cases f s').ends t run with ⟨v, rfl⟩ | ⟨n, idle, rfl⟩
        · have m := mild_command s' v 0x0A f
          exact ⟨m.directs.lists, fun _ => table.eventRoom m.queue, table.disabledIsIdle m.directs.disabled⟩
        · refine ⟨fun l => ?_, fun _ => table.eventRoom (Nat.le_refl _), fun old m tag x st hx dest => ?_⟩
          · exact (mild_command _ _ _ _).directs.lists (disabled_lists l n)
          · rw [entry_command, disabled_entry] at st
            have hx' : s'.xchg tag = some x := hx
            split at st
            · rename_i e
              subst e
              by_contra live
              simp only [Bool.not_eq_false] at live
              have busy := inFlightTo_iff (s := s') (n := m)
              simp only [idle, Bool.false_eq_true, false_iff, not_exists, not_and] at busy
              simp only [Exchange.live, Bool.and_eq_true, bne_iff_ne] at live
              exact busy tag x hx' dest live.1 live.2
            · exact old m tag x st hx' dest
      · rw [not_exists] at disable
        by_cases job : endsJob i = true
        · have told := (exec_verdict_told s' (endsJob_cases job)).ends t run
          exact ⟨told.directs.lists, fun q room => (told.room q).trans room, table.disabledIsIdle told.directs.disabled⟩
        · have m := (exec_mild s' reset disable (by simpa using job)).ends t run
          exact ⟨m.directs.lists, fun _ => table.eventRoom m.queue, table.disabledIsIdle m.directs.disabled⟩

end Sys2Proof.Machine
end

section
/-! PROOF. RESET_N: the other blocks, the words of the registers then, and the invariants. -/

namespace Sys2Proof.Machine

/-! ## The blocks beside the directory -/

/-- After RESET_N no cause is pending (R167, R179). -/
theorem cleared_pendingCauses (s : State) : s.cleared.pendingCauses = 0#32 := by
  have reset : State.reset.pendingCauses = 0#32 := by decide
  exact reset

theorem cleared_readWord (s : State) (offset : Nat) : s.cleared.readWord offset = State.reset.readWord offset := rfl

/-- Settles O4: each block is that of the reset state; the lists and the channels by owner and channel, and the register
words by computing them from the reset values, which the kept commands and counter do not enter. -/
theorem resetNClearsTheOtherBlocks : Obligations.ResetNClearsTheOtherBlocks := by
  refine ⟨fun s => ⟨_, exec_resetN s, fun o => ?creation, fun c => ?compl, rfl, fun a => rfl, rfl, rfl, rfl, rfl, rfl,
      rfl, rfl, rfl, rfl, rfl, rfl, rfl, rfl, rfl, rfl, rfl, fun c => ?chan, rfl, rfl, rfl, rfl, rfl, rfl, rfl,
      cleared_pendingCauses s, rfl, ?pin, rfl, rfl⟩,
    fun s => ⟨_, exec_resetN_cleared s, ?words⟩⟩
  case creation =>
    match o with
    | .window | .list .A | .list .B | .internal => rfl
  case compl => cases c <;> rfl
  case chan => cases c <;> exact ⟨rfl, rfl, rfl, rfl, rfl, rfl, rfl, rfl, rfl, rfl, rfl, rfl⟩
  case pin =>
    show (State.reset.pendingCauses &&& 0#32 != 0#32) = false
    rw [BitVec.and_zero]
    rfl
  case words =>
    simp only [cleared_readWord]
    decide +kernel

/-! ## The invariants at reset -/

theorem xchg_reset (tag : Tag) : State.reset.xchg tag = none := xchg_of_reset_table rfl tag

theorem entry_reset (n : Stn) : State.reset.entry n = Entry.reset := entry_of_reset_dir rfl n

theorem countX_reset (p : Exchange → Bool) : State.reset.countX p = 0 := by
  simp [State.countX, xchg_reset]

/-- Settles O53: with every record FREE, every list empty and the line OFF each invariant says nothing or compares
constants of the reset state. -/
theorem invariantsHoldAtReset : Obligations.InvariantsHoldAtReset := by
  have free (tag : Tag) (x : Exchange) : State.reset.xchg tag ≠ some x := by simp [xchg_reset]
  have creation (o : Owner) : State.reset.table.creation o = [] := by
    match o with
    | .window | .list .A | .list .B | .internal => rfl
  have compl (c : Chan) : State.reset.table.compl c = [] := by cases c <;> rfl
  have port (c : Chan) : (State.reset.chan c).portOp = none := by cases c <;> rfl
  refine ⟨rfl, ?regs, ?ranges, ?line, ?onLine, ?unsettled, ?lists, ?quotas, ?units, ?counts, ?phases, ?ports, ?hold,
    ?directory, ?events, ?disabled, ?deferrals⟩
  case regs => constructor <;> decide
  case ranges =>
    exact ⟨by decide, fun n => by simp [entry_reset, Entry.reset], fun n => by simp [entry_reset, Entry.reset], rfl, rfl⟩
  case line => constructor <;> simp [State.reset, Line.reset]
  case onLine => exact fun tag x h => absurd h (free tag x)
  case unsettled =>
    exact ⟨by simp [State.reset, Line.reset], fun _ _ _ _ _ h => absurd h (free _ _),
      fun _ _ _ _ h => absurd h (free _ _)⟩
  case lists =>
    exact ⟨fun o => by simp [creation], fun o tag => by simp [creation, xchg_reset]⟩
  case quotas =>
    exact ⟨by simp [countX_reset], fun c => by simp [countX_reset], by simp [countX_reset], by simp [countX_reset],
      by simp [countX_reset], fun _ _ h => absurd h (free _ _)⟩
  case units =>
    exact ⟨fun _ _ _ h => absurd h (free _ _), fun _ _ h => absurd h (free _ _), fun _ _ h => absurd h (free _ _),
      fun _ _ _ _ _ h => absurd h (free _ _)⟩
  case counts => exact fun n => by simp [entry_reset, Entry.reset, State.deferredOf, countX_reset]
  case phases => constructor <;> exact fun tag x h => absurd h (free tag x)
  case ports => exact ⟨fun c => by simp [port], fun c => by simp [port], fun c => by simp [compl]⟩
  case hold => exact ⟨trivial, fun tag x h => absurd h (free tag x)⟩
  case directory => exact ⟨List.nodup_nil, fun n h => absurd h List.not_mem_nil, List.nodup_nil⟩
  case events =>
    show 0 + State.reset.countX _ ≤ 16
    simp [countX_reset]
  case disabled => exact fun n tag x _ h => absurd h (free tag x)
  case deferrals =>
    exact ⟨fun n => by simp [entry_reset, Entry.reset], fun n _ => by simp [entry_reset, Entry.reset],
      fun _ _ _ h => absurd h (free _ _)⟩

end Sys2Proof.Machine
end

section
/-! PROOF. One record changed in place, and the commands that change one: the timers of an exchange, the job offer and the
end of a request's frame. The other events of the line. -/

namespace Sys2Proof.Machine

/-! ## One record -/

theorem xs_ext {s t : State} (h : ∀ tag, t.xchg tag = s.xchg tag) : t.table.xs = s.table.xs :=
  Vector.ext fun i hi => h ⟨i, hi⟩

/-- A map that moves one record puts that record. -/
theorem mapX_eq_setXchg {s : State} {f : Tag → Exchange → Exchange} {tag : Tag} {x : Exchange} (hx : s.xchg tag = some x)
    (other : ∀ t' y, t' ≠ tag → f t' y = y) : s.mapX f = s.setXchg tag (some (f tag x)) := by
  have xs : (s.mapX f).table.xs = (s.setXchg tag (some (f tag x))).table.xs := xs_ext fun t' => by
    rw [xchg_mapX, xchg_setXchg]
    by_cases h : t' = tag
    · rw [if_pos h, h, hx]
      rfl
    · rw [if_neg h]
      cases hy : s.xchg t' with
      | none => rfl
      | some y => rw [Option.map_some, other t' y h]
  calc s.mapX f = { s with table := { s.table with xs := (s.mapX f).table.xs } } := rfl
    _ = s.setXchg tag (some (f tag x)) := by rw [xs]; rfl

/-- A record that stays as deferred as it was leaves the counts in agreement. -/
theorem countsAgree_setXchg {s : State} (h : CountsAgree s) {tag : Tag} {x y : Exchange} (hx : s.xchg tag = some x)
    (deferred : y.isDeferred = x.isDeferred) (dest : y.dest = x.dest) : CountsAgree (s.setXchg tag (some y)) := by
  refine countsAgree_of h (fun n => rfl) fun n => countX_congr fun t' => ?_
  rw [xchg_setXchg]
  split
  · rename_i e
    rw [e, hx]
    simp [deferred, dest]
  · rfl

/-- The line, the pointer and the sweep are not counted. -/
theorem CountsAgree.of_same {s t : State} (h : CountsAgree s) (dir : t.dir = s.dir) (table : t.table = s.table) :
    CountsAgree t :=
  countsAgree_of h (fun n => by rw [entry_of_dir dir]) fun n => deferredOf_of_xchg (xchg_of_table table) n

/-! ## The timers of an exchange -/

theorem exec_backoffExpiry {s : State} (counts : CountsAgree s) {tag : Tag} {x : Exchange} (hx : s.xchg tag = some x)
    (deferred : x.backoffEnds.isDeferred = x.isDeferred) (dest : x.backoffEnds.dest = x.dest) :
    exec (.backoffExpiry tag) s = .next (s.setXchg tag (some x.backoffEnds)) := by
  show execBackoffExpiry tag s = _
  simp only [execBackoffExpiry, hx]
  rw [recount_self (countsAgree_setXchg counts hx deferred dest)]

theorem exec_deadlineExpiry {s : State} (counts : CountsAgree s) {tag : Tag} {x : Exchange} (hx : s.xchg tag = some x)
    (deferred : x.deadlineEnds.isDeferred = x.isDeferred) (dest : x.deadlineEnds.dest = x.dest) :
    exec (.deadlineExpiry tag) s = .next (s.setXchg tag (some x.deadlineEnds)) := by
  show execDeadlineExpiry tag s = _
  simp only [execDeadlineExpiry, hx]
  rw [recount_self (countsAgree_setXchg counts hx deferred dest)]

/-- An unfinished exchange of the COLLECT phase stays deferred in the ABANDON phase (R108). -/
theorem toAbandon_isDeferred {x : Exchange} (c : Carried) (live : x.live = true) (collect : x.phase = .collect) :
    (x.toAbandon c).isDeferred = x.isDeferred := by
  rw [Exchange.isDeferred, Exchange.isDeferred, live, collect]
  rfl

/-- A station that is not DISABLED is in the census list afterwards, at its tail if it was not in it (R28). -/
theorem joinCensus_of_open {s : State} {n : Stn} (h : (s.entry n).state ≠ .disabled) :
    s.joinCensus n =
      { s with dir := { s.dir with census := if n ∈ s.dir.census then s.dir.census else s.dir.census ++ [n] } } := by
  rw [joinCensus_eq]
  by_cases mem : n ∈ s.dir.census <;> simp [h, mem]

/-- Settles O45: the record's own case of `backoffEnds` and `deadlineEnds`; a running deadline stands only in the COLLECT
phase, so that no deferral ends and counting again changes nothing. -/
theorem exchangeAndHoldTimers : Obligations.ExchangeAndHoldTimers := by
  constructor
  · intro s tag x counts phases hx becomes gone
    refine ⟨fun st deadline => ?waits, fun st deadline => ?overdue, fun bt running => ?deadline⟩
    case waits =>
      have ends : x.backoffEnds = { x with state := .waiting, backoff := none } := by
        rw [Exchange.backoffEnds, if_pos st, if_neg deadline]
      rw [exec_backoffExpiry counts hx (by rw [ends]; simp only [Exchange.isDeferred, Exchange.live, st]; rfl) (by rw [ends]), ends]
      rfl
    case overdue =>
      have ends : x.backoffEnds = gone := by
        rw [Exchange.backoffEnds, if_pos st, if_pos deadline]
        rfl
      obtain ⟨collect, live⟩ := phases.deadline tag x hx (by simp [deadline])
      rw [exec_backoffExpiry counts hx (by rw [ends]; exact toAbandon_isDeferred deadlineCarried live collect)
        (by rw [ends]), ends]
      rfl
    case deadline =>
      obtain ⟨collect, live⟩ := phases.deadline tag x hx (by simp [running])
      have run (y : Exchange) (ends : x.deadlineEnds = y) (deferred : y.isDeferred = x.isDeferred) (dest : y.dest = x.dest) :
          exec (.deadlineExpiry tag) s = .next (becomes y) := by
        rw [exec_deadlineExpiry counts hx (by rw [ends, deferred]) (by rw [ends, dest]), ends]
        rfl
      refine ⟨fun st => ?gives, fun st => ?expires, fun st => ?keeps⟩
      case gives =>
        refine run gone ?_ (toAbandon_isDeferred deadlineCarried live collect) rfl
        rw [Exchange.deadlineEnds, running]
        rcases st with st | st <;> rw [st] <;> rfl
      case expires =>
        refine run _ ?_ rfl rfl
        rw [Exchange.deadlineEnds, running, st]
      case keeps =>
        refine run _ ?_ rfl rfl
        rw [Exchange.deadlineEnds, running, st]
  · intro s n st timer
    obtain ⟨bt, hold⟩ := Option.ne_none_iff_exists'.mp timer
    show execHoldTimerExpiry n s = _
    rw [execHoldTimerExpiry, hold]
    dsimp only
    rw [if_pos st, joinCensus_of_open (by simp [st])]
    rfl

/-! ## The job offer -/

/-- The record at the start of its attempt keeps kind, phase and destination. -/
theorem startAttempt_isDeferred (s : State) {x : Exchange} (h : x.live = true) :
    (s.startAttempt x).isDeferred = x.isDeferred := by
  rw [Exchange.isDeferred, Exchange.isDeferred, h]
  rfl

/-- Settles O28: the three answers of `choose`; the chosen exchange is eligible, so WAITING, and its attempt ends no
deferral. -/
theorem jobOfferTakesTheChoice : Obligations.JobOfferTakesTheChoice := by
  intro s counts
  refine ⟨fun busy => ?busy, fun idle none => ?none, fun idle sweep => ?sweep, fun tag p idle choice => ?exchange⟩
  case busy =>
    show execJobOffer s = _
    rw [execJobOffer, if_neg busy]
  case none =>
    show execJobOffer s = _
    rw [execJobOffer, if_pos idle, none]
  case sweep =>
    show execJobOffer s = _
    rw [execJobOffer, if_pos idle, sweep]
    rfl
  case exchange =>
    obtain ⟨x, hx, waiting, _⟩ := eligible_iff.mp (choose_eligible choice)
    refine ⟨x, hx, ?_⟩
    have live : x.live = true := by simp [Exchange.live, waiting]
    have agree : CountsAgree (s.takeAttempt tag x) :=
      (countsAgree_setXchg counts hx (startAttempt_isDeferred s live) rfl).of_same rfl rfl
    show execJobOffer s = _
    simp only [execJobOffer, idle, choice, hx, if_true]
    rw [recount_self agree]
    rfl

/-! ## The other events of the line -/

theorem exec_requestFrameSent {s : State} {tag : Tag} {ph : Phase} {q : ReqKind} (st : s.line.state = .sending)
    (job : s.line.job = some (.attempt tag ph q)) (hand : closingMark q = .hand) :
    exec .requestFrameSent s = .next
      { (s.mapX fun t' x =>
          if t' = tag ∧ x.kind.nonIdem ∧ x.phase = .issue then { x with unanswered := true } else x).recount with
        line.state := .await, line.frameWhole := true, line.txFrame := none, line.timer := some s.regs.replyWindow } := by
  show execRequestFrameSent s = _
  simp only [execRequestFrameSent, st, job, hand, if_true]

theorem exec_contention {s : State} {j : Job} (st : s.line.state = .sending) (wait : s.line.contentionWait = false)
    (job : s.line.job = some j) :
    exec .contention s = .next
      { s.contentionOn j with line.contentionWait := true, line.job := none, line.txFrame := none } := by
  show execContention s = _
  simp only [execContention, st, wait, job]

/-- The mark of a record whose request has gone out, as one value (R8). -/
theorem marked_unanswered (tag : Tag) (x : Exchange) :
    (if tag = tag ∧ x.kind.nonIdem = true ∧ x.phase = .issue then { x with unanswered := true } else x) =
      { x with unanswered := x.unanswered || (x.kind.nonIdem && x.phase == .issue) } := by
  by_cases h : x.kind.nonIdem = true ∧ x.phase = .issue
  · simp [h]
  · have stays : (x.kind.nonIdem && x.phase == .issue) = false := by simpa using h
    simp [h, stays]

/-- Settles O32: each event by the line's state; REQUEST_FRAME_SENT marks the job's record alone, and ends no deferral. -/
theorem lineEvents : Obligations.LineEvents := by
  refine ⟨fun s => ⟨fun tag ph q x counts st job noBcast noSweep hx => ?frameSent, fun st job => ?sweepSent,
      fun st => ?replyStart, fun st => ?early⟩,
    fun s => ⟨fun st wait job => ?wakeContention, fun st wait job => ?sweepContention, fun wait => ?waitEnd,
      fun st => ?breakEnd, fun st => ?guardEnd, fun st wait => ?wakeEnd⟩⟩
  case frameSent =>
    have hand : closingMark q = .hand := by cases q <;> first | contradiction | rfl
    rw [exec_requestFrameSent st job hand, mapX_eq_setXchg hx fun t' y h => by simp [h], marked_unanswered,
      recount_self (countsAgree_setXchg counts hx (y := { x with
        unanswered := x.unanswered || (x.kind.nonIdem && x.phase == .issue) }) rfl rfl)]
    rfl
  case sweepSent =>
    show execSweepFrameSent s = _
    simp only [execSweepFrameSent, st, job]
  case replyStart =>
    show execReplyStart s = _
    rw [execReplyStart, if_pos st]
  case early =>
    show execEarlyFramingFault s = _
    rw [execEarlyFramingFault, if_pos st]
  case wakeContention =>
    show execContention s = _
    simp only [execContention, st, wait, job]
  case sweepContention =>
    rw [exec_contention st wait job, State.contentionOn, State.recordFault, State.jobTarget, job]
    rfl
  case waitEnd =>
    show execContentionWaitEnd s = _
    rw [execContentionWaitEnd, if_pos wait]
    rfl
  case breakEnd =>
    show execBreakEnd s = _
    rw [execBreakEnd, if_pos st]
    rfl
  case guardEnd =>
    show execGuardEnd s = _
    rw [execGuardEnd, if_pos st, State.enterIdle]
    cases s.line.readyPending <;> simp [State.raise, causeLinkReady]
  case wakeEnd =>
    show execWakeEnd s = _
    rw [execWakeEnd, if_pos ⟨st, wait⟩, State.enterIdle]
    cases s.line.readyPending <;> simp [State.raise, causeLinkReady]

end Sys2Proof.Machine
end

section
/-! PROOF. Creation where the quota, a record and the units are at hand; the accesses of the station window. -/

namespace Sys2Proof.Machine

/-! ## The first of a range -/

theorem find?_finRange {n : Nat} {p : Fin n → Bool} {k : Fin n} (h : p k = true) (low : ∀ j, j < k → p j = false) :
    (List.finRange n).find? p = some k := by
  rw [List.find?_eq_some_iff_getElem]
  refine ⟨h, k.val, by simp, by simp, fun j hj => ?_⟩
  have := low ⟨j, by omega⟩ hj
  simpa using this

/-- The lowest-numbered FREE record (R2). -/
theorem lowestFree_eq {s : State} {tag : Tag} (free : s.xchg tag = none) (low : ∀ t', t' < tag → s.xchg t' ≠ none) :
    s.lowestFree = some tag :=
  find?_finRange (by rw [free]; rfl) fun t' h => by simpa [Option.isSome_iff_ne_none] using low t' h

/-- The lowest-numbered free unit of a partition (R11). -/
theorem freeUnits_take_one {s : State} {o : Owner} {u : UnitNo} (lo : (partition o).1 ≤ u.val)
    (hi : u.val < (partition o).2) (free : s.unitHeld u = false)
    (low : ∀ u' : UnitNo, (partition o).1 ≤ u'.val → u'.val < u.val → s.unitHeld u' = true) :
    (s.freeUnits o).take 1 = [u] := by
  have first : (s.freeUnits o).head? = some u := by
    rw [State.freeUnits, List.head?_filter]
    refine find?_finRange (by simp [lo, hi, free]) fun u' h => ?_
    by_cases below : (partition o).1 ≤ u'.val
    · simp [low u' below h]
    · simp [below]
  obtain ⟨rest, eq⟩ := List.head?_eq_some_iff.mp first
  rw [eq]
  rfl

/-! ## Creation (R2, R3) -/

/-- The state that the creation of `r` in the record `tag` with the units `us` leaves. -/
def State.created (s : State) (r : Request) (tag : Tag) (us : List UnitNo) : State :=
  { s with table := (s.setXchg tag (some (r.exchange us))).table.setCreation r.owner (s.table.creation r.owner ++ [tag]) }

theorem create_eq {s : State} {r : Request} {tag : Tag} {us : List UnitNo} (quota : s.quotaOk r.owner r.kind = true)
    (free : s.xchg tag = none) (low : ∀ t', t' < tag → s.xchg t' ≠ none)
    (units : (s.freeUnits r.owner).take (unitsNeeded r.kind r.length) = us)
    (enough : us.length = unitsNeeded r.kind r.length) : s.create r = some (tag, s.created r tag us) := by
  unfold State.create
  rw [if_pos quota, lowestFree_eq free low]
  simp only [units, enough, if_true, setXchg_creation]
  rfl

theorem create_eq_none {s : State} {r : Request} (quota : s.quotaOk r.owner r.kind = false) : s.create r = none := by
  unfold State.create
  rw [if_neg (by simp [quota])]

theorem created_xchg (s : State) (r : Request) (tag : Tag) (us : List UnitNo) (t' : Tag) :
    (s.created r tag us).xchg t' = if t' = tag then some (r.exchange us) else s.xchg t' := by
  rw [← xchg_setXchg]
  show (s.created r tag us).table.xs[t'] = _
  rw [State.created, setCreation_xs]
  rfl

/-- A record just created is not deferred. -/
theorem request_isDeferred (r : Request) (us : List UnitNo) : (r.exchange us).isDeferred = false := by
  simp [Exchange.isDeferred, Request.exchange]

theorem countsAgree_created {s : State} (h : CountsAgree s) {r : Request} {tag : Tag} {us : List UnitNo}
    (free : s.xchg tag = none) : CountsAgree (s.created r tag us) := by
  refine countsAgree_of h (fun n => rfl) fun n => countX_congr fun t' => ?_
  rw [created_xchg]
  split
  · rename_i e
    rw [e, free]
    simp [request_isDeferred]
  · rfl

/-! ## The offset of a window access (R154) -/

theorem windowStation_toNat (offset : BitVec 17) : (windowStation offset).toNat = offset.toNat / 4096 := by
  unfold windowStation
  rw [BitVec.extractLsb'_toNat, Nat.shiftRight_eq_div_pow, Nat.mod_eq_of_lt]
  have := offset.isLt
  omega

theorem windowReg_eq (offset : BitVec 17) : windowReg offset = BitVec.ofNat 16 (offset.toNat % 4096) := by
  apply BitVec.eq_of_toNat_eq
  unfold windowReg
  simp

theorem windowWhole_iff {offset : BitVec 17} {enables : BitVec 4} :
    windowWhole offset enables = true ↔ enables = 15#4 ∧ offset.toNat % 4 = 0 := by
  simp [windowWhole]

theorem windowStation_noStation {offset : BitVec 17} (h : offset.toNat / 4096 = 0 ∨ offset.toNat / 4096 = 31) :
    stnOfField (windowStation offset) = none := by
  refine stnOfField_noStation (h.imp (fun e => ?_) fun e => ?_) <;>
    exact BitVec.eq_of_toNat_eq ((windowStation_toNat offset).trans e)

theorem windowStation_station {offset : BitVec 17} {n : Stn} (h : offset.toNat / 4096 = addrOf n) :
    stnOfField (windowStation offset) = some n :=
  stnOfField_addr ((windowStation_toNat offset).trans h)

theorem isOpen_iff (st : StnState) : st.isOpen = false ↔ st = .vacant ∨ st = .silent ∨ st = .disabled := by
  cases st <;> simp [StnState.isOpen]

theorem isOpen_of {st : StnState} (v : st ≠ .vacant) (q : st ≠ .silent) (d : st ≠ .disabled) : st.isOpen = true := by
  cases st <;> first | contradiction | rfl

theorem window_quota (s : State) (k : Kind) :
    s.quotaOk .window k = decide (s.countX (fun x => x.owner == .window) < 8) := rfl

/-! ## Stores -/

theorem exec_stationWindowStore {s : State} {offset : BitVec 17} {n : Stn} (d : Bytes4)
    (whole : offset.toNat % 4 = 0) (station : offset.toNat / 4096 = addrOf n) (isOpen : (s.entry n).state.isOpen = true) :
    exec (.stationWindowStore offset 15#4 d) s = .next (s.postWrite n (windowReg offset) d).recount := by
  show execStationWindowStore offset 15#4 d s = _
  rw [execStationWindowStore, if_pos (windowWhole_iff.mpr ⟨rfl, whole⟩), windowStation_station station]
  dsimp only
  rw [if_pos isOpen]

section Load

variable {s : State} {offset : BitVec 17} {n : Stn} (whole : offset.toNat % 4 = 0)
  (station : offset.toNat / 4096 = addrOf n)

include whole station

/-- A load that the hold matches claims it (R158, R159). -/
theorem exec_load_matching {ready : Bool} {t : Tag} (h : s.window.hold.matching n (windowReg offset) = some (ready, t)) :
    exec (.stationWindowLoad offset 15#4) s = .next (s.claim ready t).recount := by
  show execStationWindowLoad offset 15#4 s = _
  rw [execStationWindowLoad, if_pos (windowWhole_iff.mpr ⟨rfl, whole⟩), windowStation_station station]
  dsimp only
  rw [h]

/-- Any other load of an open station asks for a delayed read (R158). -/
theorem exec_load_other (h : s.window.hold.matching n (windowReg offset) = none) :
    exec (.stationWindowLoad offset 15#4) s =
      if (s.entry n).state.isOpen then .next (s.startRead n (windowReg offset)).recount else .next (s.answer .error) := by
  show execStationWindowLoad offset 15#4 s = _
  rw [execStationWindowLoad, if_pos (windowWhole_iff.mpr ⟨rfl, whole⟩), windowStation_station station]
  dsimp only
  rw [h]

end Load

theorem countsAgree_answer {s : State} (h : CountsAgree s) (a : Answer) : CountsAgree (s.answer a) := h.of_same rfl rfl

theorem startRead_of_held {s : State} (n : Stn) (reg : BitVec 16) (h : s.window.hold ≠ .empty) :
    s.startRead n reg = s.answer .retry := by
  unfold State.startRead
  split <;> first | rfl | contradiction

/-- Settles O25: each row by what decides it, the access, the station, the hold or the quota; nothing is created, so that
counting again changes nothing. -/
theorem windowAccessesRefused : Obligations.WindowAccessesRefused := by
  constructor
  · intro offset enables d s counts station whole
    refine ⟨fun h => ?wrong, fun n hn access => ⟨fun closed => ?closed, fun v q p quota => ?quota⟩⟩
    case wrong =>
      show execStationWindowStore offset enables d s = _
      rw [execStationWindowStore]
      split
      · rename_i access
        rw [windowStation_noStation (h.resolve_left fun no => no (windowWhole_iff.mp access))]
        rfl
      · rfl
    case closed =>
      show execStationWindowStore offset enables d s = _
      rw [execStationWindowStore, if_pos (windowWhole_iff.mpr access), windowStation_station hn]
      dsimp only
      rw [if_neg (by simpa using (isOpen_iff _).mpr closed)]
      rfl
    case quota =>
      obtain ⟨rfl, aligned⟩ := access
      rw [exec_stationWindowStore d aligned hn (isOpen_of v q p), State.postWrite, create_eq_none (by
        show s.quotaOk .window .write = false
        rw [window_quota, quota]; rfl)]
      dsimp only
      rw [recount_self (countsAgree_answer counts _)]
      rfl
  · intro offset enables s counts answered station reg whole
    refine ⟨fun h => ?wrong, fun n hn access => ?row⟩
    case wrong =>
      show execStationWindowLoad offset enables s = _
      rw [execStationWindowLoad]
      split
      · rename_i access
        rw [windowStation_noStation (h.resolve_left fun no => no (windowWhole_iff.mp access))]
        rfl
      · rfl
    case row =>
      intro closed
      obtain ⟨rfl, aligned⟩ := access
      have held {ready : Bool} {tag : Tag} (h : s.window.hold.matching n reg = some (ready, tag)) :=
        exec_load_matching aligned hn (by rw [windowReg_eq]; exact h)
      have other (h : s.window.hold.matching n reg = none) :=
        exec_load_other aligned hn (by rw [windowReg_eq]; exact h)
      have empty (h : s.window.hold = .empty) : s.window.hold.matching n reg = none := by rw [h]; rfl
      have again (a : Answer) : (s.answer a).recount = s.answer a := recount_self (countsAgree_answer counts a)
      have shut : closed ↔ ¬(s.entry n).state.isOpen = true := by simpa using (isOpen_iff _).symm
      refine ⟨fun ⟨tag, hold⟩ => ?inFlight, fun m reg' tag hold ne => ?other, fun hold cl => ?closed,
        fun hold op quota => ?quota⟩
      case inFlight =>
        refine (held (ready := false) (tag := tag) (by simp [hold, Hold.matching])).trans ?_
        rw [State.claim, if_neg Bool.false_ne_true, again]
        rfl
      case other =>
        have differs : ¬(m = n ∧ reg' = reg) := fun ⟨e, e'⟩ => ne (by rw [e, e'])
        have full : s.window.hold ≠ .empty := by rcases hold with hold | hold <;> simp [hold]
        show exec _ s = .next (s.answer _)
        rw [other (by rcases hold with hold | hold <;> simp [hold, Hold.matching, differs]), startRead_of_held n _ full, again]
        by_cases cl : closed
        · rw [if_neg (shut.mp cl), if_pos cl]
        · rw [if_pos (not_not.mp fun h => cl (shut.mpr h)), if_neg cl]
      case closed => exact (other (empty hold)).trans (if_neg (shut.mp cl))
      case quota =>
        have none : s.create (windowRequest .read n (windowReg offset)) = none := create_eq_none (by
          show s.quotaOk .window .read = false
          rw [window_quota, quota]; rfl)
        refine (other (empty hold)).trans ?_
        rw [if_pos (not_not.mp fun h => op (shut.mpr h)), State.startRead, hold]
        dsimp only
        rw [none]
        dsimp only
        rw [again]
        rfl

end Sys2Proof.Machine
end

section
/-! PROOF. The accesses of the station window that create an exchange, the claim of the read hold and its expiry. -/

namespace Sys2Proof.Machine

/-! ## Four bytes in one unit (R11) -/

theorem writeUnits_four (u : UnitNo) (d : Bytes4) (m : List Host.Cell) :
    writeUnits [u] 0 (bytesOf d) m =
      Memory.write (Memory.write (Memory.write (Memory.write m (u.val * 32) d.b0) (u.val * 32 + 1) d.b1)
        (u.val * 32 + 2) d.b2) (u.val * 32 + 3) d.b3 := rfl

theorem read_writeUnits_four {m : List Host.Cell} (hm : Memory.wf m = true) (u : UnitNo) (d : Bytes4) (a : Nat) :
    Memory.read (writeUnits [u] 0 (bytesOf d) m) a =
      if a = u.val * 32 + 3 then d.b3 else if a = u.val * 32 + 2 then d.b2 else if a = u.val * 32 + 1 then d.b1
      else if a = u.val * 32 then d.b0 else Memory.read m a := by
  rw [writeUnits_four, Memory.read_write (Memory.write_wf _ _ (Memory.write_wf _ _ (Memory.write_wf _ _ hm))),
    Memory.read_write (Memory.write_wf _ _ (Memory.write_wf _ _ hm)), Memory.read_write (Memory.write_wf _ _ hm),
    Memory.read_write hm]

/-! ## Creation for the window -/

theorem create_window {s : State} {k : Kind} (hk : k = .write ∨ k = .read) (n : Stn) (reg : BitVec 16) {tag : Tag}
    {u : UnitNo} (quota : s.countX (fun x => x.owner == .window) < 8) (free : s.xchg tag = none)
    (low : ∀ t', t' < tag → s.xchg t' ≠ none) (hi : u.val < 8) (unit : s.unitHeld u = false)
    (lowUnit : ∀ u' : UnitNo, u'.val < u.val → s.unitHeld u' = true) :
    s.create (windowRequest k n reg) = some (tag, s.created (windowRequest k n reg) tag [u]) := by
  have need : unitsNeeded (windowRequest k n reg).kind (windowRequest k n reg).length = 1 := by
    rcases hk with rfl | rfl <;> simp [windowRequest, unitsNeeded]
  refine create_eq ?_ free low ?_ need.symm
  · show s.quotaOk .window k = true
    rw [window_quota]
    exact decide_eq_true quota
  · rw [need]
    exact freeUnits_take_one (Nat.zero_le _) hi unit fun u' _ => lowUnit u'

/-- Settles O26: the request's record and unit are the lowest free ones, so that `create_window` gives the state, and the
store takes the four bytes; the record is not deferred, so that counting again changes nothing. -/
theorem windowAccessesCreate : Obligations.WindowAccessesCreate := by
  constructor
  · intro offset d n tag u s counts wf station aligned v q p quota free low hi unit lowUnit
    have made := create_window (.inl rfl) n (windowReg offset) quota free low hi unit lowUnit
    let t : State := { s.created (windowRequest .write n (windowReg offset)) tag [u] with
      store := writeUnits [u] 0 (bytesOf d) s.store }
    have post : s.postWrite n (windowReg offset) d = t.answer .done := by
      rw [State.postWrite, made]
      dsimp only
      rw [created_xchg, if_pos rfl]
      rfl
    have agree : CountsAgree (t.answer .done) := (countsAgree_created (r := windowRequest .write n (windowReg offset))
      (us := [u]) counts free).of_same rfl rfl
    have run : exec (.stationWindowStore offset 15#4 d) s = .next (t.answer .done) := by
      rw [exec_stationWindowStore d aligned station (isOpen_of v q p), post, recount_self agree]
    have xchg (t' : Tag) : (t.answer .done).xchg t' = if t' = tag then
        some ((windowRequest .write n (windowReg offset)).exchange [u]) else s.xchg t' :=
      created_xchg s (windowRequest .write n (windowReg offset)) tag [u] t'
    have read (a : Nat) := read_writeUnits_four wf u d a
    refine ⟨_, run, ?record, fun t' h => ?others, rfl, ?b0, ?b1, ?b2, ?b3, fun a ha => ?bytes, rfl⟩
    case record =>
      rw [xchg, if_pos rfl, windowReg_eq]
      rfl
    case others => rw [xchg, if_neg h]
    case b0 => exact (read _).trans (by simp)
    case b1 => exact (read _).trans (by simp)
    case b2 => exact (read _).trans (by simp)
    case b3 => exact (read _).trans (by simp)
    case bytes =>
      have apart : a ≠ u.val * 32 ∧ a ≠ u.val * 32 + 1 ∧ a ≠ u.val * 32 + 2 ∧ a ≠ u.val * 32 + 3 := by omega
      exact (read a).trans (by simp [apart])
  · intro offset n tag u s counts station aligned v q p quota hold free low hi unit lowUnit
    have made := create_window (.inr rfl) n (windowReg offset) quota free low hi unit lowUnit
    let t : State := { s.created (windowRequest .read n (windowReg offset)) tag [u] with
      window.hold := .inFlight n (windowReg offset) tag }
    have started : s.startRead n (windowReg offset) = t.answer .retry := by
      rw [State.startRead, hold, made]
    have agree : CountsAgree (t.answer .retry) := (countsAgree_created (r := windowRequest .read n (windowReg offset))
      (us := [u]) counts free).of_same rfl rfl
    have run : exec (.stationWindowLoad offset 15#4) s = .next (t.answer .retry) := by
      rw [exec_load_other aligned station (by rw [hold]; rfl), if_pos (isOpen_of v q p), started, recount_self agree]
    have xchg (t' : Tag) : (t.answer .retry).xchg t' = if t' = tag then
        some ((windowRequest .read n (windowReg offset)).exchange [u]) else s.xchg t' :=
      created_xchg s (windowRequest .read n (windowReg offset)) tag [u] t'
    refine ⟨_, run, ?record', fun t' h => ?others', ?rest⟩
    case record' =>
      rw [xchg, if_pos rfl, windowReg_eq]
      rfl
    case others' => rw [xchg, if_neg h]
    case rest =>
      rw [← windowReg_eq]
      rfl

/-! ## The hold dropped (R159, R160) -/

theorem free_window {s : State} {tag : Tag} {x : Exchange} (hx : s.xchg tag = some x) (owner : x.owner = .window) :
    s.free tag = { s with table := { s.table with
      xs := s.table.xs.set tag none, winList := s.table.winList.filter (· != tag) } } := by
  simp only [State.free, hx, owner]
  rfl

theorem free_dir (s : State) (tag : Tag) : (s.free tag).dir = s.dir := by
  unfold State.free
  split
  · rfl
  · dsimp only
    split <;> rfl

/-- A finished exchange leaves no deferral behind when it goes FREE. -/
theorem countsAgree_free {s : State} (h : CountsAgree s) {tag : Tag} {x : Exchange} (hx : s.xchg tag = some x)
    (done : x.live = false) : CountsAgree (s.free tag) := by
  refine countsAgree_of h (fun n => ?_) fun n => countX_congr fun t' => ?_
  · rw [entry_of_dir (free_dir s tag)]
  · rw [xchg_free]
    split
    · rename_i e
      rw [e, hx]
      simp [Exchange.isDeferred, done]
    · rfl

/-- Settles O27: the claim and the expiry drop the hold; the READ that goes FREE is COMPLETE, so that counting again changes
nothing. -/
theorem windowClaimAndExpiry : Obligations.WindowClaimAndExpiry := by
  intro n reg tag x r s counts hold hx owner st result freed
  have agree : CountsAgree (s.dropHold tag) :=
    (countsAgree_free counts hx (by simp [Exchange.live, st])).of_same rfl rfl
  have dropped : s.dropHold tag = { s with
      table := { s.table with xs := s.table.xs.set tag none, winList := s.table.winList.filter (· != tag) }
      window := { s.window with hold := .empty, timer := none } } := by
    rw [State.dropHold, free_window hx owner]
  have xchg (t' : Tag) : (s.dropHold tag).xchg t' = if t' = tag then none else s.xchg t' := xchg_free s tag t'
  constructor
  · intro offset station aligned hreg
    have run : exec (.stationWindowLoad offset 15#4) s = .next ((s.dropHold tag).answer (s.claimAnswer tag)) := by
      have held : s.window.hold.matching n (windowReg offset) = some (true, tag) := by
        simp [hold, Hold.matching, windowReg_eq, hreg]
      rw [exec_load_matching aligned station held, State.claim, if_pos rfl, recount_self (countsAgree_answer agree _)]
    have answer : s.claimAnswer tag =
        if r.status.isFailure then .error else .doneBytes (bytes4 (readUnits x.units r.replyLength s.store)) := by
      simp only [State.claimAnswer, hx, result]
    refine ⟨_, run, ⟨?_, fun t' h => ?_, ?_⟩, ?_, ?_, ?_, fun ok => ?_, fun noOk noShort => ?_⟩
    · exact (xchg tag).trans (if_pos rfl)
    · exact (xchg t').trans (if_neg h)
    all_goals rw [dropped]
    · exact ⟨rfl, rfl, rfl, rfl, rfl, rfl, rfl, rfl, rfl, rfl⟩
    · rfl
    · rfl
    · rfl
    · rw [answer, if_neg (by rcases ok with e | e <;> simp [e, Status.isFailure])]
      rfl
    · have fails : r.status.isFailure = true := by
        cases e : r.status <;> first | contradiction | rfl
      rw [answer, if_pos fails]
      rfl
  · intro timer
    obtain ⟨bt, running⟩ := Option.ne_none_iff_exists'.mp timer
    let entry : WinFault := { station := n, reg := reg, dir := .read, status := .discarded, detail := none, uncertain := false }
    have fault : (s.dropHold tag).window.fault = s.window.fault := by rw [dropped]
    have run : exec .windowHoldExpiry s = .next ((s.dropHold tag).enterWindowFault entry) := by
      have agree' : CountsAgree ((s.dropHold tag).enterWindowFault entry) := by
        unfold State.enterWindowFault
        split <;> exact agree.of_same rfl rfl
      show execWindowHoldExpiry s = _
      simp only [execWindowHoldExpiry, hold, running]
      rw [recount_self agree']
    cases free : s.window.fault with
    | none =>
      rw [State.enterWindowFault, fault, free] at run
      dsimp only at run
      refine ⟨_, run, ⟨?_, fun t' h => ?_, ?_⟩, ?_, fun _ => ⟨rfl, ?_, ?_⟩, fun e => absurd rfl e⟩
      · exact (xchg tag).trans (if_pos rfl)
      · exact (xchg t').trans (if_neg h)
      all_goals rw [dropped]
      · exact ⟨rfl, rfl, rfl, rfl, rfl, rfl, rfl, rfl, rfl, rfl⟩
      all_goals rfl
    | some e =>
      rw [State.enterWindowFault, fault, free] at run
      dsimp only at run
      refine ⟨_, run, ⟨?_, fun t' h => ?_, ?_⟩, ?_, fun k => absurd k (Option.some_ne_none e), fun _ => ⟨?_, rfl, ?_⟩⟩
      · exact (xchg tag).trans (if_pos rfl)
      · exact (xchg t').trans (if_neg h)
      all_goals rw [dropped]
      · exact ⟨rfl, rfl, rfl, rfl, rfl, rfl, rfl, rfl, rfl, rfl⟩
      · exact free

end Sys2Proof.Machine
end

section
/-! PROOF. The Line Scheduler: what each eligibility condition says of the records, and the order of the choice. -/

namespace Sys2Proof.Machine

/-! ## Creation order (R4) -/

theorem mem_takeWhile_iff {l : List Tag} (nodup : l.Nodup) {t : Tag} (mem : t ∈ l) (t' : Tag) :
    t' ∈ l.takeWhile (· != t) ↔ ∃ a b c, l = a ++ t' :: b ++ t :: c := by
  constructor
  · intro h
    obtain ⟨a, b, before⟩ := List.append_of_mem h
    obtain ⟨c, rest⟩ : ∃ c, l.dropWhile (· != t) = t :: c := by
      cases e : l.dropWhile (· != t) with
      | nil =>
        have := List.dropWhile_eq_nil_iff.mp e t mem
        simp at this
      | cons u c =>
        have stop := List.head_dropWhile_not (p := (· != t)) (l := l) (by simp [e])
        simp only [e, List.head_cons, bne_eq_false_iff_eq] at stop
        exact ⟨c, by rw [stop]⟩
    refine ⟨a, b, c, ?_⟩
    rw [← before, ← rest, List.takeWhile_append_dropWhile]
  · rintro ⟨a, b, c, rfl⟩
    have apart : t ∉ a ++ t' :: b := by
      have := (List.nodup_append.mp nodup).2.2
      exact fun h => this t h t List.mem_cons_self rfl
    have pass : (a ++ t' :: b ++ t :: c).takeWhile (· != t) = a ++ t' :: b := by
      rw [List.takeWhile_append_of_pos fun u hu => by
        simpa using fun e : u = t => apart (e ▸ hu)]
      simp
    rw [pass]
    simp

/-- A condition on the earlier exchanges of the owner, by creation order. -/
theorem earlierAll_iff {s : State} (lists : ListsAgree s) {t : Tag} {x : Exchange} (hx : s.xchg t = some x)
    {p : Exchange → Bool} :
    s.earlierAll x.owner t p = true ↔ ∀ t' y, s.earlier x.owner t' t → s.xchg t' = some y → p y = true := by
  have mem : t ∈ s.table.creation x.owner := (lists.mem x.owner t).mpr ⟨x, hx, rfl⟩
  simp only [State.earlierAll, List.all_eq_true, mem_takeWhile_iff (lists.nodup x.owner) mem, Option.all_eq_true]
  exact ⟨fun h t' y e hy => h t' e y hy, fun h t' e y hy => h t' y e hy⟩

/-! ## The conditions (R85 to R92) -/

theorem admits_iff {s : State} {x : Exchange} :
    s.admits x = true ↔ ∀ n, x.dest = .station n →
      (s.entry n).state ≠ .held ∧ (s.entry n).state ≠ .disabled ∧
      ((s.entry n).state = .vacant ∨ (s.entry n).state = .silent → x.kind = .census) ∧
      ((s.entry n).state = .recovering → x.kind = .census ∧ (s.entry n).holdTimer = none) ∧
      ((s.entry n).state = .resync → x.kind = .purge ∨ x.kind = .stationReset) := by
  unfold State.admits
  cases x.dest with
  | broadcast => simp
  | station n =>
    simp only [Dest.station.injEq, forall_eq']
    cases (s.entry n).state <;> simp

theorem streamOk_iff {s : State} (lists : ListsAgree s) {t : Tag} {x : Exchange} (hx : s.xchg t = some x) :
    s.streamOk t x = true ↔ (x.owner ≠ .internal → x.phase = .issue → ∀ t' y, s.earlier x.owner t' t →
      s.xchg t' = some y → y.dest = x.dest ∨ y.dest = .broadcast → y.phase ≠ .issue ∨ y.live = false) := by
  simp only [State.streamOk, Bool.or_eq_true, beq_iff_eq, bne_iff_ne, earlierAll_iff lists hx, Exchange.inIssue,
    Bool.not_eq_true', Bool.and_eq_false_iff, Bool.or_eq_false_iff, beq_eq_false_iff_ne]
  constructor
  · rintro ((h | h) | h) owner issue t' y e hy dest
    · exact absurd h owner
    · exact absurd issue h
    · rcases h t' y e hy with k | k
      · exact k
      · exact absurd dest (not_or.mpr k)
  · intro h
    by_cases owner : x.owner = .internal
    · exact .inl (.inl owner)
    by_cases issue : x.phase = .issue
    · refine .inr fun t' y e hy => ?_
      by_cases dest : y.dest = x.dest ∨ y.dest = .broadcast
      · exact .inl (h owner issue t' y e hy dest)
      · exact .inr (not_or.mp dest)
    · exact .inl (.inr issue)

theorem otherX_not {s : State} {t : Tag} {p : Exchange → Bool} :
    (!s.otherX t p) = true ↔ ∀ t' y, t' ≠ t → s.xchg t' = some y → p y = false := by
  rw [Bool.not_eq_true', otherX_eq_false_iff]

theorem nonIdemActiveAt_eq_false {y : Exchange} {n : Stn} (dest : y.dest = .station n) (kind : y.kind.nonIdem = true) :
    y.nonIdemActiveAt n = false ↔ ¬(y.phase = .issue ∧ (y.state = .onLine ∨ y.state = .backoff)) := by
  simp [Exchange.nonIdemActiveAt, dest, kind, Exchange.issueActive]

theorem unansweredAt_eq_false {y : Exchange} {n : Stn} (dest : y.dest = .station n) (kind : y.kind.nonIdem = true) :
    y.unansweredAt n = false ↔ y.unanswered = false := by
  simp [Exchange.unansweredAt, dest, kind]

/-- An exchange that is not a non-idempotent one to the station has no part in the conditions on those. -/
theorem notAt_of {y : Exchange} {n : Stn} (h : ¬(y.dest = .station n ∧ y.kind.nonIdem = true)) :
    y.nonIdemActiveAt n = false ∧ y.unansweredAt n = false := by
  simp only [Exchange.nonIdemActiveAt, Exchange.unansweredAt, Bool.and_eq_false_iff, beq_eq_false_iff_ne]
  by_cases kind : y.kind.nonIdem = true
  · exact ⟨.inl (.inr fun d => h ⟨d, kind⟩), .inr fun d => h ⟨d, kind⟩⟩
  · rw [Bool.not_eq_true] at kind
    exact ⟨.inl (.inl kind), .inl (.inl kind)⟩

theorem nonIdemOk_iff {s : State} {t : Tag} {x : Exchange} :
    s.nonIdemOk t x = true ↔ ∀ n, x.dest = .station n → x.kind.nonIdem = true → x.phase = .issue →
      (s.entry n).seqUncertain = false ∧
      ∀ t' y, t' ≠ t → s.xchg t' = some y → y.dest = .station n → y.kind.nonIdem = true →
        ¬(y.phase = .issue ∧ (y.state = .onLine ∨ y.state = .backoff)) ∧ y.unanswered = false := by
  cases dest : x.dest with
  | broadcast => simp [State.nonIdemOk, dest]
  | station n =>
    simp only [State.nonIdemOk, dest, Dest.station.injEq, forall_eq', Bool.or_eq_true, Bool.and_eq_true, otherX_eq_false_iff,
      Bool.not_eq_true', Bool.and_eq_false_iff, beq_eq_false_iff_ne]
    constructor
    · rintro (h | ⟨⟨active, marked⟩, certain⟩) kind issue
      · rcases h with h | h
        · rw [kind] at h; cases h
        · exact absurd issue h
      · exact ⟨certain, fun t' y ne hy d k => ⟨(nonIdemActiveAt_eq_false d k).mp (active t' y ne hy),
          (unansweredAt_eq_false d k).mp (marked t' y ne hy)⟩⟩
    · intro h
      by_cases kind : x.kind.nonIdem = true
      · by_cases issue : x.phase = .issue
        · obtain ⟨certain, others⟩ := h kind issue
          have at' (t' : Tag) (y : Exchange) (ne : t' ≠ t) (hy : s.xchg t' = some y) :
              y.nonIdemActiveAt n = false ∧ y.unansweredAt n = false := by
            by_cases k : y.dest = .station n ∧ y.kind.nonIdem = true
            · obtain ⟨active, marked⟩ := others t' y ne hy k.1 k.2
              exact ⟨(nonIdemActiveAt_eq_false k.1 k.2).mpr active, (unansweredAt_eq_false k.1 k.2).mpr marked⟩
            · exact notAt_of k
          exact .inr ⟨⟨fun t' y ne hy => (at' t' y ne hy).1, fun t' y ne hy => (at' t' y ne hy).2⟩, certain⟩
        · exact .inl (.inr issue)
      · exact .inl (.inl (by simpa using kind))

theorem censusOk_iff {s : State} {t : Tag} {x : Exchange} :
    s.censusOk t x = true ↔ ∀ n, x.dest = .station n → x.kind = .census → (s.entry n).state ≠ .recovering →
      ∀ t' y, t' ≠ t → s.xchg t' = some y → y.dest = .station n → y.kind.nonIdem = true →
        ¬(y.phase = .issue ∧ (y.state = .onLine ∨ y.state = .backoff)) ∧ ¬(y.unanswered = true ∧ y.live = true) := by
  cases dest : x.dest with
  | broadcast => simp [State.censusOk, dest]
  | station n =>
    simp only [State.censusOk, dest, Dest.station.injEq, forall_eq', Bool.or_eq_true, Bool.and_eq_true, otherX_not,
      bne_iff_ne, beq_iff_eq, Bool.and_eq_false_iff]
    constructor
    · rintro ((h | h) | ⟨active, marked⟩) kind state t' y ne hy d k
      · exact absurd kind h
      · exact absurd h state
      · refine ⟨(nonIdemActiveAt_eq_false d k).mp (active t' y ne hy), fun ⟨u, l⟩ => ?_⟩
        rcases marked t' y ne hy with m | m
        · rw [(unansweredAt_eq_false d k).mp m] at u; cases u
        · rw [m] at l; cases l
    · intro h
      by_cases kind : x.kind = .census
      · by_cases state : (s.entry n).state = .recovering
        · exact .inl (.inr state)
        · have at' (t' : Tag) (y : Exchange) (ne : t' ≠ t) (hy : s.xchg t' = some y) :
              y.nonIdemActiveAt n = false ∧ (y.unansweredAt n = false ∨ y.live = false) := by
            by_cases k : y.dest = .station n ∧ y.kind.nonIdem = true
            · obtain ⟨active, marked⟩ := h kind state t' y ne hy k.1 k.2
              refine ⟨(nonIdemActiveAt_eq_false k.1 k.2).mpr active, ?_⟩
              by_cases u : y.unanswered = true
              · exact .inr (by simpa using fun l => marked ⟨u, l⟩)
              · exact .inl ((unansweredAt_eq_false k.1 k.2).mpr (by simpa using u))
            · exact ⟨(notAt_of k).1, .inl (notAt_of k).2⟩
          exact .inr ⟨fun t' y ne hy => (at' t' y ne hy).1, fun t' y ne hy => (at' t' y ne hy).2⟩
      · exact .inl (.inl kind)

theorem noDoubt_iff {y : Exchange} {n : Stn} :
    y.inDoubt = false ∨ y.dest ≠ .station n ↔
      (y.dest = .station n → y.kind = .read → y.phase = .issue → y.live = true → y.state ≠ .onLine → y.attempts = 0) := by
  simp only [Exchange.inDoubt, Bool.and_eq_false_iff, beq_eq_false_iff_ne, bne_eq_false_iff_eq, decide_eq_false_iff_not,
    Nat.not_lt, Nat.le_zero]
  constructor
  · rintro (((((h | h) | h) | h) | h) | h) dest kind issue live off
    · exact absurd kind h
    · exact absurd issue h
    · rw [h] at live; cases live
    · exact absurd h off
    · exact h
    · exact absurd dest h
  · intro h
    by_contra none
    simp only [not_or, Bool.not_eq_false, not_not] at none
    obtain ⟨⟨⟨⟨⟨kind, issue⟩, live⟩, off⟩, risen⟩, dest⟩ := none
    exact risen (h dest kind issue live off)

theorem readOk_iff {s : State} {t : Tag} {x : Exchange} :
    s.readOk t x = true ↔ ∀ n, x.dest = .station n → x.kind = .read → x.phase = .issue →
      (s.entry n).purgeNeeded = false ∧ ((s.entry n).capacity ≠ 0 →
        (s.entry n).deferred < (s.entry n).capacity ∧
        ∀ t' y, t' ≠ t → s.xchg t' = some y → y.dest = .station n → y.kind = .read → y.phase = .issue →
          y.live = true → y.state ≠ .onLine → y.attempts = 0) := by
  cases dest : x.dest with
  | broadcast => simp [State.readOk, dest]
  | station n =>
    simp only [State.readOk, dest, Dest.station.injEq, forall_eq', Bool.or_eq_true, Bool.and_eq_true, otherX_eq_false_iff,
      noDoubt_iff, beq_iff_eq, Bool.not_eq_true', Bool.and_eq_false_iff, beq_eq_false_iff_ne, decide_eq_true_eq]
    constructor
    · rintro ((h | h) | ⟨mark, room⟩) kind issue
      · exact absurd kind h
      · exact absurd issue h
      · exact ⟨mark, fun cap => room.resolve_left cap⟩
    · intro h
      by_cases kind : x.kind = .read
      · by_cases issue : x.phase = .issue
        · obtain ⟨mark, room⟩ := h kind issue
          exact .inr ⟨mark, or_iff_not_imp_left.mpr room⟩
        · exact .inl (.inr issue)
      · exact .inl (.inl kind)

theorem suspectOk_iff {s : State} {t : Tag} {x : Exchange} :
    s.suspectOk t x = true ↔ ∀ n, x.dest = .station n → (s.entry n).state = .suspect → x.phase = .issue →
      ∀ t' y, t' ≠ t → s.xchg t' = some y → y.dest = .station n →
        ¬(y.phase = .issue ∧ (y.state = .onLine ∨ y.state = .backoff)) := by
  cases dest : x.dest with
  | broadcast => simp [State.suspectOk, dest]
  | station n =>
    simp only [State.suspectOk, dest, Dest.station.injEq, forall_eq', Bool.or_eq_true, otherX_not, bne_iff_ne,
      Exchange.issueActive, Bool.and_eq_false_iff, Bool.or_eq_false_iff, beq_eq_false_iff_ne]
    constructor
    · rintro ((h | h) | h) state issue t' y ne hy d ⟨p, st⟩
      · exact absurd state h
      · exact absurd issue h
      · rcases h t' y ne hy with k | k | k
        · exact k d
        · exact k p
        · rcases st with e | e
          · exact k.1 e
          · exact k.2 e
    · intro h
      by_cases state : (s.entry n).state = .suspect
      · by_cases issue : x.phase = .issue
        · refine .inr fun t' y ne hy => ?_
          by_cases d : y.dest = .station n
          · have none := h state issue t' y ne hy d
            rw [not_and_or, not_or] at none
            exact .inr none
          · exact .inl d
        · exact .inl (.inr issue)
      · exact .inl (.inl state)

theorem fenceOk_iff {s : State} (lists : ListsAgree s) {t : Tag} {x : Exchange} (hx : s.xchg t = some x) :
    s.fenceOk t x = true ↔ (x.fence = true → ∀ t' y, s.earlier x.owner t' t → s.xchg t' = some y → y.live = false) := by
  simp only [State.fenceOk, Bool.or_eq_true, earlierAll_iff lists hx, Bool.not_eq_true']
  cases x.fence <;> simp

theorem bcastOk_iff {s : State} (lists : ListsAgree s) {t : Tag} {x : Exchange} (hx : s.xchg t = some x) :
    s.bcastOk t x = true ↔ (x.kind = .bcastWrite → ∀ t' y, s.earlier x.owner t' t → s.xchg t' = some y →
      y.phase ≠ .issue ∨ y.live = false) := by
  simp only [State.bcastOk, Bool.or_eq_true, earlierAll_iff lists hx, Bool.not_eq_true', bne_iff_ne, Exchange.inIssue,
    Bool.and_eq_false_iff, beq_eq_false_iff_ne]
  exact ⟨fun h k => h.resolve_left (not_not.mpr k), fun h => or_iff_not_imp_left.mpr fun k => h (not_not.mp k)⟩

/-- The job that JOB_OFFER starts is the exchange that the scheduler chose. -/
theorem choose_of_offer {s t : State} {tag : Tag} {ph : Phase} {q : ReqKind} (idle : s.line.state = .idle)
    (run : exec .jobOffer s = .next t) (sending : t.line.state = .sending) (job : t.line.job = some (.attempt tag ph q)) :
    ∃ p, s.choose = some (.exchange tag p) := by
  change execJobOffer s = _ at run
  rw [execJobOffer, if_pos idle] at run
  cases choice : s.choose with
  | none =>
    rw [choice] at run
    cases run
    rw [idle] at sending
    cases sending
  | some c =>
    rw [choice] at run
    cases c with
    | sweep =>
      cases run
      cases job
    | exchange tag' p =>
      dsimp only at run
      cases hx : s.xchg tag' with
      | none =>
        rw [hx] at run
        cases run
        rw [idle] at sending
        cases sending
      | some x =>
        rw [hx] at run
        cases run
        cases job
        exact ⟨p, rfl⟩

/-- Settles O29: eligibility is the conjunction of the conditions, each read off the records by its own equivalence. -/
theorem jobOfferTakesOnlyEligible : Obligations.JobOfferTakesOnlyEligible := by
  intro s tag lists meets
  have meets_iff (x : Exchange) (hx : s.xchg tag = some x) : meets x ↔ s.admits x = true ∧ s.streamOk tag x = true ∧
      s.nonIdemOk tag x = true ∧ s.censusOk tag x = true ∧ s.readOk tag x = true ∧ s.suspectOk tag x = true ∧
      s.fenceOk tag x = true ∧ s.bcastOk tag x = true := by
    rw [admits_iff, streamOk_iff lists hx, nonIdemOk_iff, censusOk_iff, readOk_iff, suspectOk_iff, fenceOk_iff lists hx,
      bcastOk_iff lists hx]
  constructor
  · intro x hx waiting h
    exact eligible_iff.mpr ⟨x, hx, waiting, (meets_iff x hx).mp h⟩
  · intro t ph q idle run sending job
    obtain ⟨p, choice⟩ := choose_of_offer idle run sending job
    obtain ⟨x, hx, waiting, h⟩ := eligible_iff.mp (choose_eligible choice)
    exact ⟨x, hx, waiting, (meets_iff x hx).mpr h⟩

end Sys2Proof.Machine
end

section
/-! PROOF. The order of the jobs: what each stage of the scheduler's choice passes over. -/

namespace Sys2Proof.Machine

/-! ## The classes (R93) -/

/-- No eligible exchange is of this class. -/
def State.noneIn (s : State) (cls : Nat) : Prop := ∀ t y, s.eligible t = true → s.xchg t = some y → y.jobClass ≠ cls

/-- No eligible class-5 exchange is this requester's. -/
def State.noneOf (s : State) (q : Requester) : Prop :=
  ∀ t y, s.eligible t = true → s.xchg t = some y → y.jobClass = 5 → y.owner ≠ q.owner

theorem jobClass_cases (x : Exchange) : x.jobClass = 1 ∨ x.jobClass = 2 ∨ x.jobClass = 4 ∨ x.jobClass = 5 := by
  unfold Exchange.jobClass
  cases x.phase <;> cases x.kind <;> simp

theorem jobClass_eq_one {x : Exchange} :
    x.phase = .abandon ∨ x.phase = .issue ∧ (x.kind = .purge ∨ x.kind = .stationReset) ↔ x.jobClass = 1 := by
  unfold Exchange.jobClass
  cases x.phase <;> cases x.kind <;> simp

theorem jobClass_eq_two {x : Exchange} : x.phase = .collect ↔ x.jobClass = 2 := by
  unfold Exchange.jobClass
  cases x.phase <;> cases x.kind <;> simp

theorem jobClass_eq_four {x : Exchange} :
    x.phase = .issue ∧ (x.kind = .census ∨ x.kind = .fetchEvent) ↔ x.jobClass = 4 := by
  unfold Exchange.jobClass
  cases x.phase <;> cases x.kind <;> simp

/-- The INTERNAL kinds are those of classes 1 and 4, the others those of class 5 (R3, R93). -/
theorem QuotasHold.internal_of_four {s : State} (quotas : QuotasHold s) {t : Tag} {x : Exchange} (hx : s.xchg t = some x)
    (h : x.jobClass = 4) : x.owner = .internal := by
  obtain ⟨_, kind | kind⟩ := jobClass_eq_four.mpr h
  · exact (quotas.internal t x hx).mpr (.inl kind)
  · exact (quotas.internal t x hx).mpr (.inr (.inr (.inr kind)))

theorem QuotasHold.requester_of_five {s : State} (quotas : QuotasHold s) {t : Tag} {x : Exchange} (hx : s.xchg t = some x)
    (h : x.jobClass = 5) : ∃ q : Requester, x.owner = q.owner := by
  have other : ¬(x.kind = .census ∨ x.kind = .purge ∨ x.kind = .stationReset ∨ x.kind = .fetchEvent) := by
    rintro (k | k | k | k) <;> unfold Exchange.jobClass at h <;> rw [k] at h <;> cases e : x.phase <;> rw [e] at h <;> cases h
  have noInternal : x.owner ≠ .internal := fun e => other ((quotas.internal t x hx).mp e)
  match e : x.owner with
  | .window => exact ⟨.window, rfl⟩
  | .list .A => exact ⟨.listA, rfl⟩
  | .list .B => exact ⟨.listB, rfl⟩
  | .internal => exact absurd e noInternal

/-! ## Searches -/

theorem noneIn_of_tags {s : State} {cls : Nat} (h : allTags.find? (s.eligibleIn cls) = none) : s.noneIn cls := by
  intro t y el hy e
  have := List.find?_eq_none.mp h t (List.mem_finRange t)
  exact this (eligibleIn_iff.mpr ⟨el, y, hy, e⟩)

theorem noneIn_four {s : State} (lists : ListsAgree s) (quotas : QuotasHold s)
    (h : s.table.intList.find? (s.eligibleIn 4) = none) : s.noneIn 4 := by
  intro t y el hy e
  have mem : t ∈ s.table.creation .internal := (lists.mem _ _).mpr ⟨y, hy, quotas.internal_of_four hy e⟩
  exact List.find?_eq_none.mp h t mem (eligibleIn_iff.mpr ⟨el, y, hy, e⟩)

theorem noneOf_oldest {s : State} (lists : ListsAgree s) {q : Requester} (h : s.oldest q = none) : s.noneOf q := by
  intro t y el hy e owner
  have mem : t ∈ s.table.creation q.owner := (lists.mem _ _).mpr ⟨y, hy, owner⟩
  exact List.find?_eq_none.mp h t mem (eligibleIn_iff.mpr ⟨el, y, hy, e⟩)

theorem oldest_owner {s : State} (lists : ListsAgree s) {q : Requester} {t : Tag} (h : s.oldest q = some t) {x : Exchange}
    (hx : s.xchg t = some x) : x.owner = q.owner := by
  obtain ⟨y, hy, owner⟩ := (lists.mem _ _).mp (List.mem_of_find?_eq_some h)
  rw [hx] at hy
  cases hy
  exact owner

/-- A search passes over what stands before its find. -/
theorem find?_passes {l : List Tag} (nodup : l.Nodup) {p : Tag → Bool} {t t' : Tag} (h : l.find? p = some t)
    (before : ∃ a b c, l = a ++ t' :: b ++ t :: c) : p t' = false := by
  obtain ⟨_, front, back, eq, none⟩ := List.find?_eq_some_iff_append.mp h
  have mem : t' ∈ l.takeWhile (· != t) := (mem_takeWhile_iff nodup (List.mem_of_find?_eq_some h) t').mpr before
  have within : t' ∈ front := by
    rw [eq, List.takeWhile_append] at mem
    split at mem
    · simpa using mem
    · exact (List.takeWhile_sublist _).subset mem
  simpa using none t' within

/-- The lowest tag of a class is found first (R93). -/
theorem find?_lowest {p : Tag → Bool} {t t' : Tag} (h : allTags.find? p = some t) (ht' : p t' = true) : t ≤ t' := by
  obtain ⟨_, i, hi, eq, none⟩ := List.find?_eq_some_iff_getElem.mp h
  by_contra lt
  have at' : i = t.val := by rw [← eq]; simp [allTags]
  have := none t'.val (by rw [at']; exact not_le.mp lt)
  simp [allTags, ht'] at this

theorem firstOwner_none {s : State} {l : List Requester} (h : s.firstOwner l = none) : ∀ q ∈ l, s.oldest q = none := by
  induction l with
  | nil => simp
  | cons q l ih =>
    unfold State.firstOwner at h
    cases e : s.oldest q with
    | none =>
      rw [e] at h
      exact List.forall_mem_cons.mpr ⟨e, ih h⟩
    | some t => rw [e] at h; cases h

theorem firstOwner_some {s : State} {l : List Requester} {q : Requester} {t : Tag} (h : s.firstOwner l = some (q, t)) :
    s.oldest q = some t ∧ ∃ a b, l = a ++ q :: b ∧ ∀ r ∈ a, s.oldest r = none := by
  induction l with
  | nil => cases h
  | cons r l ih =>
    unfold State.firstOwner at h
    cases e : s.oldest r with
    | none =>
      rw [e] at h
      obtain ⟨old, a, b, eq, none⟩ := ih h
      exact ⟨old, r :: a, b, by rw [eq]; rfl, List.forall_mem_cons.mpr ⟨e, none⟩⟩
    | some t' =>
      rw [e] at h
      cases h
      exact ⟨e, [], l, rfl, by simp⟩

theorem mem_after (p q : Requester) : q ∈ p.after := by cases p <;> cases q <;> simp [Requester.after]

/-! ## The choice -/

/-- The round robin of class 5 (R94): the window under WINDOW_FIRST, else the first owner after the pointer. -/
theorem chooseOwner_some {s : State} {t : Tag} {p : Requester} (h : s.chooseOwner = some (t, p)) :
    s.regs.windowFirst = true ∧ s.oldest .window = some t ∧ p = s.pointer ∨
    (s.regs.windowFirst = true → s.oldest .window = none) ∧ s.oldest p = some t ∧
      ∃ a b, s.pointer.after = a ++ p :: b ∧ ∀ r ∈ a, s.oldest r = none := by
  unfold State.chooseOwner at h
  by_cases first : s.regs.windowFirst = true
  · rw [if_pos first] at h
    cases e : s.oldest .window with
    | some t' =>
      rw [e] at h
      cases h
      exact .inl ⟨first, rfl, rfl⟩
    | none =>
      rw [e] at h
      obtain ⟨⟨q, t'⟩, found, eq⟩ := Option.map_eq_some_iff.mp h
      cases eq
      exact .inr ⟨fun _ => rfl, firstOwner_some found⟩
  · rw [if_neg first] at h
    obtain ⟨⟨q, t'⟩, found, eq⟩ := Option.map_eq_some_iff.mp h
    cases eq
    exact .inr ⟨fun e => absurd e first, firstOwner_some found⟩

theorem chooseOwner_none {s : State} (h : s.chooseOwner = none) (q : Requester) : s.oldest q = none := by
  unfold State.chooseOwner at h
  split at h
  · cases h
  · exact firstOwner_none (Option.map_eq_none_iff.mp h) q (mem_after _ q)

/-- The five stages of the choice (R93): what each passes over, and what it takes. -/
theorem choose_stages (s : State) :
    (∃ t, allTags.find? (s.eligibleIn 1) = some t ∧ s.choose = some (.exchange t s.pointer)) ∨
    s.noneIn 1 ∧
      ((∃ t, allTags.find? (s.eligibleIn 2) = some t ∧ s.choose = some (.exchange t s.pointer)) ∨
      s.noneIn 2 ∧
        (s.sweep.due = true ∧ s.choose = some .sweep ∨
        s.sweep.due = false ∧
          ((∃ t, s.table.intList.find? (s.eligibleIn 4) = some t ∧ s.choose = some (.exchange t s.pointer)) ∨
          s.table.intList.find? (s.eligibleIn 4) = none ∧
            s.choose = s.chooseOwner.map fun tp => .exchange tp.1 tp.2))) := by
  unfold State.choose
  cases one : allTags.find? (s.eligibleIn 1) with
  | some t => exact .inl ⟨t, rfl, rfl⟩
  | none =>
    refine .inr ⟨noneIn_of_tags one, ?_⟩
    cases two : allTags.find? (s.eligibleIn 2) with
    | some t => exact .inl ⟨t, rfl, rfl⟩
    | none =>
      refine .inr ⟨noneIn_of_tags two, ?_⟩
      dsimp only
      by_cases due : s.sweep.due = true
      · rw [if_pos due]
        exact .inl ⟨due, rfl⟩
      · rw [if_neg due]
        refine .inr ⟨by simpa using due, ?_⟩
        cases four : s.table.intList.find? (s.eligibleIn 4) with
        | some t => exact .inl ⟨t, rfl, rfl⟩
        | none => exact .inr ⟨rfl, rfl⟩

theorem jobClass_of_found {s : State} {cls : Nat} {l : List Tag} {t : Tag} (h : l.find? (s.eligibleIn cls) = some t) :
    s.eligible t = true ∧ ∃ x, s.xchg t = some x ∧ x.jobClass = cls := eligibleIn_iff.mp (List.find?_some h)

/-- Settles O30: each stage has passed over what `choose_stages` says, and took what its search found first. -/
theorem jobOfferOrder : Obligations.JobOfferOrder := by
  intro s lists quotas
  refine ⟨fun choice => ?sweep, fun choice => ?none, fun tag p choice => ?exchange⟩
  case sweep =>
    rcases choose_stages s with ⟨t, _, e⟩ | ⟨one, ⟨t, _, e⟩ | ⟨two, ⟨due, _⟩ | ⟨_, ⟨t, _, e⟩ | ⟨_, e⟩⟩⟩⟩
    · rw [choice] at e; cases e
    · rw [choice] at e; cases e
    · refine ⟨due, fun t' y el hy => ?_⟩
      have := one t' y el hy
      have := two t' y el hy
      have := jobClass_cases y
      omega
    · rw [choice] at e; cases e
    · rw [choice] at e
      obtain ⟨_, _, eq⟩ := Option.map_eq_some_iff.mp e.symm
      cases eq
  case none =>
    rcases choose_stages s with ⟨t, _, e⟩ | ⟨one, ⟨t, _, e⟩ | ⟨two, ⟨_, e⟩ | ⟨due, ⟨t, _, e⟩ | ⟨four, e⟩⟩⟩⟩
    · rw [choice] at e; cases e
    · rw [choice] at e; cases e
    · rw [choice] at e; cases e
    · rw [choice] at e; cases e
    · refine ⟨due, fun t' => ?_⟩
      by_contra el
      rw [Bool.not_eq_false] at el
      obtain ⟨y, hy, _⟩ := eligible_iff.mp el
      rw [choice] at e
      have owners := chooseOwner_none (Option.map_eq_none_iff.mp e.symm)
      rcases jobClass_cases y with k | k | k | k
      · exact one t' y el hy k
      · exact two t' y el hy k
      · exact noneIn_four lists quotas four t' y el hy k
      · obtain ⟨q, owner⟩ := quotas.requester_of_five hy k
        exact noneOf_oldest lists (owners q) t' y el hy k owner
  case exchange =>
    have el := choose_eligible choice
    obtain ⟨x, hx, _⟩ := eligible_iff.mp el
    refine ⟨x, hx, el, jobClass_eq_one, jobClass_eq_two, jobClass_eq_four, ?_⟩
    -- the exchange that a search for a class has found is `x`
    have classOf {cls : Nat} {l : List Tag} {t : Tag} {q : Requester} (found : l.find? (s.eligibleIn cls) = some t)
        (e : s.choose = some (.exchange t q)) : t = tag ∧ q = p ∧ x.jobClass = cls := by
      rw [choice] at e
      cases e
      obtain ⟨_, y, hy, k⟩ := jobClass_of_found found
      rw [hx] at hy
      cases hy
      exact ⟨rfl, rfl, k⟩
    rcases choose_stages s with ⟨t, found, e⟩ | ⟨one, ⟨t, found, e⟩ | ⟨two, ⟨_, e⟩ | ⟨due, ⟨t, found, e⟩ | ⟨four, e⟩⟩⟩⟩
    · obtain ⟨rfl, rfl, k⟩ := classOf found e
      refine ⟨by omega, fun t' y _ hy => by have := jobClass_cases y; omega, fun _ => ⟨rfl, fun t' y el' hy k' => ?_⟩,
        by omega, by omega⟩
      exact find?_lowest found (eligibleIn_iff.mpr ⟨el', y, hy, k'.trans k⟩)
    · obtain ⟨rfl, rfl, k⟩ := classOf found e
      refine ⟨by omega, fun t' y el' hy => ?_, fun _ => ⟨rfl, fun t' y el' hy k' => ?_⟩, by omega, by omega⟩
      · have := one t' y el' hy
        have := jobClass_cases y
        omega
      · exact find?_lowest found (eligibleIn_iff.mpr ⟨el', y, hy, k'.trans k⟩)
    · rw [choice] at e; cases e
    · obtain ⟨rfl, rfl, k⟩ := classOf found e
      refine ⟨fun _ => due, fun t' y el' hy => ?_, by omega, fun _ => ⟨rfl, fun t' y el' hy k' earlier => ?_⟩, by omega⟩
      · have := one t' y el' hy
        have := two t' y el' hy
        have := jobClass_cases y
        omega
      · have passed := find?_passes (lists.nodup .internal) found earlier
        rw [eligibleIn_iff.mpr ⟨el', y, hy, k'⟩] at passed
        cases passed
    · rw [choice] at e
      have chosen : s.chooseOwner = some (tag, p) := by
        obtain ⟨_, chosen, eq⟩ := Option.map_eq_some_iff.mp e.symm
        cases eq
        exact chosen
      -- class 5: the owner whose oldest exchange was found
      have five (r : Requester) (old : s.oldest r = some tag) : x.jobClass = 5 ∧ x.owner = r.owner ∧
          ∀ t' y, s.eligible t' = true → s.xchg t' = some y → y.jobClass = 5 → ¬s.earlier x.owner t' tag := by
        obtain ⟨_, y, hy, k⟩ := jobClass_of_found old
        rw [hx] at hy
        cases hy
        have owner := oldest_owner lists old hx
        refine ⟨k, owner, fun t' y el' hy' k' earlier => ?_⟩
        rw [owner] at earlier
        have passed := find?_passes (lists.nodup r.owner) old earlier
        rw [eligibleIn_iff.mpr ⟨el', y, hy', k'⟩] at passed
        cases passed
      have least (k : x.jobClass = 5) (t' : Tag) (y : Exchange) (el' : s.eligible t' = true) (hy : s.xchg t' = some y) :
          x.jobClass ≤ y.jobClass := by
        have := one t' y el' hy
        have := two t' y el' hy
        have := noneIn_four lists quotas four t' y el' hy
        have := jobClass_cases y
        omega
      rcases chooseOwner_some chosen with ⟨first, old, rfl⟩ | ⟨window, old, a, b, after, none⟩
      · obtain ⟨k, owner, oldest⟩ := five .window old
        refine ⟨fun _ => due, least k, by omega, by omega, fun _ => ⟨oldest, fun _ _ => rfl,
          fun _ ne => absurd owner ne, fun h => ?_⟩⟩
        rcases h with h | h
        · rw [first] at h; cases h
        · exact absurd owner h
      · obtain ⟨k, owner, oldest⟩ := five p old
        refine ⟨fun _ => due, least k, by omega, by omega, fun _ => ⟨oldest, fun first isWindow => ?_,
          fun first _ => noneOf_oldest lists (window first), fun _ => ⟨owner.symm, a, b, after,
            fun r hr => noneOf_oldest lists (none r hr)⟩⟩⟩
        exact absurd isWindow (noneOf_oldest lists (window first) tag x el hx k)

end Sys2Proof.Machine
end

section
/-! PROOF. The check value, the frames that the unit builds, the symbols it drives, and the bid slots. -/

namespace Sys2Proof.Machine

/-! ## The check value (R51) -/

theorem crcBit_eq (r : BitVec 16) (b : Bool) :
    crcBit r b = if r.getLsbD 15 ≠ b then (r <<< 1) ^^^ 0x1021#16 else r <<< 1 := by
  simp [crcBit]

/-- A bit equal to the register's top bit only moves the register on. -/
theorem crcBit_own {r : BitVec 16} {b : Bool} (h : r.getLsbD 15 = b) : crcBit r b = r <<< 1 := by
  rw [crcBit_eq, if_neg (not_not.mpr h)]

theorem crcBit_shifted {r : BitVec 16} {k : Nat} {b : Bool} (hk : k ≤ 15) (h : r.getLsbD (15 - k) = b) :
    crcBit (r <<< k) b = r <<< (k + 1) := by
  have top : (r <<< k).getLsbD 15 = b := by
    rw [BitVec.getLsbD_shiftLeft, h]
    simp [Nat.not_lt.mpr hk]
  rw [crcBit_own top, BitVec.shiftLeft_add]

/-- A byte equal to the register's top byte only moves the register on. -/
theorem crcByte_own {r : BitVec 16} {b : Byte} (h : ∀ k, k < 8 → r.getLsbD (15 - k) = b.getLsbD (7 - k)) :
    crcByte r b = r <<< 8 := by
  simp only [crcByte, List.foldl_cons, List.foldl_nil]
  rw [crcBit_own (h 0 (by omega)), crcBit_shifted (by omega) (h 1 (by omega)),
    crcBit_shifted (by omega) (h 2 (by omega)), crcBit_shifted (by omega) (h 3 (by omega)),
    crcBit_shifted (by omega) (h 4 (by omega)), crcBit_shifted (by omega) (h 5 (by omega)),
    crcBit_shifted (by omega) (h 6 (by omega)), crcBit_shifted (by omega) (h 7 (by omega))]

/-- The check value of bytes with their check bytes is 0. -/
theorem crc16_crcBytes (bs : List Byte) : crc16 (bs ++ crcBytes bs) = 0#16 := by
  have run : crc16 (bs ++ crcBytes bs) =
      crcByte (crcByte (crc16 bs) ((crc16 bs).extractLsb' 8 8)) ((crc16 bs).extractLsb' 0 8) := by
    rw [crc16, List.foldl_append]
    rfl
  generalize crc16 bs = r at run
  rw [run, crcByte_own (r := r) fun k hk => ?top, crcByte_own (r := r <<< 8) fun k hk => ?low, ← BitVec.shiftLeft_add]
  · exact BitVec.shiftLeft_eq_zero (by omega)
  case top =>
    have place : 8 + (7 - k) = 15 - k := by omega
    simp [BitVec.getLsbD_extractLsb', place]
    omega
  case low =>
    have place : 15 - k - 8 = 7 - k := by omega
    have bounds : 15 - k < 16 ∧ ¬15 - k < 8 ∧ 7 - k < 8 := by omega
    simp [bounds, place]
    exact (BitVec.getLsbD_eq_getElem _).symm

/-! ## Frames (R52, R175) -/

theorem stationByte_station (n : Stn) (seq : Bool) :
    stationByte (stnField n) seq = BitVec.ofNat 8 (addrOf n + if seq then 32 else 0) := by
  revert n seq
  decide

/-- The frame of a request of known kind and destination. -/
theorem requestFrame_eq {tag : Tag} {x : Exchange} {m : List Host.Cell} {q : ReqKind} {second : Byte}
    (kind : requestKind x = q) (station : stationByte (destField x.dest) (requestSeq q x) = second) :
    let body := [q.code, second, BitVec.ofNat 8 tag.val, requestCount q x, (requestAddr q x).extractLsb' 0 8,
      (requestAddr q x).extractLsb' 8 8] ++ requestPayload q x m
    requestFrame tag x m = { bytes := body ++ crcBytes body, closing := closingMark q } := by
  subst kind station
  rfl

theorem requestFrame_station {tag : Tag} {x : Exchange} {m : List Host.Cell} {q : ReqKind} {n : Stn}
    (dest : x.dest = .station n) (kind : requestKind x = q) :
    let body := [q.code, BitVec.ofNat 8 (addrOf n + if requestSeq q x then 32 else 0), BitVec.ofNat 8 tag.val,
      requestCount q x, (requestAddr q x).extractLsb' 0 8, (requestAddr q x).extractLsb' 8 8] ++ requestPayload q x m
    requestFrame tag x m = { bytes := body ++ crcBytes body, closing := closingMark q } :=
  requestFrame_eq kind (by rw [dest]; exact stationByte_station n _)

/-! ## Symbols (R49, R50) -/

theorem symbols_length (f : Frame) : f.symbols.length = 16 + 10 * f.bytes.length := by
  have bytes : (f.bytes.flatMap byteSyms).length = 10 * f.bytes.length := by
    induction f.bytes with
    | nil => rfl
    | cons b bs ih =>
      rw [List.flatMap_cons, List.length_append, byteSyms_length, ih, List.length_cons]
      omega
  have mark (m : Mark) : m.pattern.length = 4 := by cases m <;> rfl
  have start : preamble.length = 8 := by decide
  simp only [Frame.symbols, List.length_append, bytes, mark, start]
  omega

theorem byteSyms_eq (b : Byte) :
    byteSyms b = .zero :: (List.range 8).map (fun i => if b.getLsbD i then LineSym.one else .zero) ++ [.one] := by
  simp [byteSyms, byteBits, bitSym]

/-- Settles O31: each request's frame by `requestFrame_station`, the residue by `crc16_crcBytes`, and what is driven by the
line's state. -/
theorem requestFrameBytes : Obligations.RequestFrameBytes := by
  refine ⟨fun tag x m => ?frames, fun bs b => ⟨rfl, ?byteIn, crc16_crcBytes bs, by decide +kernel⟩, fun f s => ?symbols,
    fun pattern inFirst quietAfter => ?slots⟩
  case frames =>
    intro frame
    refine ⟨fun n dest => ?stations, fun dest kind => ?broadcast, rfl⟩
    case broadcast =>
      have q : requestKind x = .bcastWrite := by simp [requestKind, kind]
      have second : stationByte 31#5 false = 31#8 := by decide
      exact requestFrame_eq q (by rw [dest]; exact second)
    case stations =>
      intro st stSeq reg lengthByte
      have at' {q : ReqKind} (hq : requestKind x = q) := requestFrame_station (tag := tag) (m := m) dest hq
      refine ⟨fun k => ?_, fun k p => ?_, fun k => ?_, fun k p => ?_, fun k p => ?_, fun k => ?_, fun k => ?_, fun k => ?_,
        fun k => ?_⟩
      · exact at' (q := .write) (by simp [requestKind, k])
      · exact at' (q := .read) (by simp [requestKind, k, p])
      · exact at' (q := .signal) (by simp [requestKind, k])
      · exact at' (q := .collect) (by simp [requestKind, k, p])
      · exact at' (q := .abandon) (by simp [requestKind, k, p])
      · exact at' (q := .purge) (by simp [requestKind, k])
      · exact at' (q := .stationReset) (by simp [requestKind, k])
      · exact at' (q := .census) (by simp [requestKind, k])
      · exact at' (q := .fetchEvent) (by simp [requestKind, k])
  case byteIn =>
    rw [crc16, List.foldl_append]
    simp [crcByte, crcBit_eq, List.range_succ, crc16]
  case symbols =>
    intro data byte
    refine ⟨?shape, symbols_length f, fun tag x m => ?frameLength, rfl, fun st wait tx => ?sending, fun st wait => ?wake,
      fun st kind => ?short, fun st kind => ?long, fun a b c => ?silent, fun wait st => ?waits⟩
    case shape =>
      have bytes : byteSyms = byte := funext byteSyms_eq
      rw [Frame.symbols, bytes]
      cases f.closing <;> rfl
    case frameLength =>
      rw [symbols_length]
      simp [requestFrame, requestHeader, crcBytes]
      omega
    case sending => simp [State.driven, State.linkDE, st, wait, tx]
    case wake =>
      simp only [State.driven, State.linkDE, st, wait, Bool.not_false, if_true, wakePattern, alternating, data]
      simp [Config.wakeLength]
    case short =>
      simp only [State.driven, State.linkDE, st, kind, if_true]
      rfl
    case long =>
      simp only [State.driven, State.linkDE, st, kind, if_true]
      rfl
    case silent =>
      have off : s.linkDE = false := by
        unfold State.linkDE
        split <;> first | contradiction | rfl
      exact ⟨by simp [State.driven, off], off⟩
    case waits =>
      have off : s.linkDE = false := by
        unfold State.linkDE
        split <;> first | contradiction | simp [wait]
      exact ⟨by simp [State.driven, off], off⟩
  case slots =>
    intro code
    have good (h : code) : (inFirst && quietAfter) = true := by simpa [code] using h
    refine ⟨rfl, fun h => ?_, fun h => ?_, fun h => ?_, fun h => ?_⟩
    · rw [readSlot, if_pos (good h)]
      rfl
    · rw [readSlot, if_pos (good h)]
      rfl
    · rw [readSlot, if_pos (good h)]
      rfl
    · rw [readSlot]
      split
      · rename_i both
        have pat := h.resolve_left fun no => no (by simpa [code] using both)
        simp only [List.mem_cons, List.not_mem_nil, or_false, not_or] at pat
        rw [bidReady, bidEvent, bidBoth, if_neg pat.1, if_neg pat.2.1, if_neg pat.2.2]
      · rfl

end Sys2Proof.Machine
end

section
/-! PROOF. The checks on a reply in their order, and what the receiver makes of the symbols it sees. -/

namespace Sys2Proof.Machine

/-! ## Codes of a reply (R54, R56, R176) -/

/-- The payload a header implies: the count and 1 for DATA, IDENT and EVENT (R54). -/
theorem impliedPayload_eq (kind count : Byte) :
    impliedPayload kind count =
      if kind = 0x22#8 ∨ kind = 0x28#8 ∨ kind = 0x29#8 then count.toNat + 1 else 0 := by
  unfold impliedPayload replyKindOf
  split_ifs <;> simp_all

/-- The reply kinds and their codes (R176). -/
theorem replyKindOf_eq_some {b : Byte} {k : ReplyKind} :
    (b, k) ∈ [(0x21#8, ReplyKind.accept), (0x22#8, .data), (0x23#8, .defer), (0x24#8, .busy), (0x25#8, .refuse),
      (0x26#8, .notReady), (0x27#8, .unknownTag), (0x28#8, .ident), (0x29#8, .event), (0x2A#8, .noEvent)] ↔
    replyKindOf b = some k := by
  unfold replyKindOf
  split_ifs <;> simp_all [eq_comm]

/-- The replies each request allows (R56). -/
theorem allowedReply_iff {q : ReqKind} {k : ReplyKind} :
    (∃ l, (q, l) ∈ [(ReqKind.write, [ReplyKind.accept, .busy, .refuse]), (.signal, [.accept, .busy, .refuse]),
      (.read, [.data, .defer, .busy, .refuse]), (.collect, [.data, .notReady, .unknownTag]),
      (.abandon, [.accept, .unknownTag]), (.purge, [.accept]), (.stationReset, [.accept]), (.census, [.ident]),
      (.fetchEvent, [.event, .noEvent, .busy])] ∧ k ∈ l) ↔ allowedReply q k = true := by
  cases q <;> simp [allowedReply]

theorem reasonOfCode_eq (n : Nat) :
    reasonOfCode n =
      ([(1, Reason.badAddress), (2, .badLength), (3, .readOnly), (4, .unsupported)].lookup n).getD .stationFault := by
  match n with
  | 0 | 1 | 2 | 3 | 4 => rfl
  | k + 5 => simp [reasonOfCode, List.lookup]

theorem high_nibble (b : Byte) : (b.extractLsb' 4 4).toNat = b.toNat / 16 := by
  rw [BitVec.extractLsb'_toNat, Nat.shiftRight_eq_div_pow, Nat.mod_eq_of_lt]
  have := b.isLt
  omega

theorem low_bits (b : Byte) : (b.extractLsb' 0 5).toNat = b.toNat % 32 := by
  simp

theorem low_bits_eq {b : Byte} {k : Nat} (hk : k < 32) : b.extractLsb' 0 5 = BitVec.ofNat 5 k ↔ b.toNat % 32 = k := by
  rw [← BitVec.toNat_inj, low_bits, BitVec.toNat_ofNat, Nat.mod_eq_of_lt (a := k) hk]

/-- The sequence bit of a request is that of a non-idempotent kind (R52). -/
theorem requestSeq_eq (x : Exchange) :
    requestSeq (requestKind x) x = (x.kind.nonIdem && x.seqUsed.getD false) := by
  unfold requestKind
  cases hk : x.kind <;> cases x.phase <;> rfl

/-! ## The checks in their order (R71) -/

section Checks

variable {tag : Tag} {x : Exchange} {kind st tagB ep count : Byte}

theorem judgeReply_short {bytes : List Byte} (h : bytes.length < 5) : judgeReply tag x bytes = .early := by
  match bytes with
  | [] | [_] | [_, _] | [_, _, _] | [_, _, _, _] => rfl
  | _ :: _ :: _ :: _ :: _ :: _ =>
    simp only [List.length_cons] at h
    omega

theorem judgeReply_early {rest : List Byte} (h : rest.length < impliedPayload kind count + 2) :
    judgeReply tag x (kind :: st :: tagB :: ep :: count :: rest) = .early := by
  simp only [judgeReply]
  rw [if_pos h]

theorem judgeReply_long {rest : List Byte} (h : impliedPayload kind count + 2 < rest.length) :
    judgeReply tag x (kind :: st :: tagB :: ep :: count :: rest) = .outcome (.lost .framing) := by
  simp only [judgeReply]
  rw [if_neg (by omega), if_pos h]

/-- A frame of the right length: the check bytes, the station, and then its content. -/
theorem judgeReply_whole {payload : List Byte} (len : payload.length = impliedPayload kind count) (c₁ c₂ : Byte) :
    judgeReply tag x (([kind, st, tagB, ep, count] ++ payload) ++ [c₁, c₂]) =
      if crcBytes ([kind, st, tagB, ep, count] ++ payload) ≠ [c₁, c₂] then .outcome (.lost .crc)
      else if st.extractLsb' 0 5 ≠ destField x.dest then .outcome (.lost .wrongStation)
      else .outcome (judgeContent tag x kind st tagB ep count payload) := by
  have rest : (payload ++ [c₁, c₂]).length = impliedPayload kind count + 2 := by simp [len]
  simp only [List.cons_append, List.nil_append, judgeReply]
  rw [if_neg (by omega), if_neg (by omega), ← len, List.take_left, List.drop_left]

theorem crcBytes_eq (bs : List Byte) : ∃ c₁ c₂, crcBytes bs = [c₁, c₂] := ⟨_, _, rfl⟩

theorem judgeReply_sound {payload : List Byte} (len : payload.length = impliedPayload kind count) :
    judgeReply tag x (([kind, st, tagB, ep, count] ++ payload) ++ crcBytes ([kind, st, tagB, ep, count] ++ payload)) =
      if st.extractLsb' 0 5 ≠ destField x.dest then .outcome (.lost .wrongStation)
      else .outcome (judgeContent tag x kind st tagB ep count payload) := by
  obtain ⟨c₁, c₂, crc⟩ := crcBytes_eq ([kind, st, tagB, ep, count] ++ payload)
  rw [crc, judgeReply_whole len, if_neg (not_not.mpr crc)]

/-- The head that the directory reads of a reply. -/
def headOf (tagB ep : Byte) : ReplyHead :=
  { epoch := ep.extractLsb' 0 4, attReady := tagB.getLsbD 5, attEvent := tagB.getLsbD 6 }

/-- The content of a reply answers the request (R56): its kind, the tag, the sequence echo and the payload size. -/
def answersRequest (tag : Tag) (x : Exchange) (kind st tagB : Byte) (payload : List Byte) (k : ReplyKind) : Prop :=
  replyKindOf kind = some k ∧ allowedReply (requestKind x) k = true ∧ tagB.toNat % 32 = tag.val ∧
    st.getLsbD 5 = (x.kind.nonIdem && x.seqUsed.getD false) ∧ payloadSizeOk k payload.length = true

theorem judgeContent_overrun {payload : List Byte} (h : kind = 0x22#8 ∧ x.kind = .read ∧ x.length.getD 0 < count.toNat + 1) :
    judgeContent tag x kind st tagB ep count payload = .sound .overrun (headOf tagB ep) := by
  unfold judgeContent
  rw [if_pos h]
  rfl

theorem judgeContent_reply {payload : List Byte} {k : ReplyKind}
    (short : ¬(kind = 0x22#8 ∧ x.kind = .read ∧ x.length.getD 0 < count.toNat + 1))
    (h : answersRequest tag x kind st tagB payload k) :
    judgeContent tag x kind st tagB ep count payload = .reply
      { kind := k, head := headOf tagB ep, repeated := x.kind.nonIdem && st.getLsbD 6
        reason := reasonOfCode (ep.toNat / 16), payload := payload } := by
  obtain ⟨code, allowed, hasTag, seq, size⟩ := h
  have tagOk : tagB.extractLsb' 0 5 = BitVec.ofNat 5 tag.val := (low_bits_eq tag.isLt).mpr hasTag
  unfold judgeContent
  rw [if_neg short]
  simp only [code, requestSeq_eq, allowed, tagOk, seq, size, beq_self_eq_true, Bool.and_self, if_true, high_nibble]
  rfl

theorem judgeContent_unexpected {payload : List Byte}
    (short : ¬(kind = 0x22#8 ∧ x.kind = .read ∧ x.length.getD 0 < count.toNat + 1))
    (h : ∀ k, ¬answersRequest tag x kind st tagB payload k) :
    judgeContent tag x kind st tagB ep count payload = .sound .unexpected (headOf tagB ep) := by
  unfold judgeContent
  rw [if_neg short]
  cases code : replyKindOf kind with
  | none => rfl
  | some k =>
    dsimp only
    rw [if_neg]
    · rfl
    · intro all
      simp only [Bool.and_eq_true, beq_iff_eq, requestSeq_eq] at all
      obtain ⟨⟨⟨allowed, hasTag⟩, seq⟩, size⟩ := all
      exact h k ⟨code, allowed, (low_bits_eq tag.isLt).mp hasTag, seq, size⟩

end Checks

theorem station_iff {b : Byte} {n : Stn} : b.extractLsb' 0 5 = destField (.station n) ↔ b.toNat % 32 = addrOf n :=
  low_bits_eq (addrOf_lt n)

/-! ## The receiver (R50, R70, R71) -/

/-- After a START mark and the bytes `bs`: nothing in progress, and no quiet. -/
def atByte (bs : List Byte) : Receiver := { bytes := bs, part := [], quiet := 0 }

theorem run_bytes (bs : List Byte) (more : List (Option LineSym)) :
    (atByte []).run ((bs.flatMap byteSyms).map some ++ more) = (atByte bs).run more := by
  suffices h : ∀ done, (atByte done).run ((bs.flatMap byteSyms).map some ++ more) = (atByte (done ++ bs)).run more by
    simpa using h []
  induction bs with
  | nil => simp
  | cons b bs ih =>
    intro done
    rw [List.flatMap_cons, List.map_append, List.append_assoc, Receiver.run_append, atByte, Receiver.run_byte]
    have rest := ih (done ++ [b])
    rw [List.append_assoc] at rest
    exact rest

/-- The start bit and the first data bits of a byte. -/
theorem byteSyms_take {k : Nat} (b : Byte) (hk : k ≤ 8) :
    (byteSyms b).take (k + 1) = .zero :: ((byteBits b).take k).map bitSym := by
  have len : k ≤ ((byteBits b).map bitSym).length := by simpa [byteBits_length] using hk
  rw [byteSyms, List.cons_append, List.take_succ_cons, List.take_append_of_le_length len, List.map_take]

/-- Inside a byte: the start bit and the data bits so far are in progress. -/
theorem run_partial (bs : List Byte) (b : Byte) {k : Nat} (hk : k ≤ 8) (more : List (Option LineSym)) :
    (atByte bs).run (((byteSyms b).take (k + 1)).map some ++ more) =
      ({ bytes := bs, part := .zero :: ((byteBits b).take k).map bitSym, quiet := 0 } : Receiver).run more := by
  have start : (atByte bs).takeBT (some .zero) = .goesOn { bytes := bs, part := [.zero], quiet := 0 } := rfl
  have bits := Receiver.run_bits ((byteBits b).take k) bs [] 0 rfl (by simp [byteBits_length, hk])
  rw [ite_self] at bits
  rw [byteSyms_take b hk, List.map_cons, List.cons_append, List.map_map]
  simp only [Receiver.run, start]
  rw [Receiver.run_append]
  erw [bits]
  rfl

/-- A level or a mark inside a byte is a fault at once. -/
theorem run_level (bs : List Byte) (l : List LineSym) {y : LineSym} (hy : y = .high ∨ y = .low) (q : Nat)
    (more : List (Option LineSym)) :
    ({ bytes := bs, part := .zero :: l, quiet := q } : Receiver).run (some y :: more) = .early := by
  have noData : dataOnly (.zero :: (l ++ [y])) = false := by
    rw [← List.cons_append, dataOnly_append]
    rcases hy with rfl | rfl <;> simp [dataOnly]
  simp [Receiver.run, Receiver.takeBT, Receiver.takeSym, not_prefix_of_zero, noData]

/-- A stop bit of 0 is a fault (R71). -/
theorem run_badStop (bs : List Byte) (b : Byte) (q : Nat) (more : List (Option LineSym)) :
    ({ bytes := bs, part := .zero :: (byteBits b).map bitSym, quiet := q } : Receiver).run (some .zero :: more) =
      .early := by
  have len : ((byteBits b).map bitSym).length = 8 := by simp [byteBits_length]
  simp [Receiver.run, Receiver.takeBT, Receiver.takeSym, not_prefix_of_zero, byteBits_length]

/-- Quiet goes on for 20 BT and no longer (R71). -/
theorem run_quiet (r : Receiver) {k : Nat} (h : r.quiet + k ≤ 20) (more : List (Option LineSym)) :
    r.run (List.replicate k none ++ more) = ({ r with quiet := r.quiet + k } : Receiver).run more := by
  induction k generalizing r with
  | zero => rfl
  | succ k ih =>
    have step : r.takeBT none = .goesOn { r with quiet := r.quiet + 1 } := if_neg (by omega)
    rw [List.replicate_succ, List.cons_append]
    simp only [Receiver.run, step]
    rw [ih _ (by simp only; omega), show r.quiet + 1 + k = r.quiet + (k + 1) by omega]

theorem run_longQuiet {r : Receiver} (h : r.quiet = 0) (more : List (Option LineSym)) :
    r.run (List.replicate 21 none ++ more) = .early := by
  have split : List.replicate 21 (none : Option LineSym) = List.replicate 20 none ++ [none] := rfl
  have tooLong : ({ r with quiet := r.quiet + 20 } : Receiver).takeBT none = .early := by
    simp [Receiver.takeBT, h]
  rw [split, List.append_assoc, run_quiet r (by omega)]
  simp only [List.cons_append, List.nil_append, Receiver.run, tooLong]

/-- Whole bytes and up to nine BT of the next leave the receiver without quiet. -/
theorem run_bytes_partial (bs : List Byte) (b : Byte) (k : Nat) :
    ∃ r : Receiver, r.quiet = 0 ∧ ∀ more : List (Option LineSym),
      (atByte []).run ((bs.flatMap byteSyms ++ (byteSyms b).take (min k 9)).map some ++ more) = r.run more := by
  cases e : min k 9 with
  | zero =>
    refine ⟨atByte bs, rfl, fun more => ?_⟩
    rw [List.take_zero, List.append_nil, run_bytes]
  | succ j =>
    refine ⟨{ bytes := bs, part := .zero :: ((byteBits b).take j).map bitSym, quiet := 0 }, rfl, fun more => ?_⟩
    rw [List.map_append, List.append_assoc, run_bytes, run_partial bs b (by omega)]

/-! ## The reply window (R70) -/

theorem startComplete_cons (o : Option LineSym) (l : List (Option LineSym)) :
    startComplete (o :: l) = ((Mark.start.pattern.map some).isPrefixOf (o :: l) || startComplete l) := by
  simp [startComplete]

/-- No START mark begins with anything but H. -/
theorem startComplete_append {rest : List (Option LineSym)} (h : ∀ z ∈ rest, z ≠ some .high) (l : List (Option LineSym)) :
    startComplete (rest ++ l) = startComplete l := by
  induction rest with
  | nil => rfl
  | cons o rest ih =>
    obtain ⟨first, others⟩ := List.forall_mem_cons.mp h
    have no : (Mark.start.pattern.map some).isPrefixOf (o :: (rest ++ l)) = false := by
      simp [Mark.pattern, List.isPrefixOf, Ne.symm first]
    rw [List.cons_append, startComplete_cons, no, Bool.false_or, ih others]

theorem startComplete_none {rest : List (Option LineSym)} (h : ∀ z ∈ rest, z ≠ some .high) : startComplete rest = false := by
  rw [← List.append_nil rest, startComplete_append h]
  rfl

/-- A preamble with its START mark. -/
def preambleStart : List LineSym := [.one, .zero, .one, .zero, .one, .zero, .one, .zero, .high, .low, .one, .zero]

/-- A START mark only begun is none. -/
theorem startComplete_begun : ∀ j : Fin 12, startComplete ((preambleStart.take j).map some) = false := by decide

theorem not_high_of_none {rest : List (Option LineSym)} (h : ∀ z ∈ rest, z = none) : ∀ z ∈ rest, z ≠ some .high :=
  fun z hz => by rw [h z hz]; exact fun e => nomatch e

/-- Quiet, and then a preamble with its START mark cut short, within the window or by its end. -/
theorem startComplete_cut {rest : List (Option LineSym)} (h : ∀ z ∈ rest, z = none) {j window : Nat}
    (cut : j < 12 ∨ window < rest.length + 14) :
    startComplete ((([none, none] ++ rest ++ (preambleStart.take j).map some).take window).drop 2) = false := by
  have shape : (([none, none] ++ rest ++ (preambleStart.take j).map some).take window).drop 2 =
      rest.take (window - 2) ++ (preambleStart.take (min (window - 2 - rest.length) j)).map some := by
    rw [List.drop_take, List.append_assoc]
    simp only [List.cons_append, List.nil_append, List.drop_succ_cons, List.drop_zero]
    rw [List.take_append, ← List.map_take, List.take_take]
  rw [shape, startComplete_append (not_high_of_none fun z hz => h z (List.mem_of_mem_take hz))]
  exact startComplete_begun ⟨min (window - 2 - rest.length) j, by omega⟩

/-! ## The statement -/

theorem receivedRow_bytes (bs : List Byte) (more : List (Option LineSym)) :
    receivedRow ((bs.flatMap byteSyms).map some ++ more) =
      match (atByte bs).run more with
      | .goesOn _ => none
      | .ended bytes => some (.replyReceived bytes)
      | .early => some .earlyFramingFault := by
  rw [← run_bytes]
  rfl

theorem receivedRow_early {bts : List (Option LineSym)} (h : (atByte []).run bts = .early) :
    receivedRow bts = some .earlyFramingFault := by
  unfold receivedRow
  erw [h]

/-- Settles O36: the first two parts by the checks in their order; the receiver runs over the whole bytes, then over the
symbols in question; a START mark is looked for from the first BT that is not quiet. -/
theorem replyChecksInOrder : Obligations.ReplyChecksInOrder := by
  refine ⟨fun tag x n b st tagB ep count c₁ c₂ write dest seq => ?accept,
    fun tag x n kind st tagB ep count payload dest len => ?whole, fun bs b k y rest window => ?symbols⟩
  case accept =>
    intro body head
    have none : (([] : List Byte)).length = impliedPayload 0x21#8 count := by
      rw [impliedPayload_eq]
      rfl
    have seqOf : (x.kind.nonIdem && x.seqUsed.getD false) = b := by simp [write, seq, Kind.nonIdem]
    have noData : ¬((0x21#8 : Byte) = 0x22#8 ∧ x.kind = .read ∧ x.length.getD 0 < count.toNat + 1) := by simp
    have q : requestKind x = .write := by simp [requestKind, write]
    have sound := judgeReply_sound (tag := tag) (x := x) (st := st) (tagB := tagB) (ep := ep) none
    have size : payloadSizeOk .accept ([] : List Byte).length = true := rfl
    refine ⟨fun bytes short => ?short, fun more some => ?long, fun crc => ?crc, fun other => ?other,
      fun own hasTag echo => ?good, fun own bad => ?bad⟩
    case short =>
      by_cases five : bytes.length < 5
      · exact judgeReply_short five
      · match bytes with
        | _ :: _ :: _ :: _ :: _ :: rest =>
          refine judgeReply_early ?_
          simp only [List.length_cons] at short
          omega
        | [] | [_] | [_, _] | [_, _, _] | [_, _, _, _] => simp at five
    case long =>
      refine judgeReply_long (rest := [c₁, c₂] ++ more) ?_
      rw [← none]
      have := List.length_pos_of_ne_nil some
      simpa using this
    case crc => exact (judgeReply_whole (payload := []) none c₁ c₂).trans (if_pos fun e => crc e.symm)
    case other =>
      refine sound.trans (if_pos fun e => other ?_)
      rw [dest] at e
      exact station_iff.mp e
    case good =>
      have own' : ¬st.extractLsb' 0 5 ≠ destField x.dest := by rw [dest]; exact not_not.mpr (station_iff.mpr own)
      refine (sound.trans (if_neg own')).trans (congrArg _ (judgeContent_reply noData ⟨rfl, ?_, hasTag, ?_, size⟩) |>.trans ?_)
      · rw [q]; rfl
      · rw [seqOf, echo]
      · rw [write]; rfl
    case bad =>
      have own' : ¬st.extractLsb' 0 5 ≠ destField x.dest := by rw [dest]; exact not_not.mpr (station_iff.mpr own)
      refine (sound.trans (if_neg own')).trans (congrArg _ (judgeContent_unexpected noData fun rk h => ?_))
      obtain ⟨_, _, hasTag, echo, _⟩ := h
      rw [seqOf] at echo
      exact bad.elim (fun no => no hasTag) fun no => no echo
  case whole =>
    intro header body judged head kinds allowed own overrun sizeOk matched answers
    rw [← impliedPayload_eq kind count] at len
    have sound := judgeReply_sound (tag := tag) (x := x) (st := st) (tagB := tagB) (ep := ep) len
    have ownIff : ¬st.extractLsb' 0 5 ≠ destField x.dest ↔ own := by rw [dest, not_not]; exact station_iff
    have overrunIff : overrun ↔ kind = 0x22#8 ∧ x.kind = .read ∧ x.length.getD 0 < count.toNat + 1 := by
      refine and_congr_right fun e => ?_
      rw [len, impliedPayload_eq, if_pos (.inl e)]
    have answersIff (rk : ReplyKind) : answers rk ↔ replyKindOf kind = some rk ∧ allowedReply (requestKind x) rk = true :=
      and_congr replyKindOf_eq_some allowedReply_iff
    have sizeIff {rk : ReplyKind} (code : replyKindOf kind = some rk) :
        payloadSizeOk rk payload.length = true ↔ sizeOk := by
      have mem := replyKindOf_eq_some.mpr code
      simp only [List.mem_cons, Prod.mk.injEq, List.not_mem_nil, or_false] at mem
      rcases mem with ⟨rfl, rfl⟩ | ⟨rfl, rfl⟩ | ⟨rfl, rfl⟩ | ⟨rfl, rfl⟩ | ⟨rfl, rfl⟩ | ⟨rfl, rfl⟩ | ⟨rfl, rfl⟩ |
        ⟨rfl, rfl⟩ | ⟨rfl, rfl⟩ | ⟨rfl, rfl⟩ <;> simp [sizeOk, payloadSizeOk]
    refine ⟨fun rest short => ?early, fun rest long => ?long', fun c₁ c₂ crc => ?crc', fun other => ?other',
      fun mine over' => ?overrun, fun mine fits rk ans size mat => ?reply, fun mine fits bad => ?unexpected⟩
    case early => exact judgeReply_early (by rw [← len]; exact short)
    case long' => exact judgeReply_long (by rw [← len]; exact long)
    case crc' => exact (judgeReply_whole len c₁ c₂).trans (if_pos fun e => crc e.symm)
    case other' => exact sound.trans (if_pos (not_not.mp fun e => other (ownIff.mp e)))
    case overrun =>
      exact (sound.trans (if_neg (ownIff.mpr mine))).trans (congrArg _ (judgeContent_overrun (overrunIff.mp over')))
    case reply =>
      obtain ⟨code, allow⟩ := (answersIff rk).mp ans
      refine (sound.trans (if_neg (ownIff.mpr mine))).trans (congrArg _ ?_)
      rw [judgeContent_reply (fun e => fits (overrunIff.mpr e)) ⟨code, allow, mat.1, mat.2, (sizeIff code).mpr size⟩,
        reasonOfCode_eq]
      rfl
    case unexpected =>
      refine (sound.trans (if_neg (ownIff.mpr mine))).trans (congrArg _
        (judgeContent_unexpected (fun e => fits (overrunIff.mpr e)) fun rk h => ?_))
      obtain ⟨code, allow, hasTag, echo, size⟩ := h
      rcases bad with no | no | no
      · exact no rk ((answersIff rk).mpr ⟨code, allow⟩)
      · exact no ((sizeIff code).mp size)
      · exact no ⟨hasTag, echo⟩
  case symbols =>
    intro byte seen
    have bytes : byteSyms = byte := funext byteSyms_eq
    rw [← bytes]
    have seenEq (l : List LineSym) : seen l = (bs.flatMap byteSyms).map some ++ (l.map some ++ rest) := by
      simp only [seen, bytes, List.map_append, List.append_assoc]
    have early {l : List LineSym} (h : (atByte bs).run (l.map some ++ rest) = .early) :
        receivedRow (seen l) = some .earlyFramingFault := by
      rw [seenEq]
      exact receivedRow_early ((run_bytes bs _).trans h)
    have partialRun {j : Nat} (hj : j ≤ 8) (more : List LineSym) := run_partial bs b hj (more.map some ++ rest)
    refine ⟨?fin, fun hy => ?level, early rfl, early rfl, fun lo hi hy => early ?inside, early ?badStop, ?quietEarly, ?quiet,
      fun fits none => ?start, fun out none => ?expiry, ?coming⟩
    case fin =>
      rw [seenEq, receivedRow_bytes]
      rfl
    case level => rcases hy with rfl | rfl <;> exact early rfl
    case inside =>
      obtain ⟨j, rfl⟩ : ∃ j, k = j + 1 := ⟨k - 1, by omega⟩
      rw [List.map_append, List.append_assoc, partialRun (by omega)]
      exact run_level bs _ hy 0 rest
    case badStop =>
      have all : (byteBits b).take 8 = byteBits b := List.take_of_length_le (by simp [byteBits_length])
      rw [List.map_append, List.append_assoc, partialRun (j := 8) (by omega), all]
      exact run_badStop bs b 0 rest
    case quietEarly =>
      obtain ⟨r, quiet, run⟩ := run_bytes_partial bs b k
      rw [List.append_assoc]
      exact receivedRow_early ((run _).trans (run_longQuiet quiet rest))
    case quiet =>
      obtain ⟨r, quiet, run⟩ := run_bytes_partial bs b k
      have goesOn := run_quiet r (k := min k 20) (by omega) []
      rw [List.append_nil] at goesOn
      unfold receivedRow
      erw [run, goesOn]
      rfl
    case start =>
      have all : ([Option.none, Option.none] ++ rest ++ [some LineSym.high, some .low, some .one, some .zero]).take window =
          [Option.none, Option.none] ++ rest ++ [some LineSym.high, some .low, some .one, some .zero] :=
        List.take_of_length_le (by simp; omega)
      unfold awaitRow
      rw [all, if_pos]
      simp only [List.cons_append, List.nil_append, List.drop_succ_cons, List.drop_zero]
      rw [startComplete_append (not_high_of_none none)]
      rfl
    case expiry =>
      unfold awaitRow
      rw [if_neg, if_pos out]
      rw [startComplete_none fun z hz => none z (List.mem_of_mem_take (List.mem_of_mem_drop hz))]
      exact Bool.false_ne_true
    case coming =>
      intro coming quiet
      refine ⟨fun fits => ?whole, fun j => ⟨fun short out => ?cut, fun begun inside => ?begun⟩⟩
      case whole =>
        have all : (coming 12).take window = coming 12 := List.take_of_length_le (by simp [coming]; omega)
        unfold awaitRow
        rw [all, if_pos]
        simp only [coming, List.cons_append, List.nil_append, List.drop_succ_cons, List.drop_zero]
        rw [startComplete_append (not_high_of_none quiet)]
        rfl
      case cut =>
        unfold awaitRow
        rw [if_neg, if_pos out]
        erw [startComplete_cut quiet (.inr short)]
        exact Bool.false_ne_true
      case begun =>
        unfold awaitRow
        rw [if_neg, if_neg (by omega)]
        erw [startComplete_cut quiet (.inl begun)]
        exact Bool.false_ne_true

end Sys2Proof.Machine
end

section
/-! PROOF. Words of fields as numbers, and what a read of the register window answers from the views. -/

namespace Sys2Proof.Machine

/-! ## Words of fields -/

/-- A field as its lowest bit, its width and its value. -/
def fieldOf (f : Nat × Nat × Nat) : Word := field f.1 f.2.1 f.2.2

/-- The value of a field at its place. -/
def placed (f : Nat × Nat × Nat) : Nat := f.2.2 % 2 ^ f.2.1 * 2 ^ f.1

/-- The fields stand in ascending places, from `lo` on, and do not overlap. -/
def apart : Nat → List (Nat × Nat × Nat) → Bool
  | _, [] => true
  | lo, f :: l => decide (lo ≤ f.1) && apart (f.1 + f.2.1) l

theorem flag_eq_field (pos : Nat) (b : Bool) : flag pos b = field pos 1 (if b then 1 else 0) := by
  cases b <;> simp [flag, field]

/-- Below its place a field joins a number by addition. -/
theorem or_field {acc pos : Nat} (width v : Nat) (h : acc < 2 ^ pos) :
    BitVec.ofNat 32 acc ||| field pos width v = BitVec.ofNat 32 (acc + v % 2 ^ width * 2 ^ pos) := by
  have sum : acc + v % 2 ^ width * 2 ^ pos = (v % 2 ^ width) <<< pos ||| acc := by
    rw [← Nat.shiftLeft_add_eq_or_of_lt h, Nat.shiftLeft_eq, Nat.add_comm]
  rw [sum, field]
  apply BitVec.eq_of_getLsbD_eq
  intro i hi
  simp only [BitVec.getLsbD_or, BitVec.getLsbD_shiftLeft, BitVec.getLsbD_ofNat, Nat.testBit_or, Nat.testBit_shiftLeft, hi,
    decide_true, Bool.true_and]
  by_cases low : i < pos
  · simp [low, Nat.not_le.mpr low]
  · have sub : i - pos < 32 := by omega
    simp [low, Nat.not_lt.mp low, sub, Bool.or_comm]

theorem foldl_fields {l : List (Nat × Nat × Nat)} {lo acc : Nat} (h : apart lo l = true) (hacc : acc < 2 ^ lo) :
    (l.map fieldOf).foldl (· ||| ·) (BitVec.ofNat 32 acc) = BitVec.ofNat 32 (acc + (l.map placed).sum) := by
  induction l generalizing lo acc with
  | nil => simp
  | cons f l ih =>
    obtain ⟨pos, width, v⟩ := f
    simp only [apart, Bool.and_eq_true, decide_eq_true_eq] at h
    have below : acc < 2 ^ pos := Nat.lt_of_lt_of_le hacc (Nat.pow_le_pow_right (by omega) h.1)
    have next : acc + v % 2 ^ width * 2 ^ pos < 2 ^ (pos + width) := by
      have small : v % 2 ^ width + 1 ≤ 2 ^ width := Nat.mod_lt _ (Nat.two_pow_pos width)
      calc acc + v % 2 ^ width * 2 ^ pos < (v % 2 ^ width + 1) * 2 ^ pos := by rw [Nat.add_mul]; omega
        _ ≤ 2 ^ width * 2 ^ pos := Nat.mul_le_mul_right _ small
        _ = 2 ^ (pos + width) := by rw [Nat.pow_add, Nat.mul_comm]
    rw [List.map_cons, List.foldl_cons]
    simp only [fieldOf] at *
    rw [or_field width v below, ih h.2 next, List.map_cons, List.sum_cons]
    simp only [placed, Nat.add_assoc]

/-- A word of fields that do not overlap is the sum of their values at their places. -/
theorem word_fields {l : List (Nat × Nat × Nat)} (h : apart 0 l = true) :
    BitVec.ofNat 32 (l.map placed).sum = word (l.map fieldOf) := by
  have fold := foldl_fields (acc := 0) h (by simp)
  rw [Nat.zero_add] at fold
  exact fold.symm

/-! ## Codes as places in their lists (R177, R178) -/

theorem LineState.code_eq (k : LineState) :
    k.code = [LineState.off, .wake, .idle, .sending, .await, .receiving, .guard, .slots, .break].idxOf k := by
  cases k <;> rfl

theorem BreakCause.code_eq (k : BreakCause) :
    k.code = [BreakCause.contention, .lineFault, .stuckLine, .linkReset].idxOf k := by cases k <;> rfl

theorem StnState.code_eq (k : StnState) :
    k.code = [StnState.vacant, .present, .suspect, .held, .recovering, .silent, .resync, .disabled].idxOf k := by
  cases k <;> rfl

theorem CensusStatus.code_eq (k : CensusStatus) :
    k.code = [CensusStatus.ok, .protocol, .retryExhausted, .linkReset].idxOf k := by cases k <;> rfl

theorem RecAction.code_eq (k : RecAction) : k.code = 1 + [RecAction.purge, .reset].idxOf k := by cases k <;> rfl

theorem XState.code_eq (k : XState) :
    k.code = 1 + [XState.filling, .waiting, .onLine, .backoff, .parked, .complete, .draining].idxOf k := by
  cases k <;> rfl

theorem Phase.code_eq (k : Phase) : k.code = [Phase.issue, .collect, .abandon].idxOf k := by cases k <;> rfl

theorem Owner.code_eq (k : Owner) : k.code = [Owner.window, .list .A, .list .B, .internal].idxOf k := by
  match k with
  | .window | .list .A | .list .B | .internal => rfl

theorem Kind.code_eq (k : Kind) :
    k.code = [Kind.write, .read, .signal, .bcastWrite, .census, .fetchEvent, .purge, .stationReset].idxOf k := by
  cases k <;> rfl

theorem FillMark.code_eq (k : FillMark) : k.code = 1 + [FillMark.linkReset, .stationLost, .cancelled].idxOf k := by
  cases k <;> rfl

theorem ChanState.code_eq (k : ChanState) :
    k.code = [ChanState.idle, .running, .paused, .stopping, .halted, .aborting].idxOf k := by cases k <;> rfl

theorem HaltCause.code_eq (k : HaltCause) : k.code = 1 + [HaltCause.failed, .memoryFault, .linkReset].idxOf k := by
  cases k <;> rfl

theorem Cancel.code_eq (k : Cancel) : k.code = [Cancel.none, .stop, .abort].idxOf k := by cases k <;> rfl

theorem FaultOp.code_eq (k : FaultOp) : k.code = [FaultOp.fetch, .fill, .drain].idxOf k := by cases k <;> rfl

theorem Status.code_eq (k : Status) :
    k.code = if k = .discarded then 14
      else [Status.ok, .short, .refused, .busyExhausted, .retryExhausted, .protocol, .stationLost, .stationRestarted,
        .deferExpired, .cancelled, .linkReset, .notPresent, .invalid].idxOf k := by cases k <;> rfl

theorem FaultKind.code_eq (k : FaultKind) :
    k.code = 8 + [FaultKind.timeout, .crc, .framing, .contention, .wrongStation, .overrun, .unexpected].idxOf k := by
  cases k <;> rfl

theorem Reason.code_eq (r : Reason) :
    r.code = 1 + [Reason.badAddress, .badLength, .readOnly, .unsupported, .stationFault].idxOf r := by cases r <;> rfl

/-! ## Reads -/

theorem exec_viewSnapshot {offset : BitVec 12} (h : offset.toNat % 4 = 0) (s : State) :
    exec (.viewSnapshot offset) s = .next
      { s with
        views := (s.takeCopy offset.toNat).views
        bus := { s.bus with answer := some (.doneWord ((s.takeCopy offset.toNat).readWord offset.toNat)) } } := by
  have copy : s.takeCopy offset.toNat = { s with views := (s.takeCopy offset.toNat).views } := by
    unfold State.takeCopy
    split <;> rfl
  show execViewSnapshot offset s = _
  rw [execViewSnapshot, if_pos h]
  dsimp only
  rw [copy]
  rfl

/-- An offset that is in no row of the map reads 0 and takes no copy (R171). -/
theorem readWord_unmapped {k : Nat} (h : k ∉ (writableOffsets.map BitVec.toNat) ++
    [0x000, 0x048, 0x050, 0x054, 0x064, 0x068, 0x074, 0x078, 0x080, 0x090, 0x094, 0x0A0, 0x0A8, 0x0AC, 0x0B0, 0x0B4, 0x0C0,
      0x104, 0x108, 0x10C, 0x110, 0x114, 0x118, 0x124, 0x128, 0x12C, 0x130, 0x134, 0x138]) (s : State) :
    s.readWord k = 0#32 ∧ s.takeCopy k = s := by
  constructor
  · unfold State.readWord
    split <;> first | rfl | exact absurd (by decide) h
  · unfold State.takeCopy
    split <;> first | rfl | exact absurd (by decide) h

end Sys2Proof.Machine
end

section
/-! PROOF. The views: their layouts, and the reads that copy them. -/

namespace Sys2Proof.Machine

/-- Two words of fields that stand apart, as the sums of their fields at their places. -/
theorem two_words {a b : List Word} {l m : List (Nat × Nat × Nat)} (ha : a = l.map fieldOf) (hb : b = m.map fieldOf)
    (la : apart 0 l = true) (lb : apart 0 m = true) :
    (#v[word a, word b] : Vector Word 2) =
      #v[BitVec.ofNat 32 (l.map placed).sum, BitVec.ofNat 32 (m.map placed).sum] := by
  rw [word_fields la, word_fields lb, ha, hb]

/-- The detail code by the lists of reasons and fault kinds (R177). -/
theorem detailCode_reason (r : Reason) :
    detailCode (some (.reason r)) =
      1 + [Reason.badAddress, .badLength, .readOnly, .unsupported, .stationFault].idxOf r := r.code_eq

theorem detailCode_fault (k : FaultKind) :
    detailCode (some (.fault k)) =
      8 + [FaultKind.timeout, .crc, .framing, .contention, .wrongStation, .overrun, .unexpected].idxOf k := k.code_eq

theorem destNumber_station (n : Stn) : destNumber (.station n) = addrOf n := by
  show (BitVec.ofNat 5 (addrOf n)).toNat = addrOf n
  rw [BitVec.toNat_ofNat, Nat.mod_eq_of_lt (addrOf_lt n)]

/-- Four bytes as a word of four fields (R178). -/
theorem wordOfBytes_eq (l : List Byte) :
    wordOfBytes l = word ([(0, 8, (l.getD 0 0#8).toNat), (8, 8, (l.getD 1 0#8).toNat), (16, 8, (l.getD 2 0#8).toNat),
      (24, 8, (l.getD 3 0#8).toNat)].map fieldOf) := by
  have join {w : Nat} (hi : BitVec w) (lo : Byte) : (hi ++ lo).toNat = hi.toNat * 256 + lo.toNat := by
    rw [BitVec.toNat_append, ← Nat.shiftLeft_add_eq_or_of_lt lo.isLt, Nat.shiftLeft_eq]
  have at' (pos : Nat) (b : Byte) {k : Nat} (h : 2 ^ pos = k) : placed (pos, 8, b.toNat) = b.toNat * k := by
    rw [placed, h, Nat.mod_eq_of_lt b.isLt]
  -- the places stay variables while the sum is taken, so that no number of their size is computed
  obtain ⟨k, hk⟩ : ∃ k, 2 ^ 24 = k := ⟨_, rfl⟩
  rw [← word_fields rfl]
  simp only [List.map_cons, List.map_nil, List.sum_cons, List.sum_nil, at' 0 _ (k := 1) rfl, at' 8 _ (k := 256) rfl,
    at' 16 _ (k := 65536) rfl, at' 24 _ hk]
  apply BitVec.eq_of_toNat_eq
  refine (join _ _).trans ?_
  rw [join, join, BitVec.toNat_ofNat]
  have value : k = 16777216 := hk.symm
  rw [value, Nat.mod_eq_of_lt]
  · omega
  · have b0 := (l.getD 0 0#8).isLt
    have b1 := (l.getD 1 0#8).isLt
    have b2 := (l.getD 2 0#8).isLt
    have b3 := (l.getD 3 0#8).isLt
    omega

/-- Settles O24: the reads by `exec_viewSnapshot`; each view's fields stand apart, so that `word_fields` gives their sum, and
each code is its place in the list of the statement. -/
theorem viewSnapshot : Obligations.ViewSnapshot := by
  refine ⟨fun s => ?reads, fun s n tag c => ?layouts⟩
  case reads =>
    intro reads copies
    have copied {offset : BitVec 12} (h : offset.toNat % 4 = 0) := exec_viewSnapshot h s
    refine ⟨fun offset h => copied h, copied rfl, copied rfl, copied rfl, copied rfl, copied rfl, copied rfl, copied rfl,
      copied rfl, copied rfl, copied rfl, copied rfl, copied rfl, copied rfl, copied rfl, copied rfl, copied rfl, copied rfl,
      copied rfl, copied rfl, copied rfl, fun offset h noWrite noRow => ?unmapped, fun offset h => ?misaligned, rfl⟩
    case unmapped =>
      have out : offset.toNat ∉ writableOffsets.map BitVec.toNat := fun mem => by
        obtain ⟨o, ho, e⟩ := List.mem_map.mp mem
        exact noWrite (BitVec.eq_of_toNat_eq e ▸ ho)
      obtain ⟨zero, same⟩ := readWord_unmapped (fun mem => (List.mem_append.mp mem).elim out noRow) s
      refine (copied h).trans ?_
      rw [same, zero]
    case misaligned =>
      show execViewSnapshot offset s = _
      rw [execViewSnapshot, if_neg h]
      rfl
  case layouts =>
    intro fields bit status faultKind detail l e ch
    have statusEq : Status.code = status := funext Status.code_eq
    have detailEq : detailCode = detail := funext fun d => by
      match d with
      | none => rfl
      | some (.reason r) => exact detailCode_reason r
      | some (.fault k) => exact detailCode_fault k
    have kindEq : FaultKind.code = faultKind := funext FaultKind.code_eq
    have markEq : FillMark.code = fun k => 1 + [FillMark.linkReset, .stationLost, .cancelled].idxOf k := funext FillMark.code_eq
    have haltEq : HaltCause.code = fun k => 1 + [HaltCause.failed, .memoryFault, .linkReset].idxOf k := funext HaltCause.code_eq
    have causeEq : BreakCause.code = fun k => [BreakCause.contention, .lineFault, .stuckLine, .linkReset].idxOf k :=
      funext BreakCause.code_eq
    refine ⟨?line, ?dir, fun free => ?xtFree, fun x hx => ?xt, fun empty => ?noEvent, fun v q hq => ?event, ?list, ?window⟩
    case line =>
      refine two_words ?_ ?_ rfl rfl <;> simp only [flag_eq_field, LineState.code_eq, causeEq, kindEq]
      case refine_1 =>
        cases s.line.job with
        | none => rfl
        | some j => cases j <;> rfl
      case refine_2 => rfl
    case dir =>
      have recovery : (s.recoveryOf n).map RecAction.code =
          (s.dir.recovery.find? fun r => r.1 == n).map fun r => 1 + [RecAction.purge, .reset].idxOf r.2 := by
        rw [State.recoveryOf, Option.map_map]
        exact congrArg (Option.map · _) (funext fun r => r.2.code_eq)
      refine two_words ?_ ?_ rfl rfl <;> simp only [flag_eq_field, StnState.code_eq, CensusStatus.code_eq, recovery]
      case refine_1 => cases (s.entry n).epoch <;> simp only [e] <;> rfl
      case refine_2 => cases (s.entry n).cls <;> cases (s.entry n).revision <;> rfl
    case xtFree => rw [State.xtView, free]; rfl
    case xt =>
      rw [State.xtView, hx]
      refine two_words ?_ ?_ rfl rfl <;>
        simp only [flag_eq_field, XState.code_eq, Phase.code_eq, Owner.code_eq, Kind.code_eq, statusEq, detailEq,
          markEq]
      case refine_1 => 
        cases hd : x.dest
        case broadcast => rfl
        case station m => rw [destNumber_station]; rfl
      case refine_2 => rfl
    case noEvent => rw [State.eventHead, empty]; rfl
    case event =>
      intro detailWord
      have bytes (i : Nat) : wordOfBytes (v.detail.drop (4 * i)) = detailWord i := by
        rw [wordOfBytes_eq, ← word_fields rfl]
        simp only [List.getD_eq_getElem?_getD, List.getElem?_drop]
        rfl
      have head := word_fields (l := [(0, 16, v.code.toNat), (16, 5, addrOf v.station), (21, 4, v.epoch.toNat),
        (25, 4, v.detail.length), (31, 1, 1)]) rfl
      rw [State.eventHead, hq]
      show (#v[_, wordOfBytes (v.detail.drop (4 * 0)), wordOfBytes (v.detail.drop (4 * 1)),
        wordOfBytes (v.detail.drop (4 * 2))] : Vector Word 4) = _
      rw [bytes, bytes, bytes]
      exact congrArg (fun w : Word => (#v[w, _, _, _] : Vector Word 4)) head.symm
    case list =>
      have first := (word_fields (l := [(0, 3, ch.state.code), (3, 2, (ch.haltCause.map HaltCause.code).getD 0),
        (5, 2, ch.cancel.code), (8, 4, ch.queue.length), (12, 1, bit ch.pendingDesc.isSome),
        (13, 1, bit (s.table.waitList.any fun w => w.1 == c)), (14, 1, bit ch.endMark), (15, 1, bit ch.memFault.isSome),
        (16, 2, (ch.memFault.map fun f => f.op.code).getD 0)]) rfl)
      simp only [ChanState.code_eq, haltEq, Cancel.code_eq, FaultOp.code_eq] at first
      rw [State.listState]
      simp only [flag_eq_field, ChanState.code_eq, haltEq, Cancel.code_eq, FaultOp.code_eq]
      exact congrArg (fun w : Word => (#v[w, _, _] : Vector Word 3)) first.symm
    case window =>
      intro fault hold
      refine two_words ?_ ?_ rfl rfl
      case refine_1 =>
        simp only [flag_eq_field, statusEq, detailEq, hold]
        cases s.window.hold <;> rfl
      case refine_2 =>
        simp only [hold]
        cases s.window.hold <;> rfl

end Sys2Proof.Machine
end

section
/-! PROOF. The parameter registers: what a write takes, what a read answers, and which row an access is. -/

namespace Sys2Proof.Machine

/-! ## Writes -/

theorem bitsOf_eq (v : Word) (pos width : Nat) : bitsOf v pos width = v.toNat / 2 ^ pos % 2 ^ width := by
  rw [bitsOf, BitVec.extractLsb'_toNat, Nat.shiftRight_eq_div_pow]

theorem addrOf_selectStn (v : Nat) : addrOf (selectStn v) = max 1 (min 30 v) := by
  show max 1 (min 30 v) - 1 + 1 = _
  omega

theorem selectTag_val (v : Nat) : (selectTag v).val = min 31 v := by
  show max 0 (min 31 v) = _
  omega

/-- A write to a register that is not LIST_x_BASE (R172). -/
theorem exec_parameterWrite {p : ParamReg} (hp : ∀ c, p ≠ .listBase c) (v : Word) (s : State) :
    exec (.parameterWrite p v) s = .next { s with regs := s.regs.written p v, bus := { s.bus with answer := some .done } } := by
  cases p with
  | listBase c => exact absurd rfl (hp c)
  | replyWindow | guardTime | retryConfig | busyConfig | faultThresholds | deferDeadline | resetHold | windowHold
  | censusMask | commandMask | dirSelect | xtSelect | unheld _ => rfl

theorem exec_parameterWrite_listBase (c : Chan) (v : Word) (s : State) :
    exec (.parameterWrite (.listBase c) v) s = .next
      { s.setChan c { s.chan c with base := v } with bus := { s.bus with answer := some .done } } := by
  cases c <;> rfl

/-! ## Reads -/

/-- A field at bit 0 shows a number that fits it. -/
theorem field_zero_of_lt {width k : Nat} (h : k < 2 ^ width) : field 0 width k = BitVec.ofNat 32 k := by
  rw [field, Nat.mod_eq_of_lt h, BitVec.shiftLeft_zero]

/-- A read whose offset is word 0 of no view. -/
theorem exec_viewSnapshot_plain {offset : BitVec 12} {s : State} {w : Word} (h : offset.toNat % 4 = 0)
    (same : s.takeCopy offset.toNat = s) (e : s.readWord offset.toNat = w) :
    exec (.viewSnapshot offset) s = .next { s with bus := { s.bus with answer := some (.doneWord w) } } := by
  rw [exec_viewSnapshot h, same, e]

theorem linkConfig_eq (r : Regs) : r.linkConfig =
    BitVec.ofNat 32 (r.rate.toNat + 16 * (if r.windowFirst then 1 else 0) + 32 * if r.autoCensus then 1 else 0) := by
  have sum := word_fields (l := [(0, 2, r.rate.toNat), (4, 1, if r.windowFirst then 1 else 0),
    (5, 1, if r.autoCensus then 1 else 0)]) rfl
  simp only [Regs.linkConfig, flag_eq_field]
  refine sum.symm.trans (congrArg _ ?_)
  have := r.rate.isLt
  cases r.windowFirst <;> cases r.autoCensus <;> simp [placed] <;> omega

theorem retryConfig_eq {r : Regs} (h : r.InRange) : r.retryConfig = BitVec.ofNat 32 (r.retryLimit + 256 * r.retryGap) := by
  have sum := word_fields (l := [(0, 3, r.retryLimit), (8, 8, r.retryGap)]) rfl
  refine sum.symm.trans (congrArg _ ?_)
  have := h.retryLimit
  have := h.retryGap
  simp [placed]
  omega

theorem busyConfig_eq {r : Regs} (h : r.InRange) : r.busyConfig = BitVec.ofNat 32 (r.busyLimit + 256 * r.busyGap) := by
  have sum := word_fields (l := [(0, 8, r.busyLimit), (8, 8, r.busyGap)]) rfl
  refine sum.symm.trans (congrArg _ ?_)
  have := h.busyLimit
  have := h.busyGap
  simp [placed]
  omega

theorem faultThresholds_eq {r : Regs} (h : r.InRange) : r.faultThresholds =
    BitVec.ofNat 32 (r.suspectThreshold + 256 * r.silentThreshold + 65536 * r.lineFaultLimit) := by
  have sum := word_fields (l := [(0, 4, r.suspectThreshold), (8, 4, r.silentThreshold), (16, 3, r.lineFaultLimit)]) rfl
  refine sum.symm.trans (congrArg _ ?_)
  have := h.suspectThreshold
  have := h.silentThreshold
  have := h.lineFaultLimit
  simp [placed]
  omega

theorem eventLevel_eq {s : State} (room : EventRoom s) (quotas : QuotasHold s) : s.eventLevel =
    BitVec.ofNat 32 (s.events.queue.length + 256 * s.countX fun x => x.kind == .fetchEvent) := by
  have sum := word_fields (l := [(0, 5, s.events.queue.length), (8, 2, s.countX fun x => x.kind == .fetchEvent)]) rfl
  refine sum.symm.trans (congrArg _ ?_)
  have := quotas.fetch
  unfold EventRoom at room
  simp [placed]
  omega

/-- CAUSE_PENDING, with no edge cause at the places of the conditions (R167). -/
theorem pendingCauses_eq (s : State) : s.pendingCauses =
    s.irq.edge ||| BitVec.ofNat 32 (256 * (if decide (s.regs.eventThreshold ≤ s.events.queue.length) then 1 else 0) +
      512 * if s.dir.changes != 0#32 then 1 else 0) := by
  rw [State.pendingCauses, State.eventsCondition, State.stationsCondition, BitVec.or_assoc]
  congr 1
  cases decide (s.regs.eventThreshold ≤ s.events.queue.length) <;> cases s.dir.changes != 0#32 <;> rfl

/-! ## Rows -/

/-- The command of a code number. -/
theorem decodeCommand_of {w : Word} {code : Nat} (h : w.toNat % 256 = code) :
    decodeCommand w = commandOf (BitVec.ofNat 8 code) (commandFields w) := by
  have low : w.extractLsb' 0 8 = BitVec.ofNat 8 code := by
    apply BitVec.eq_of_toNat_eq
    rw [BitVec.extractLsb'_toNat, BitVec.toNat_ofNat, ← h]
    simp
  rw [decodeCommand, low]

theorem decodeCommand_unknown {w : Word} (h : w.toNat % 256 ∉ [0x01, 0x02, 0x03, 0x04, 0x05, 0x08, 0x09, 0x0A, 0x0B, 0x0C,
    0x10, 0x11, 0x12, 0x13, 0x14, 0x18, 0x19, 0x1C, 0x1D]) :
    decodeCommand w = .unknownCommand (w.extractLsb' 0 8) (commandFields w) := by
  have low : (w.extractLsb' 0 8).toNat = w.toNat % 256 := by
    rw [BitVec.extractLsb'_toNat]
    simp
  rw [← low] at h
  unfold decodeCommand commandOf
  split
  case h_20 => rfl
  all_goals
    rename_i code
    rw [code] at h
    exact absurd (by decide) h

/-- A write to an offset that takes none (R171). -/
theorem registerWrite_unheld {offset : BitVec 12} (h4 : offset.toNat % 4 = 0) (h : offset ∉ writableOffsets) (w : Word) :
    registerWrite offset 15#4 w = .parameterWrite (.unheld offset) w := by
  have out {k : Nat} (hk : offset.toNat = k) : BitVec.ofNat 12 k ∉ writableOffsets := by
    rwa [← hk, BitVec.ofNat_toNat, BitVec.setWidth_eq]
  have whole : registerWhole offset 15#4 = true := by simp [registerWhole, h4]
  have row : paramAt offset = .unheld offset := by
    unfold paramAt
    split
    case h_15 => rfl
    all_goals
      rename_i at'
      exact absurd (by decide) (out at')
  rw [registerWrite, if_pos whole, ← row]
  split
  case h_8 => rfl
  all_goals
    rename_i at'
    exact absurd (by decide) (out at')

theorem register_not_whole {offset : BitVec 12} {enables : BitVec 4} (h : enables ≠ 15#4 ∨ offset.toNat % 4 ≠ 0) (w : Word) :
    registerWrite offset enables w = .registerAccessError ∧ registerRead offset enables = .registerAccessError := by
  have not : ¬ registerWhole offset enables = true := by
    simp only [registerWhole, Bool.and_eq_true, beq_iff_eq]
    rintro ⟨all, four⟩
    exact h.elim (· all) (· four)
  rw [registerWrite, registerRead, if_neg not, if_neg not]
  exact ⟨rfl, rfl⟩

/-- Settles O23: each write by `exec_parameterWrite`, each read by `exec_viewSnapshot_plain` with the number the registers'
ranges make the fields show, and each row by computing it. -/
theorem parameterWritesAndReads : Obligations.ParameterWritesAndReads := by
  refine ⟨fun v s => ⟨?threshold, rfl⟩, fun v s => ?writes, fun s range => ?reads, fun w offset enables => ?rows, rfl⟩
  case threshold =>
    have : (if v.toNat = 0 then 1 else min v.toNat 16) = clamp 1 16 v.toNat := by unfold clamp; split <;> omega
    rw [this]
    rfl
  case writes =>
    intro wrote within
    have plain {p : ParamReg} {r : Regs} (hp : ∀ c, p ≠ .listBase c) (e : s.regs.written p v = r) : wrote p r :=
      e ▸ exec_parameterWrite hp v s
    refine ⟨plain (by simp) rfl, plain (by simp) rfl, plain (by simp) ?_, plain (by simp) ?_, plain (by simp) ?_,
      plain (by simp) rfl, plain (by simp) rfl, plain (by simp) rfl, plain (by simp) rfl, plain (by simp) rfl,
      ⟨_, addrOf_selectStn _, plain (by simp) rfl⟩, ⟨_, selectTag_val _, plain (by simp) rfl⟩,
      fun offset => plain (by simp) rfl, fun c => exec_parameterWrite_listBase c v s⟩
    all_goals
      simp only [Regs.written, bitsOf_eq, Nat.reducePow, Nat.div_one]
      rfl
  case reads =>
    intro reads num bit
    have single {offset : BitVec 12} {w : Word} (h : offset.toNat % 4 = 0) (same : s.takeCopy offset.toNat = s)
        (e : s.readWord offset.toNat = w) : reads offset w := exec_viewSnapshot_plain h same e
    have at0 {offset : BitVec 12} {width k : Nat} (h : offset.toNat % 4 = 0) (same : s.takeCopy offset.toNat = s)
        (e : s.readWord offset.toNat = field 0 width k) (fits : k < 2 ^ width) : reads offset (num k) :=
      single h same (e.trans (field_zero_of_lt fits))
    have := range.replyWindow
    have := range.guardTime
    have := range.sweepInterval
    have := range.deferDeadline
    have := range.resetHold
    have := range.rediscoverInterval
    have := range.windowHold
    have := range.eventThreshold
    have := addrOf_lt s.regs.dirSelect
    have := s.regs.xtSelect.isLt
    refine ⟨single rfl rfl rfl, single rfl rfl (linkConfig_eq _), at0 rfl rfl rfl (by omega), at0 rfl rfl rfl (by omega),
      single rfl rfl (retryConfig_eq range), single rfl rfl (busyConfig_eq range), single rfl rfl (faultThresholds_eq range),
      at0 rfl rfl rfl (by omega), at0 rfl rfl rfl (by omega), at0 rfl rfl rfl (by omega), at0 rfl rfl rfl (by omega),
      at0 rfl rfl rfl (by omega), single rfl rfl rfl, single rfl rfl rfl, single rfl rfl rfl, at0 rfl rfl rfl (by omega),
      at0 rfl rfl rfl (by omega), single rfl rfl rfl, at0 rfl rfl rfl (by omega), single rfl rfl rfl, single rfl rfl rfl,
      single rfl rfl rfl, single rfl rfl rfl, single rfl rfl rfl, single rfl rfl rfl, single rfl rfl rfl, single rfl rfl rfl,
      single rfl rfl rfl, fun room quotas => single rfl rfl (eventLevel_eq room quotas),
      fun _ => single rfl rfl (pendingCauses_eq s)⟩
  case rows =>
    intro f spells at'
    have known {code : Nat} {c : Instr} (e : commandOf (BitVec.ofNat 8 code) f = c) : spells code c := fun h =>
      (decodeCommand_of h).trans e
    refine ⟨known rfl, known rfl, known rfl, known rfl, known rfl, known rfl, known rfl, known rfl, known rfl, known rfl,
      known rfl, known rfl, known rfl, known rfl, known rfl, known rfl, known rfl, known rfl, known rfl,
      decodeCommand_unknown, rfl, rfl, rfl, rfl, rfl, rfl, rfl, rfl, rfl, rfl, rfl, rfl, rfl, rfl, rfl, rfl, rfl, rfl, rfl,
      rfl, rfl, fun h4 h => registerWrite_unheld h4 h w, fun h4 => ?_, fun h => register_not_whole h w⟩
    show registerRead offset 15#4 = .viewSnapshot offset
    rw [registerRead, if_pos (by simp [registerWhole, h4])]

end Sys2Proof.Machine
end

section
/-! PROOF. Retirement of queue records, and the ends of a drain. -/

namespace Sys2Proof.Machine

/-! ## Retirement (R144) -/

/-- What a run of retirements takes from the head of the queue and what it leaves of the channel. -/
structure Retires (ch : Channel) (q : List QRec) (gone : List QRec) : Prop where
  queue : q = gone ++ (retireFrom ch q).chan.queue
  written : ∀ r ∈ gone, r.written = true
  stops : ∀ r ∈ (retireFrom ch q).chan.queue.head?, r.written = false
  chan : (retireFrom ch q).chan = { ch with
    queue := (retireFrom ch q).chan.queue, retired := ch.retired + BitVec.ofNat 32 gone.length
    head := (gone.getLast?.map fun r => r.next.getD r.addr).getD ch.head }
  noted : (retireFrom ch q).noted = gone.any (·.irq)
  last : (retireFrom ch q).last = gone.any (·.next.isNone)

theorem retireFrom_nil (ch : Channel) :
    retireFrom ch [] = { chan := { ch with queue := [] }, noted := false, last := false } := rfl

theorem retireFrom_stays {r : QRec} (h : r.written = false) (ch : Channel) (q : List QRec) :
    retireFrom ch (r :: q) = { chan := { ch with queue := r :: q }, noted := false, last := false } := by
  rw [retireFrom, h]
  rfl

theorem retireFrom_goes {r : QRec} (h : r.written = true) (ch : Channel) (q : List QRec) :
    retireFrom ch (r :: q) =
      let out := retireFrom { ch with retired := ch.retired + 1#32, head := r.next.getD r.addr } q
      { chan := out.chan, noted := out.noted || r.irq, last := out.last || r.next.isNone } := by
  rw [retireFrom, if_pos h]

theorem retires (ch : Channel) (q : List QRec) : ∃ gone, Retires ch q gone := by
  induction q generalizing ch with
  | nil => exact ⟨[], rfl, by simp, by simp [retireFrom_nil], by simp [retireFrom_nil], rfl, rfl⟩
  | cons r q ih =>
    cases h : r.written with
    | false =>
      have stays := retireFrom_stays h ch q
      exact ⟨[], by rw [stays]; rfl, by simp, by simpa [stays] using h, by simp [stays], by rw [stays]; rfl, by rw [stays]; rfl⟩
    | true =>
      obtain ⟨gone, queue, written, stops, chan, noted, last⟩ :=
        ih { ch with retired := ch.retired + 1#32, head := r.next.getD r.addr }
      have goes := retireFrom_goes h ch q
      refine ⟨r :: gone, ?_, by simpa [h] using written, by rw [goes]; exact stops, ?_, ?_, ?_⟩
      · rw [goes, List.cons_append]
        exact congrArg _ queue
      · rw [goes]
        dsimp only
        rw [chan]
        have count : ch.retired + 1#32 + BitVec.ofNat 32 gone.length = ch.retired + BitVec.ofNat 32 (r :: gone).length := by
          rw [BitVec.add_assoc, ← BitVec.ofNat_add, List.length_cons, Nat.add_comm]
        rw [count]
        cases gone with
        | nil => rfl
        | cons g gs => simp [List.getLast?_cons]
      · rw [goes]
        dsimp only
        rw [noted, List.any_cons, Bool.or_comm]
      · rw [goes]
        dsimp only
        rw [last, List.any_cons, Bool.or_comm]

/-- The channel after its retirements. -/
def Channel.retire (ch : Channel) : Channel :=
  if (retireFrom ch ch.queue).last && ch.state.isLive then
    { (retireFrom ch ch.queue).chan with state := .idle, cancel := .none }
  else (retireFrom ch ch.queue).chan

theorem retire_eq (s : State) (c : Chan) : s.retire c =
    { s.setChan c (s.chan c).retire with
      irq := { s.irq with
        edge := if (retireFrom (s.chan c) (s.chan c).queue).noted then s.irq.edge ||| causeNote c else s.irq.edge } } := by
  show (if (retireFrom (s.chan c) (s.chan c).queue).noted then (s.setChan c (s.chan c).retire).raise (causeNote c)
    else s.setChan c (s.chan c).retire) = _
  split <;> cases c <;> rfl

theorem chan_retire (s : State) (c : Chan) : (s.retire c).chan c = (s.chan c).retire := by
  rw [retire_eq]
  cases c <;> rfl

/-- What the retirements leave of a channel, by the records that go. -/
theorem Retires.leaves {ch : Channel} {gone : List QRec} (h : Retires ch ch.queue gone) :
    ch.queue = gone ++ ch.retire.queue ∧ (∀ r ∈ ch.retire.queue.head?, r.written = false) ∧
    ch.retire.retired = ch.retired + BitVec.ofNat 32 gone.length ∧
    (∀ r, gone.getLast? = some r → ch.retire.head = r.next.getD r.addr) ∧ ch.retire.portOp = ch.portOp ∧
    ((∃ r ∈ gone, r.next = none) → ch.state.isLive = true → ch.retire.state = .idle) := by
  have same (p : Channel → Prop) (whole : p (retireFrom ch ch.queue).chan)
      (idle : p { (retireFrom ch ch.queue).chan with state := .idle, cancel := .none }) : p ch.retire := by
    rw [Channel.retire]
    split
    · exact idle
    · exact whole
  refine ⟨same (fun out => ch.queue = gone ++ out.queue) h.queue h.queue,
    same (fun out => ∀ r ∈ out.queue.head?, r.written = false) h.stops h.stops, ?_, fun r hr => ?_, ?_, fun last live => ?_⟩
  · refine same (fun out => out.retired = ch.retired + BitVec.ofNat 32 gone.length) ?_ ?_ <;> rw [h.chan]
  · refine same (fun out => out.head = r.next.getD r.addr) ?_ ?_ <;> rw [h.chan, hr] <;> rfl
  · refine same (fun out => out.portOp = ch.portOp) ?_ ?_ <;> rw [h.chan]
  · obtain ⟨r, hr, hn⟩ := last
    have : (retireFrom ch ch.queue).last = true := by
      rw [h.last, List.any_eq_true]
      exact ⟨r, hr, by rw [hn]; rfl⟩
    rw [Channel.retire, this, live]
    rfl

/-! ## What a drain's end goes through -/

theorem free_eq {s : State} {tag : Tag} {x : Exchange} (hx : s.xchg tag = some x) :
    ∃ tb, s.free tag = { s with table := tb } := by
  unfold State.free
  rw [hx]
  dsimp only
  split <;> exact ⟨_, rfl⟩

theorem settleCancel_eq (s : State) (c : Chan) : ∃ k, s.settleCancel c = s.setChan c { s.chan c with cancel := k } := by
  unfold State.settleCancel
  split
  · exact ⟨(s.chan c).cancel, (setChan_chan s c).symm⟩
  · exact ⟨.none, rfl⟩

theorem or_and_causeNote (e : Word) (c : Chan) : (e ||| causeNote c) &&& causeNote c ≠ 0#32 := by
  have absorb : (e ||| causeNote c) &&& causeNote c = causeNote c := by
    ext i
    simp [Bool.and_or_distrib_left, Bool.and_comm]
  rw [absorb]
  cases c <;> decide

/-- The bytes of a drain, for the statuses that have some (R143). -/
theorem drainData_eq (x : Exchange) (res : Result) (buffer : Word) (m : List Host.Cell) :
    drainData x res buffer m = if x.kind = .read ∧ (res.status = .ok ∨ res.status = .short) then
      (List.range res.replyLength).map fun i => (buffer + BitVec.ofNat 32 i, readUnit x.units m i) else [] := by
  have : (!res.status.isFailure) = true ↔ res.status = .ok ∨ res.status = .short := by cases res.status <;> decide
  simp only [drainData, this]

/-- The state of a drain's end before its record goes FREE: the bus shows the writes, and the descriptor is written. -/
def State.drained (s : State) (c : Chan) (tag : Tag) (x : Exchange) (res : Result) (r : QRec) : State :=
  ({ s.endOp c with bus := { s.bus with
      data := drainData x res r.buffer s.store, status := some (statusAddr r.addr, statusWord res) } }).modChan c fun ch =>
    ch.mapQ (QRec.isOf tag) fun r => { r with written := true }

theorem exec_drainEnd {s : State} {c : Chan} {tag : Tag} {x : Exchange} {res : Result} {r : QRec}
    (op : (s.chan c).portOp = some (.drain tag)) (hx : s.xchg tag = some x) (hr : (s.chan c).recOf tag = some r)
    (hres : x.result = some res) :
    exec (.drainEnd c) s = .next ((((s.drained c tag x res r).free tag).settleCancel c).retire c).recount := by
  show execDrainEnd c s = _
  rw [execDrainEnd, op]
  dsimp only
  rw [hx, hr]
  dsimp only
  rw [hres]
  cases c <;> rfl

theorem chan_drained (s : State) (c : Chan) (tag : Tag) (x : Exchange) (res : Result) (r : QRec) :
    (s.drained c tag x res r).chan c = { s.chan c with
      portOp := none
      queue := (s.chan c).queue.map fun r' =>
        if r'.tag = some tag ∧ r'.written = false ∧ r'.faulted = false then { r' with written := true } else r' } := by
  have isOf (r' : QRec) : r'.isOf tag = true ↔ r'.tag = some tag ∧ r'.written = false ∧ r'.faulted = false := by
    simp [QRec.isOf, and_assoc]
  have mapped (ch : Channel) : ch.mapQ (QRec.isOf tag) (fun r => { r with written := true }) = { ch with
      queue := ch.queue.map fun r' =>
        if r'.tag = some tag ∧ r'.written = false ∧ r'.faulted = false then { r' with written := true } else r' } := by
    simp only [Channel.mapQ, isOf]
  rw [State.drained, chan_modChan_same, mapped]
  cases c <;> rfl

/-- Settles O50: the drained state loses the record, whose exchange was finished, so the counts stay; the retirements are
those of `retires`. -/
theorem drainEnd : Obligations.DrainEnd := by
  intro s c tag x res r counts op hx st owner hres hr
  let d := s.drained c tag x res r
  have table : d.table = s.table := by cases c <;> rfl
  have xs (t' : Tag) : d.xchg t' = s.xchg t' := xchg_of_table table t'
  have hd : d.xchg tag = some x := (xs tag).trans hx
  obtain ⟨tb, freed⟩ := free_eq hd
  obtain ⟨k, settled⟩ := settleCancel_eq (d.free tag) c
  let w := (d.free tag).settleCancel c
  let ch : Channel := { d.chan c with cancel := k }
  have chan : w.chan c = ch := by
    show ((d.free tag).settleCancel c).chan c = _
    rw [settled, chan_setChan_same, freed]
    cases c <;> rfl
  have whole : w.retire c = { s.setChan c ch.retire with
      table := tb
      bus := { s.bus with data := drainData x res r.buffer s.store, status := some (statusAddr r.addr, statusWord res) }
      irq := { s.irq with
        edge := if (retireFrom ch ch.queue).noted then s.irq.edge ||| causeNote c else s.irq.edge } } := by
    rw [retire_eq, chan]
    show State.mk _ _ _ _ _ _ _ _ _ _ _ _ _ _ _ _ _ = _
    have settled : w = _ := settled
    rw [settled, freed]
    cases c <;> rfl
  obtain ⟨gone, h⟩ := retires ch ch.queue
  obtain ⟨queue, stops, retired, head, port, idle⟩ := h.leaves
  have chanEq : ch = { s.chan c with
      portOp := none, cancel := k
      queue := (s.chan c).queue.map fun r' =>
        if r'.tag = some tag ∧ r'.written = false ∧ r'.faulted = false then { r' with written := true } else r' } := by
    show { (s.drained c tag x res r).chan c with cancel := k } = _
    rw [chan_drained]
  have last : (w.retire c).chan c = ch.retire := by
    rw [chan_retire, chan]
  have final : (w.retire c).recount = w.retire c := by
    refine recount_self ?_
    have agree : CountsAgree (d.free tag) :=
      countsAgree_free (counts.of_same (by cases c <;> rfl) table) hd (by simp [Exchange.live, st])
    have dir : (w.retire c).dir = s.dir := by rw [whole]; cases c <;> rfl
    have same : (w.retire c).table = tb := by rw [whole]
    refine agree.of_same (dir.trans ?_) (same.trans ?_) <;> rw [freed]
    cases c <;> rfl
  have xchg (t' : Tag) : (w.retire c).xchg t' = if t' = tag then none else s.xchg t' := by
    rw [← xs, ← xchg_free]
    exact xchg_of_table (by rw [whole, freed]) t'
  refine ⟨w.retire c, (exec_drainEnd op hx hr hres).trans (congrArg _ final), (xchg tag).trans (if_pos rfl),
    fun t' h => (xchg t').trans (if_neg h), by rw [whole]; rfl, by rw [whole]; exact drainData_eq .., by rw [whole],
    by rw [last, port, chanEq], by rw [whole]; cases c <;> rfl, by rw [whole]; cases c <;> rfl,
    by rw [whole]; cases c <;> rfl, by rw [whole]; cases c <;> rfl, by rw [whole]; cases c <;> rfl,
    by rw [last]; exact stops, gone, ?_, h.written, ?_, by rw [last]; exact head, ?_, ?_⟩
  · rw [last, ← queue, chanEq]
  · rw [last, retired, chanEq]
  · rintro ⟨r', hr', irq⟩
    have noted : (retireFrom ch ch.queue).noted = true := by
      rw [h.noted, List.any_eq_true]
      exact ⟨r', hr', irq⟩
    rw [whole, noted]
    exact or_and_causeNote _ _
  · intro gone live
    rw [last]
    refine idle gone ?_
    rw [chanEq]
    rcases live with st | st <;> rw [st] <;> rfl

end Sys2Proof.Machine
end

section
/-! PROOF. Intake status writes, fenced NOPs, the ends of a channel, and the fields of the status word. -/

namespace Sys2Proof.Machine

/-! ## The record whose status write is due (R138) -/

theorem QRec.statusDue_iff (r : QRec) :
    r.statusDue = true ↔ r.tag = none ∧ r.finished = true ∧ r.written = false ∧ r.faulted = false := by
  simp [QRec.statusDue, and_assoc]

theorem QRec.openNop_iff (r : QRec) : r.openNop = true ↔ r.tag = none ∧ r.finished = false ∧ r.faulted = false := by
  simp [QRec.openNop, and_assoc]

theorem mapFirst_append {p : QRec → Bool} (f : QRec → QRec) {a b : List QRec} {r : QRec} (ha : ∀ r' ∈ a, p r' = false)
    (hr : p r = true) : mapFirst p f (a ++ r :: b) = a ++ f r :: b := by
  induction a with
  | nil => simp [mapFirst, hr]
  | cons q a ih =>
    simp only [List.mem_cons, forall_eq_or_imp] at ha
    rw [List.cons_append, mapFirst, if_neg (by simp [ha.1]), ih ha.2, List.cons_append]

theorem find?_of_first {p : QRec → Bool} {a b : List QRec} {r : QRec} (ha : ∀ r' ∈ a, p r' = false) (hr : p r = true) :
    (a ++ r :: b).find? p = some r := by
  rw [List.find?_append, List.find?_eq_none.mpr (by simpa using ha), Option.none_or, List.find?_cons_of_pos hr]

/-- The state of an intake status write's end before the channel retires. -/
def State.statusWritten (s : State) (c : Chan) (r : QRec) : State :=
  ({ s.endOp c with bus := { s.bus with
      data := [], status := some (statusAddr r.addr, plainStatusWord (r.status.getD .ok)) } }).modChan c fun ch =>
    ch.mapDue fun r => { r with written := true }

theorem exec_intakeStatusWriteEnd {s : State} {c : Chan} {r : QRec} (op : (s.chan c).portOp = some .statusWrite)
    (hr : (s.chan c).dueRec = some r) : exec (.intakeStatusWriteEnd c) s = .next ((s.statusWritten c r).retire c) := by
  show execIntakeStatusWriteEnd c s = _
  rw [execIntakeStatusWriteEnd, op]
  dsimp only
  rw [hr]
  cases c <;> rfl

/-! ## The fields of a word, read back -/

/-- No two fields of the list share a bit. -/
def separate : List (Nat × Nat × Nat) → Bool
  | [] => true
  | f :: l => (l.all fun g => decide (f.1 + f.2.1 ≤ g.1) || decide (g.1 + g.2.1 ≤ f.1)) && separate l

theorem getLsbD_foldl_or (l : List Word) (acc : Word) (i : Nat) :
    (l.foldl (· ||| ·) acc).getLsbD i = (acc.getLsbD i || l.any (·.getLsbD i)) := by
  induction l generalizing acc with
  | nil => simp
  | cons w l ih => rw [List.foldl_cons, ih, List.any_cons, BitVec.getLsbD_or, Bool.or_assoc]

theorem getLsbD_word (l : List Word) (i : Nat) : (word l).getLsbD i = l.any (·.getLsbD i) := by
  rw [word, getLsbD_foldl_or, BitVec.getLsbD_zero, Bool.false_or]

theorem getLsbD_fieldOf (f : Nat × Nat × Nat) (i : Nat) : (fieldOf f).getLsbD i =
    (decide (i < 32) && (decide (f.1 ≤ i) && (decide (i - f.1 < f.2.1) && f.2.2.testBit (i - f.1)))) := by
  rw [fieldOf, field, BitVec.getLsbD_shiftLeft, BitVec.getLsbD_ofNat, Nat.testBit_mod_two_pow]
  by_cases below : i < 32
  · by_cases from' : f.1 ≤ i
    · have : i - f.1 < 32 := by omega
      simp [below, from', this, Nat.not_lt.mpr from']
    · simp [below, from', Nat.lt_of_not_le from']
  · simp [below]

/-- Of separate fields only one has a given bit. -/
theorem separate_unique {l : List (Nat × Nat × Nat)} (h : separate l = true) {f g : Nat × Nat × Nat} (hf : f ∈ l) (hg : g ∈ l)
    {i : Nat} (fi : f.1 ≤ i ∧ i < f.1 + f.2.1) (gi : g.1 ≤ i ∧ i < g.1 + g.2.1) : f = g := by
  induction l with
  | nil => cases hf
  | cons k l ih =>
    simp only [separate, Bool.and_eq_true, List.all_eq_true, Bool.or_eq_true, decide_eq_true_eq] at h
    obtain ⟨head, tail⟩ := h
    rcases List.mem_cons.mp hf with ef | mf <;> rcases List.mem_cons.mp hg with eg | mg
    · rw [ef, eg]
    · have := head g mg
      subst ef
      omega
    · have := head f mf
      subst eg
      omega
    · exact ih tail mf mg

/-- A field of a word of separate fields is read back with its value. -/
theorem extract_word {l : List (Nat × Nat × Nat)} (h : separate l = true) {pos width v : Nat} (hf : (pos, width, v) ∈ l)
    (fits : pos + width ≤ 32) : (word (l.map fieldOf)).extractLsb' pos width = BitVec.ofNat width v := by
  apply BitVec.eq_of_getLsbD_eq
  intro i hi
  rw [BitVec.getLsbD_extractLsb', getLsbD_word, BitVec.getLsbD_ofNat, List.any_map]
  simp only [hi, decide_true, Bool.true_and]
  rw [Bool.eq_iff_iff, List.any_eq_true]
  simp only [Function.comp, getLsbD_fieldOf, Bool.and_eq_true, decide_eq_true_eq]
  constructor
  · rintro ⟨g, hg, below, from', within', bit⟩
    have same := separate_unique h hf hg (i := pos + i) ⟨by omega, by dsimp only; omega⟩ ⟨from', by omega⟩
    subst same
    simpa using bit
  · intro bit
    refine ⟨(pos, width, v), hf, by omega, by omega, ?_, ?_⟩
    · dsimp only
      omega
    · simpa using bit

/-- The fields of the status word (R177). -/
def statusFields (r : Result) : List (Nat × Nat × Nat) :=
  [(31, 1, 1), (27, 4, r.status.code), (23, 4, detailCode r.detail), (19, 4, r.attempts),
   (18, 1, if r.repeated then 1 else 0), (17, 1, if r.uncertain then 1 else 0),
   (16, 1, if r.epochSeen.isSome then 1 else 0), (12, 4, (r.epochSeen.getD 0#4).toNat), (0, 9, r.replyLength), (9, 3, 0)]

theorem statusWord_eq (r : Result) : statusWord r = word ((statusFields r).map fieldOf) := by
  have blank (l : List Word) : word (l ++ [field 9 3 0]) = word l := by
    rw [word, List.foldl_append]
    exact BitVec.or_zero
  rw [statusWord]
  simp only [flag_eq_field]
  rw [← blank]
  rfl

theorem statusWord_field {r : Result} {pos width v : Nat} (h : (pos, width, v) ∈ statusFields r) (fits : pos + width ≤ 32) :
    (statusWord r).extractLsb' pos width = BitVec.ofNat width v := by
  rw [statusWord_eq]
  exact extract_word rfl h fits

theorem statusWord_number {r : Result} {pos width v : Nat} (h : (pos, width, v) ∈ statusFields r) (fits : pos + width ≤ 32)
    (lt : v < 2 ^ width) : ((statusWord r).extractLsb' pos width).toNat = v := by
  rw [statusWord_field h fits, BitVec.toNat_ofNat, Nat.mod_eq_of_lt lt]

theorem statusWord_flag {r : Result} {pos : Nat} {b : Bool} (h : (pos, 1, if b then 1 else 0) ∈ statusFields r)
    (fits : pos + 1 ≤ 32) : (statusWord r).getLsbD pos = b := by
  have bit := congrArg (·.getLsbD 0) (statusWord_field h fits)
  simp only [BitVec.getLsbD_extractLsb', BitVec.getLsbD_ofNat] at bit
  cases b <;> simpa using bit

/-! ## The ends of a channel (R149, R151) -/

theorem nothingInFlight_iff (s : State) (c : Chan) : s.nothingInFlight c = true ↔
    (∀ tag x, s.xchg tag = some x → x.owner ≠ .list c) ∧ (s.chan c).portOp = none ∧
      ∀ r ∈ (s.chan c).queue, r.written = true ∨ r.faulted = true := by
  simp [State.nothingInFlight, anyX_eq_false_iff, and_assoc]

theorem exec_channelHalt_done {s : State} {c : Chan} (st : (s.chan c).state = .stopping) (done : s.nothingInFlight c = true) :
    exec (.channelHalt c) s = .next
      { s.setChan c { s.chan c with state := .halted, queue := [], cancel := .none } with
        irq := { s.irq with edge := s.irq.edge ||| causeHalt c } } := by
  show Host.Outcome.next (s.haltIfDone c) = _
  rw [State.haltIfDone, if_pos ⟨st, done⟩]
  cases c <;> rfl

theorem exec_channelHalt_other {s : State} {c : Chan} (h : ¬((s.chan c).state = .stopping ∧ s.nothingInFlight c = true)) :
    exec (.channelHalt c) s = .next s := by
  show Host.Outcome.next (s.haltIfDone c) = _
  rw [State.haltIfDone, if_neg h]

theorem exec_abortEnd_done {s : State} {c : Chan} (st : (s.chan c).state = .aborting) (done : s.nothingInFlight c = true) :
    exec (.abortEnd c) s = .next
      (s.setChan c { s.chan c with state := .idle, queue := [], haltCause := none, cancel := .none }) := by
  show Host.Outcome.next (s.endAbortIfDone c) = _
  rw [State.endAbortIfDone, if_pos ⟨st, done⟩]
  rfl

theorem exec_abortEnd_other {s : State} {c : Chan} (h : ¬((s.chan c).state = .aborting ∧ s.nothingInFlight c = true)) :
    exec (.abortEnd c) s = .next s := by
  show Host.Outcome.next (s.endAbortIfDone c) = _
  rw [State.endAbortIfDone, if_neg h]

theorem status_code_mem (st : Status) : (st, st.code) ∈
    [(Status.ok, 0), (.short, 1), (.refused, 2), (.busyExhausted, 3), (.retryExhausted, 4), (.protocol, 5),
      (.stationLost, 6), (.stationRestarted, 7), (.deferExpired, 8), (.cancelled, 9), (.linkReset, 10), (.notPresent, 11),
      (.invalid, 12), (.discarded, 14)] := by
  cases st <;> decide

theorem detailCode_mem (d : Option Detail) : (d, detailCode d) ∈
    [(none, 0), (some (Detail.reason .badAddress), 1), (some (.reason .badLength), 2), (some (.reason .readOnly), 3),
      (some (.reason .unsupported), 4), (some (.reason .stationFault), 5), (some (.fault .timeout), 8),
      (some (.fault .crc), 9), (some (.fault .framing), 10), (some (.fault .contention), 11),
      (some (.fault .wrongStation), 12), (some (.fault .overrun), 13), (some (.fault .unexpected), 14)] := by
  match d with
  | none => decide
  | some (.reason r) => cases r <;> decide
  | some (.fault k) => cases k <;> decide

/-- Settles O51: the first due record by `find?_of_first`, the retirements by `retires`; the ends of a channel by
`nothingInFlight_iff`; the status word's fields are separate and read back. -/
theorem statusWritesNopsAndChannelEnds : Obligations.StatusWritesNopsAndChannelEnds := by
  refine ⟨⟨?writes, fun s c => ?ends⟩, fun r attempts length => ?word⟩
  case writes =>
    intro due
    refine ⟨fun s c r a b op queue first hr => ?write, fun s c => ⟨?wait, ?finish⟩⟩
    case write =>
      have notDue : ∀ r' ∈ a, r'.statusDue = false := fun r' hr' =>
        Bool.eq_false_iff.mpr fun yes => first r' hr' ((QRec.statusDue_iff r').mp yes)
      have isDue : r.statusDue = true := (QRec.statusDue_iff r).mpr hr
      have found : (s.chan c).dueRec = some r := by
        rw [Channel.dueRec, queue]
        exact find?_of_first notDue isDue
      let w := s.statusWritten c r
      have chan : w.chan c = { s.chan c with portOp := none, queue := a ++ { r with written := true } :: b } := by
        show (s.statusWritten c r).chan c = _
        rw [State.statusWritten, chan_modChan_same, ← mapFirst_append (fun r => { r with written := true }) notDue isDue,
          ← queue]
        cases c <;> rfl
      obtain ⟨gone, h⟩ := retires (w.chan c) (w.chan c).queue
      obtain ⟨left, stops, retired, _, port, _⟩ := h.leaves
      refine ⟨w.retire c, gone, exec_intakeStatusWriteEnd op found, ?_, ?_, ?_, ?_, ?_, ?_, ?_, h.written, ?_, ?_⟩
      · rw [retire_eq]
        cases c <;> rfl
      · rw [chan_retire, port, chan]
      · rw [retire_table]
        cases c <;> rfl
      · rw [retire_eq]
        cases c <;> rfl
      · rw [retire_eq]
        cases c <;> rfl
      · rw [retire_eq]
        cases c <;> rfl
      · rw [chan_retire, ← left, chan]
      · rw [chan_retire]
        exact stops
      · rw [chan_retire, retired, chan]
    case wait =>
      rintro ⟨tag, x, hx, owner, live⟩
      show execNopFenceFinish c s = _
      rw [execNopFenceFinish, if_pos]
      by_contra none
      simpa [owner, live] using anyX_eq_false_iff.mp (Bool.eq_false_iff.mpr none) tag x hx
    case finish =>
      intro ended
      have none : (s.anyX fun x => x.owner == .list c && x.live) = false := anyX_eq_false_iff.mpr fun tag x hx => by
        by_cases owner : x.owner = .list c
        · rw [ended tag x hx owner, Bool.and_false]
        · simp [owner]
      show execNopFenceFinish c s = _
      rw [execNopFenceFinish, none]
      simp only [← QRec.openNop_iff]
      rfl
  case ends =>
    intro done
    have iff := nothingInFlight_iff s c
    refine ⟨fun st h => ?_, fun h => ?_, fun st h => exec_abortEnd_done st (iff.mpr h), fun h => ?_⟩
    · rw [exec_channelHalt_done st (iff.mpr h)]
      cases c <;> rfl
    · exact exec_channelHalt_other fun ⟨st, fl⟩ => h.elim (· st) (· (iff.mp fl))
    · exact exec_abortEnd_other fun ⟨st, fl⟩ => h.elim (· st) (· (iff.mp fl))
  case word =>
    intro w codes details
    have code : r.status.code < 2 ^ 4 := by cases r.status <;> decide
    have detail : detailCode r.detail < 2 ^ 4 := by
      match r.detail with
      | none => decide
      | some (.reason q) => cases q <;> decide
      | some (.fault k) => cases k <;> decide
    refine ⟨statusWord_flag (b := true) (by simp [statusFields]) (by omega), ?_, ?_,
      statusWord_number (by simp [statusFields]) (by omega) (by omega), statusWord_flag (by simp [statusFields]) (by omega),
      statusWord_flag (by simp [statusFields]) (by omega), statusWord_flag (by simp [statusFields]) (by omega), ?_,
      statusWord_field (v := 0) (by simp [statusFields]) (by omega),
      statusWord_number (by simp [statusFields]) (by omega) (by omega), fun st => rfl⟩
    · rw [statusWord_number (v := r.status.code) (by simp [statusFields]) (by omega) code]
      exact status_code_mem r.status
    · rw [statusWord_number (v := detailCode r.detail) (by simp [statusFields]) (by omega) detail]
      exact detailCode_mem r.detail
    · rw [statusWord_field (v := (r.epochSeen.getD 0#4).toNat) (by simp [statusFields]) (by omega), BitVec.ofNat_toNat,
        BitVec.setWidth_eq]

end Sys2Proof.Machine
end

section
/-! PROOF. What stopping and completing leave of a channel and its records, and the ends of a fill. -/

namespace Sys2Proof.Machine

/-! ## Queue records -/

/-- What a stopping or a completion does to a queue record: it may finish it, with a status. A finished record stays. -/
def RecKept (r r' : QRec) : Prop := (∃ f st, r' = { r with finished := f, status := st }) ∧ (r.finished = true → r' = r)

theorem RecKept.refl (r : QRec) : RecKept r r := ⟨⟨_, _, rfl⟩, fun _ => rfl⟩

theorem RecKept.trans {a b c : QRec} (h : RecKept a b) (k : RecKept b c) : RecKept a c := by
  obtain ⟨⟨f, st, rfl⟩, done⟩ := h
  obtain ⟨⟨g, su, rfl⟩, done'⟩ := k
  refine ⟨⟨g, su, rfl⟩, fun fin => ?_⟩
  have same := done fin
  exact (done' ((congrArg QRec.finished same).trans fin)).trans same

/-- Records are kept one by one, in their places. -/
def QueueKept (q q' : List QRec) : Prop := List.Forall₂ RecKept q q'

theorem QueueKept.refl (q : List QRec) : QueueKept q q := List.forall₂_same.mpr fun r _ => .refl r

theorem QueueKept.trans {a b c : List QRec} (h : QueueKept a b) (k : QueueKept b c) : QueueKept a c := by
  induction h generalizing c with
  | nil => cases k; exact .nil
  | cons head _ ih => cases k with
    | cons head' tail' => exact .cons (head.trans head') (ih tail')

theorem QueueKept.map {f : QRec → QRec} (h : ∀ r, RecKept r (f r)) (q : List QRec) : QueueKept q (q.map f) :=
  List.forall₂_map_right_iff.mpr (List.forall₂_same.mpr fun r _ => h r)

theorem queueKept_cancelNops (q : List QRec) : QueueKept q (cancelNops q) :=
  .map (fun r => by
    split
    · rename_i h
      exact ⟨⟨_, _, rfl⟩, fun fin => by simp [fin] at h⟩
    · exact .refl r) q

theorem queueKept_finishRecs (ts : List Tag) (q : List QRec) : QueueKept q (finishRecs ts q) :=
  .map (fun r => by
    split
    · split
      · refine ⟨⟨true, _, rfl⟩, fun fin => ?_⟩
        cases r
        cases fin
        rfl
      · exact .refl r
    · exact .refl r) q

/-! ## Channels -/

theorem chan_of_onlyDir {s t : State} (h : OnlyDir s t) (c : Chan) : t.chan c = s.chan c := by
  have h : t = _ := h
  rw [h]
  cases c <;> rfl

theorem chan_foldl {α : Type} {f : State → α → State} {c : Chan} (h : ∀ s a, (f s a).chan c = s.chan c) (l : List α)
    (s : State) : (l.foldl f s).chan c = s.chan c := by
  induction l generalizing s with
  | nil => rfl
  | cons a l ih => exact (ih _).trans (h s a)

/-- A channel after a batch of completions: its finished records (R136). -/
theorem chan_complete (s : State) (sel : Sel) (c : Chan) : (s.complete sel).chan c = { s.chan c with
    queue := finishRecs (s.hits sel (s.table.creation (.list c))) (s.chan c).queue } := by
  refine (chan_foldl (fun u n => chan_of_onlyDir (onlyDir_noteUnknown u n) c) _ _).trans ?_
  cases c <;> rfl

theorem chan_free (s : State) (tag : Tag) (c : Chan) : (s.free tag).chan c = s.chan c := by
  cases hx : s.xchg tag with
  | none => simp [State.free, hx]
  | some x =>
    obtain ⟨tb, e⟩ := free_eq hx
    rw [e]
    cases c <;> rfl

/-- What the window does with a result changes its own block and the edge causes alone. -/
theorem windowTakeTag_eq (s : State) (tag : Tag) :
    ∃ w e, s.windowTakeTag tag = { s with window := w, irq := { s.irq with edge := e } } := by
  have same : ∃ w e, s = { s with window := w, irq := { s.irq with edge := e } } := ⟨s.window, s.irq.edge, rfl⟩
  have entered (u : State) (f : WinFault) (hu : ∃ w, u = { s with window := w }) :
      ∃ w e, u.enterWindowFault f = { s with window := w, irq := { s.irq with edge := e } } := by
    obtain ⟨w, rfl⟩ := hu
    unfold State.enterWindowFault
    split
    · exact ⟨_, s.irq.edge ||| causeWindowFault, rfl⟩
    · exact ⟨_, s.irq.edge, rfl⟩
  unfold State.windowTakeTag
  split
  · exact same
  · split
    · unfold State.windowTake
      dsimp only
      split
      · split
        · exact entered _ _ ⟨_, rfl⟩
        · exact ⟨_, s.irq.edge, rfl⟩
      · split
        · exact same
        · exact entered _ _ ⟨_, rfl⟩
      all_goals exact same
    · exact same
    · exact same

theorem foldl_windowTakeTag_eq (l : List Tag) (s : State) :
    ∃ w e, l.foldl State.windowTakeTag s = { s with window := w, irq := { s.irq with edge := e } } := by
  induction l generalizing s with
  | nil => exact ⟨s.window, s.irq.edge, rfl⟩
  | cons tag l ih =>
    obtain ⟨w, e, one⟩ := windowTakeTag_eq s tag
    obtain ⟨w', e', rest⟩ := ih (s.windowTakeTag tag)
    exact ⟨w', e', by rw [List.foldl_cons, rest, one]⟩

/-- What the owners take of a step's completions: the table, the window and the edge causes. -/
theorem handOver_eq (s before : State) : ∃ tb w e, s.handOver before =
    { s with table := tb, window := w, irq := { s.irq with edge := e } } := by
  obtain ⟨w, e, fold⟩ := foldl_windowTakeTag_eq (s.table.winList.filter (s.newlyDone before)) s
  exact ⟨_, w, e, by rw [State.handOver, fold]⟩

theorem endStep_eq (s before : State) : ∃ tb w e d, s.endStep before =
    { s with table := tb, window := w, irq := { s.irq with edge := e }, dir := d } := by
  obtain ⟨tb, w, e, hand⟩ := handOver_eq s before
  exact ⟨tb, w, e, (s.handOver before).recount.dir, by rw [State.endStep, hand]; rfl⟩

theorem chan_endStep (s before : State) (c : Chan) : (s.endStep before).chan c = s.chan c := by
  obtain ⟨tb, w, e, d, eq⟩ := endStep_eq s before
  rw [eq]
  cases c <;> rfl

/-- Where a step has completed nothing the owners take nothing. -/
theorem handOver_of_none {s before : State} (h : ∀ tag, s.newlyDone before tag = false) : s.handOver before = s := by
  have retires (tag : Tag) : s.retiresNow before tag = false := by rw [State.retiresNow, h, Bool.false_and]
  have none (l : List Tag) : l.filter (s.newlyDone before) = [] := List.filter_eq_nil_iff.mpr fun tag _ => by simp [h]
  have all (l : List Tag) : l.filter (fun tag => !s.retiresNow before tag) = l :=
    List.filter_eq_self.mpr fun tag _ => by simp [retires]
  have xs : mapXs (fun t x => if s.retiresNow before t then Option.none else some x) s.table.xs = s.table.xs := by
    refine Vector.ext fun i hi => ?_
    have at' := getElem_mapXs (fun t x => if s.retiresNow before t then Option.none else some x) s.table.xs ⟨i, hi⟩
    refine at'.trans ?_
    simp only [retires, Bool.false_eq_true, if_false]
    exact Option.bind_fun_some _
  unfold State.handOver
  dsimp only
  rw [none, none, none, all, all, xs, List.append_nil, List.append_nil]
  rfl

theorem endStep_of_none {s before : State} (h : ∀ tag, s.newlyDone before tag = false) (counts : CountsAgree s) :
    s.endStep before = s := by
  rw [State.endStep, handOver_of_none h, recount_self counts]

/-- A tag that a step has completed joins the completion list of its channel (R15). -/
theorem mem_compl_endStep {s before : State} {tag : Tag} {c : Chan} (done : s.newlyDone before tag = true)
    (h : tag ∈ s.table.creation (.list c)) : tag ∈ (s.endStep before).table.compl c := by
  show tag ∈ (s.handOver before).table.compl c
  rw [handOver_table]
  cases c <;> exact List.mem_append_right _ (List.mem_filter.mpr ⟨h, done⟩)

/-! ## Entry to STOPPING -/

/-- What stopping with a cause leaves of a channel (R137, R148, R149). -/
structure Stopped (k : HaltCause) (a b : Channel) : Prop where
  pending : b.pendingDesc = none
  cause : b.haltCause = some k
  port : a.portOp = none → b.portOp = none
  next : b.next = a.next
  head : b.head = a.head
  retired : b.retired = a.retired
  endMark : b.endMark = a.endMark
  base : b.base = a.base
  memFault : b.memFault = a.memFault
  queue : ∃ q, QueueKept a.queue q ∧ (b.state = .stopping ∧ b.queue = q ∨
    b.state = .halted ∧ b.queue = [] ∧ ∀ r ∈ q, r.written = true ∨ r.faulted = true)

theorem chan_cancelIssue (s : State) (c d : Chan) : (s.cancelIssue c).chan d = { s.chan d with
    queue := finishRecs (s.hits (cancelSel c) (s.table.creation (.list d))) (s.chan d).queue } := by
  refine (chan_mapX _ _ _).trans ?_
  exact (chan_foldl (fun u n => chan_of_onlyDir (onlyDir_setPurge u n) d) _ _).trans (chan_complete _ _ _)

theorem chan_settleCancel (s : State) (c : Chan) : ∃ k, (s.settleCancel c).chan c = { s.chan c with cancel := k } := by
  obtain ⟨k, e⟩ := settleCancel_eq s c
  exact ⟨k, by rw [e, chan_setChan_same]⟩

theorem chan_haltIfDone (s : State) (c : Chan) : (s.haltIfDone c).chan c = s.chan c ∨
    (s.haltIfDone c).chan c = { s.chan c with state := .halted, queue := [], cancel := .none } ∧
      ∀ r ∈ (s.chan c).queue, r.written = true ∨ r.faulted = true := by
  unfold State.haltIfDone
  split
  · rename_i h
    exact .inr ⟨by rw [chan_raise, chan_modChan_same], ((nothingInFlight_iff s c).mp h.2).2.2⟩
  · exact .inl rfl

/-- The channel as entry to STOPPING leaves it before its exchanges are cancelled. -/
theorem chan_leaveRunning (s : State) (c : Chan) : ∃ op, (s.leaveRunning c).chan c = { s.chan c with
    pendingDesc := none, portOp := op } ∧ ((s.chan c).portOp = none → op = none) := by
  refine ⟨((s.leaveRunning c).chan c).portOp, ?_, fun h => ?_⟩ <;> rw [State.leaveRunning, chan_modChan_same, chan_withdraw]
  rw [h]

theorem enterStopping_stopped (s : State) (c : Chan) (k : HaltCause) :
    Stopped k (s.chan c) ((s.enterStopping c k).chan c) := by
  let s1 := (s.leaveRunning c).modChan c fun ch =>
    { ch with state := .stopping, haltCause := some k, cancel := .stop, queue := cancelNops ch.queue }
  obtain ⟨m, settled⟩ := chan_settleCancel (s1.cancelIssue c) c
  obtain ⟨op, left, port⟩ := chan_leaveRunning s c
  have first : s1.chan c = { (s.leaveRunning c).chan c with
      state := .stopping, haltCause := some k, cancel := .stop, queue := cancelNops (s.chan c).queue } := by
    rw [chan_modChan_same, left]
  have kept : QueueKept (s.chan c).queue ((s1.cancelIssue c).settleCancel c |>.chan c).queue := by
    rw [settled, chan_cancelIssue, first]
    exact (queueKept_cancelNops _).trans (queueKept_finishRecs _ _)
  show Stopped k (s.chan c) ((((s1.cancelIssue c).settleCancel c).haltIfDone c).chan c)
  rcases chan_haltIfDone ((s1.cancelIssue c).settleCancel c) c with e | ⟨e, done⟩
  · rw [e]
    refine ⟨?_, ?_, fun h => ?_, ?_, ?_, ?_, ?_, ?_, ?_, _, kept, .inl ⟨?_, rfl⟩⟩
    all_goals rw [settled, chan_cancelIssue, first]
    case refine_3 => rw [left]; exact port h
    all_goals rw [left]
  · rw [e]
    refine ⟨?_, ?_, fun h => ?_, ?_, ?_, ?_, ?_, ?_, ?_, _, kept, .inr ⟨rfl, rfl, done⟩⟩
    all_goals rw [settled, chan_cancelIssue, first]
    case refine_3 => rw [left]; exact port h
    all_goals rw [left]

theorem stopOnFailure_calm {s : State} {c : Chan} (h : (s.chan c).state.isLive = false ∨ s.hasFailure c = false) :
    s.stopOnFailure c = s := by
  unfold State.stopOnFailure
  rw [if_neg]
  rcases h with h | h <;> simp [h]

theorem stopOnFailure_cases (s : State) (c : Chan) :
    s.stopOnFailure c = s ∨ s.stopOnFailure c = s.enterStopping c .failed := by
  unfold State.stopOnFailure
  split
  · exact .inr rfl
  · exact .inl rfl

/-! ## The end of a fill -/

theorem exec_fillEnd {s : State} {c : Chan} {tag : Tag} {x : Exchange} {bytes : List Byte}
    (op : (s.chan c).portOp = some (.fill tag)) (hx : s.xchg tag = some x) (st : x.state = .filling)
    (len : x.length = some bytes.length) : exec (.fillEnd c bytes) s = .next
      ((({ s.endOp c with store := writeUnits x.units 0 bytes s.store }).fillDone c tag x).endStep s) := by
  show execFillEnd c bytes s = _
  rw [execFillEnd, op]
  dsimp only
  rw [hx]
  dsimp only
  rw [if_pos ⟨st, len⟩]

/-- A fill without an end mark leaves its exchange WAITING. -/
theorem fillDone_waiting {x : Exchange} (mark : x.fillEnd = none) (s : State) (c : Chan) (tag : Tag) :
    s.fillDone c tag x = s.setXchg tag (some { x with state := .waiting }) := by
  rw [State.fillDone, mark]

/-- Settles O49: without an end mark nothing is completed and the exchange, in the ISSUE phase, is not counted; with one it
is the exchange that completes, and the reaction of its channel leaves a finished record alone. -/
theorem fillEnd : Obligations.FillEnd := by
  intro s c tag x bytes counts lists op hx owner st phase len
  let f : State := { s.endOp c with store := writeUnits x.units 0 bytes s.store }
  have table : f.table = s.table := by cases c <;> rfl
  have xs (t' : Tag) : f.xchg t' = s.xchg t' := xchg_of_table table t'
  have hf : f.xchg tag = some x := (xs tag).trans hx
  have run := exec_fillEnd op hx st len
  constructor
  case left =>
    intro mark
    let w := f.setXchg tag (some { x with state := .waiting })
    have agree : CountsAgree w := countsAgree_setXchg (y := { x with state := .waiting })
      (counts.of_same (t := f) (by cases c <;> rfl) table) hf (by simp [Exchange.isDeferred, phase]) rfl
    have nothing (t' : Tag) : w.newlyDone s t' = false := by
      have record : w.xchg t' = if t' = tag then some { x with state := .waiting } else s.xchg t' :=
        (xchg_setXchg f tag t' _).trans (by rw [xs])
      rw [State.newlyDone, record]
      split
      · rfl
      · exact Bool.and_not_self _
    rw [run, fillDone_waiting mark, endStep_of_none nothing agree]
    cases c <;> rfl
  case right =>
    intro m mark
    let sel : Sel := fun t' _ => if t' = tag then some (Completion.plain m.status) else none
    let g := f.complete sel
    have done : f.fillDone c tag x = g.stopOnFailure c := by rw [State.fillDone, mark]
    let u := g.stopOnFailure c
    let y := x.finish (Completion.plain m.status)
    have record : u.xchg tag = some y := by
      refine (reacts_stopOnFailure g c).stops.mended.finished ?_ rfl
      rw [xchg_complete, hf]
      simp [afterSel, sel, y]
    have newly : u.newlyDone s tag = true := newlyDone_of hx (by simp [st]) record rfl
    have outer : u.outer = f.outer := (reacts_stopOnFailure g c).outer.trans (complete_outer f sel)
    have creation : u.table.creation (.list c) = s.table.creation (.list c) := by
      rw [(reacts_stopOnFailure g c).creation, ← table, complete_table]
      exact completeBatch_creation f sel _
    have mem : tag ∈ u.table.creation (.list c) := creation ▸ (lists.mem _ tag).mpr ⟨x, hx, owner⟩
    have port : (u.chan c).portOp = none := by
      have before : (g.chan c).portOp = none := by
        rw [chan_complete]
        cases c <;> rfl
      rcases stopOnFailure_cases g c with e | e
      · show ((g.stopOnFailure c).chan c).portOp = none
        rw [e, before]
      · show ((g.stopOnFailure c).chan c).portOp = none
        rw [e]
        exact (enterStopping_stopped g c .failed).port before
    obtain ⟨tb, w, e, d, eq⟩ := endStep_eq u s
    refine ⟨u.endStep s, by rw [run, done], ?_, ?_, by rw [chan_endStep, port], mem_compl_endStep newly mem, y, ?_, rfl, rfl, ?_⟩
    · rw [eq]
      exact congrArg Outer.store outer
    · rw [eq]
      exact (congrArg Outer.line outer).trans (by cases c <;> rfl)
    · rw [xchg_endStep, retiresNow_of hx (by simp [st]) record rfl, retiredAtOnce_of (x := x)]
      · simp [Exchange.retiredAtOnce, owner, record]
      · exact ⟨rfl, rfl, rfl, rfl, rfl, rfl, rfl, rfl⟩
    · cases m <;> rfl

end Sys2Proof.Machine
end

section
/-! PROOF. Memory faults on a channel's port operation. -/

namespace Sys2Proof.Machine

/-! ## The channel -/

/-- What a memory fault's stop leaves of a channel (R149, R150). -/
structure FaultLeaves (a b : Channel) : Prop where
  port : a.portOp = none → b.portOp = none
  next : b.next = a.next
  head : b.head = a.head
  retired : b.retired = a.retired
  endMark : b.endMark = a.endMark
  base : b.base = a.base
  memFault : b.memFault = a.memFault
  live : a.state = .running ∨ a.state = .paused →
    (b.state = .stopping ∨ b.state = .halted) ∧ b.haltCause = some .memoryFault
  stopping : a.state = .stopping → b.state = .stopping ∧ b.haltCause = some .memoryFault
  aborting : a.state = .aborting → b.state = .aborting ∧ b.haltCause = a.haltCause
  queue : ∃ q, QueueKept a.queue q ∧
    (b.queue = q ∨ b.state = .halted ∧ b.queue = [] ∧ ∀ r ∈ q, r.written = true ∨ r.faulted = true)

theorem Stopped.faultLeaves {a b : Channel} (h : Stopped .memoryFault a b) (live : a.state = .running ∨ a.state = .paused) :
    FaultLeaves a b where
  port := h.port
  next := h.next
  head := h.head
  retired := h.retired
  endMark := h.endMark
  base := h.base
  memFault := h.memFault
  live _ := by
    obtain ⟨q, _, ⟨st, _⟩ | ⟨st, _⟩⟩ := h.queue
    · exact ⟨.inl st, h.cause⟩
    · exact ⟨.inr st, h.cause⟩
  stopping st := by rcases live with l | l <;> rw [l] at st <;> cases st
  aborting st := by rcases live with l | l <;> rw [l] at st <;> cases st
  queue := by
    obtain ⟨q, kept, ⟨_, e⟩ | halted⟩ := h.queue
    · exact ⟨q, kept, .inl e⟩
    · exact ⟨q, kept, .inr halted⟩

theorem memFaultStops_leaves (s : State) (c : Chan) : FaultLeaves (s.chan c) ((s.memFaultStops c).chan c) := by
  have same (live : (s.chan c).state ≠ .running ∧ (s.chan c).state ≠ .paused) (stopping : (s.chan c).state ≠ .stopping) :
      FaultLeaves (s.chan c) (s.chan c) :=
    ⟨id, rfl, rfl, rfl, rfl, rfl, rfl, fun h => (h.elim live.1 live.2).elim, fun h => (stopping h).elim, fun h => ⟨h, rfl⟩,
      _, .refl _, .inl rfl⟩
  unfold State.memFaultStops
  split
  case h_1 st => exact (enterStopping_stopped s c _).faultLeaves (.inl st)
  case h_2 st => exact (enterStopping_stopped s c _).faultLeaves (.inr st)
  case h_3 st =>
    rw [chan_modChan_same]
    refine ⟨id, rfl, rfl, rfl, rfl, rfl, rfl, fun h => ?_, fun h => ⟨h, rfl⟩, fun h => ?_, _, .refl _, .inl rfl⟩
    · rw [st] at h
      rcases h with h | h <;> cases h
    · rw [st] at h
      cases h
  all_goals
    rename_i st
    refine same ⟨?_, ?_⟩ ?_ <;> rw [st] <;> decide

theorem FaultLeaves.cancel {a b : Channel} (h : FaultLeaves a b) (k : Cancel) : FaultLeaves a { b with cancel := k } :=
  ⟨h.port, h.next, h.head, h.retired, h.endMark, h.base, h.memFault, h.live, h.stopping, h.aborting, h.queue⟩

/-! ## The records -/

/-- What the fault does to one record, and what stopping the channel then leaves of it: with property `hit` it is faulted,
never written, with tag `tag'`; else it keeps its marks. -/
structure FaultMark (hit : QRec → Bool) (tag' : Option Tag) (r r' : QRec) : Prop where
  addr : r'.addr = r.addr
  next : r'.next = r.next
  irq : r'.irq = r.irq
  stopOnFail : r'.stopOnFail = r.stopOnFail
  buffer : r'.buffer = r.buffer
  written : r'.written = r.written
  strikes : hit r = true → r'.faulted = true ∧ r'.tag = tag' ∧ r'.written = false
  keeps : hit r = false → r'.faulted = r.faulted ∧ r'.tag = r.tag

variable {hit : QRec → Bool} {tag' : Option Tag}

theorem FaultMark.kept {a b c : QRec} (h : FaultMark hit tag' a b) (k : RecKept b c) : FaultMark hit tag' a c := by
  obtain ⟨⟨f, st, rfl⟩, _⟩ := k
  exact ⟨h.addr, h.next, h.irq, h.stopOnFail, h.buffer, h.written, h.strikes, h.keeps⟩

/-- A record without the property. -/
theorem FaultMark.missed {r : QRec} (h : hit r = false) : FaultMark hit tag' r r :=
  ⟨rfl, rfl, rfl, rfl, rfl, rfl, fun k => (Bool.false_ne_true (h.symm.trans k)).elim, fun _ => ⟨rfl, rfl⟩⟩

/-- A record with the property, which is not written. -/
theorem FaultMark.struck {r : QRec} (h : hit r = true) (unwritten : r.written = false) :
    FaultMark hit tag' r { r with tag := tag', faulted := true } :=
  ⟨rfl, rfl, rfl, rfl, rfl, rfl, fun _ => ⟨rfl, rfl, unwritten⟩, fun k => (Bool.false_ne_true (k.symm.trans h)).elim⟩

theorem forall₂_kept {a b c : List QRec} (h : List.Forall₂ (FaultMark hit tag') a b) (k : QueueKept b c) :
    List.Forall₂ (FaultMark hit tag') a c := by
  induction h generalizing c with
  | nil => cases k; exact .nil
  | cons head _ ih => cases k with
    | cons head' tail' => exact .cons (head.kept head') (ih tail')

theorem forall₂_getElem? {R : QRec → QRec → Prop} {a b : List QRec} (h : List.Forall₂ R a b) {i : Nat} {r r' : QRec}
    (ha : a[i]? = some r) (hb : b[i]? = some r') : R r r' := by
  induction h generalizing i with
  | nil => simp at ha
  | cons head _ ih =>
    cases i with
    | zero =>
      simp only [List.getElem?_cons_zero, Option.some.injEq] at ha hb
      exact ha ▸ hb ▸ head
    | succ i =>
      rw [List.getElem?_cons_succ] at ha hb
      exact ih ha hb

/-- The records of a queue with a property are struck. -/
theorem forall₂_map {f : QRec → QRec} (unwritten : ∀ r, hit r = true → r.written = false)
    (strikes : ∀ r, hit r = true → f r = { r with tag := tag', faulted := true }) (q : List QRec) :
    List.Forall₂ (FaultMark hit tag') q (q.map fun r => if hit r then f r else r) :=
  List.forall₂_map_right_iff.mpr (List.forall₂_same.mpr fun r _ => by
    split
    · rename_i h
      rw [strikes r h]
      exact .struck h (unwritten r h)
    · rename_i h
      exact .missed (by simpa using h))

theorem noteMemFault_eq (ch : Channel) (op : FaultOp) (desc address : Word) : ch.noteMemFault op desc address = { ch with
    memFault := if ch.memFault = none then some { op := op, desc := desc, address := address } else ch.memFault } := by
  unfold Channel.noteMemFault
  split
  · rename_i h
    rw [if_pos h]
  · rename_i h
    rw [if_neg (by simp [h])]

/-! ## The step -/

/-- A step that ends an operation in a fault: the channel is that of the step's start with its operation ended, its records
struck and the fault noted, and is then stopped. -/
structure Faults (s t : State) (c : Chan) (op : FaultOp) (desc address : Word) (hit : QRec → Bool)
    (tag' : Option Tag) : Prop where
  store : t.store = s.store
  line : t.line = s.line
  chan : ∃ q, List.Forall₂ (FaultMark hit tag') (s.chan c).queue q ∧ FaultLeaves { s.chan c with
    portOp := none, queue := q
    memFault := if (s.chan c).memFault = none then some { op := op, desc := desc, address := address }
      else (s.chan c).memFault } (t.chan c)

/-- The state with the channel `c` in which a fault has been noted and the records are `q`. -/
def faultNoted (ch : Channel) (q : List QRec) (op : FaultOp) (desc address : Word) : Channel := { ch with
  portOp := none, queue := q
  memFault := if ch.memFault = none then some { op := op, desc := desc, address := address } else ch.memFault }

theorem faults_of {s u v t : State} {c : Chan} {op : FaultOp} {desc address : Word} {q : List QRec}
    (chan : u.chan c = faultNoted (s.chan c) q op desc address) (marks : List.Forall₂ (FaultMark hit tag') (s.chan c).queue q)
    (store : u.store = s.store) (line : u.line = s.line) (hv : v = u.memFaultStops c ∨ v = (u.memFaultStops c).settleCancel c)
    (ht : t = v.endStep s) : Faults s t c op desc address hit tag' := by
  have leaves := memFaultStops_leaves u c
  rw [chan] at leaves
  have outer : v.outer = u.outer := by rcases hv with rfl | rfl <;> simp
  refine ⟨?_, ?_, q, marks, ?_⟩
  · rw [ht]
    exact (congrArg Outer.store ((endStep_outer v s).trans outer)).trans store
  · rw [ht]
    exact (congrArg Outer.line ((endStep_outer v s).trans outer)).trans line
  · rw [ht, chan_endStep]
    rcases hv with rfl | rfl
    · exact leaves
    · obtain ⟨k, settled⟩ := chan_settleCancel (u.memFaultStops c) c
      rw [settled]
      exact leaves.cancel k

/-- A fault takes a record from the table, and where the channel is not live it leaves every other one. -/
theorem fault_others {s u : State} {c : Chan} {tag : Tag} (freed : ∀ t', u.xchg t' = if t' = tag then none else s.xchg t') :
    (((u.memFaultStops c).settleCancel c).endStep s).xchg tag = none ∧
    ((u.chan c).state ≠ .running → (u.chan c).state ≠ .paused → ∀ t', t' ≠ tag →
      (((u.memFaultStops c).settleCancel c).endStep s).xchg t' = s.xchg t') := by
  let v := (u.memFaultStops c).settleCancel c
  have settled (t' : Tag) : v.xchg t' = (u.memFaultStops c).xchg t' := xchg_of_table (settleCancel_table _ c) t'
  refine ⟨?_, fun running paused t' other => ?_⟩
  · have gone : v.xchg tag = none := by
      rw [settled]
      exact (reacts_memFaultStops u c).stops.mended.none (by rw [freed, if_pos rfl])
    rw [xchg_endStep]
    split
    · rfl
    · exact gone
  · have same : v.xchg t' = s.xchg t' := by
      rw [settled]
      refine Eq.trans ?_ ((freed t').trans (if_neg other))
      unfold State.memFaultStops
      split
      case h_1 st => exact absurd st running
      case h_2 st => exact absurd st paused
      case h_3 => exact xchg_modChan _ _ _ _
      all_goals rfl
    have idle : v.retiresNow s t' = false := by
      rw [State.retiresNow, State.newlyDone, same, Bool.and_not_self, Bool.false_and]
    rw [xchg_endStep]
    exact (if_neg (by rw [idle]; decide)).trans same

/-! ## The faults of the four operations -/

theorem exec_memoryFault_fetch {s : State} {c : Chan} (op : (s.chan c).portOp = some (.fetch false)) (a : Word) :
    exec (.memoryFault c a) s = .next
      ((((s.endOp c).modChan c fun ch => ch.noteMemFault .fetch ch.next a).memFaultStops c).endStep s) := by
  show execMemoryFault c a s = _
  rw [execMemoryFault]
  dsimp only
  rw [op]

/-- The state of a fill's fault before the channel stops. -/
def State.fillFaulted (s : State) (c : Chan) (tag : Tag) (desc a : Word) : State :=
  ((s.endOp c).modChan c fun ch =>
    (ch.mapQ (QRec.isOf tag) fun r => { r with tag := none, faulted := true }).noteMemFault .fill desc a).free tag

theorem exec_memoryFault_fill {s : State} {c : Chan} {tag : Tag} {r : QRec} (op : (s.chan c).portOp = some (.fill tag))
    (hr : (s.chan c).recOf tag = some r) (a : Word) : exec (.memoryFault c a) s = .next
      ((((s.fillFaulted c tag r.addr a).memFaultStops c).settleCancel c).endStep s) := by
  show execMemoryFault c a s = _
  rw [execMemoryFault]
  dsimp only
  rw [op]
  dsimp only
  rw [hr]
  rfl

/-- The state of a drain's fault before the channel stops. -/
def State.drainFaulted (s : State) (c : Chan) (tag : Tag) (desc a : Word) : State :=
  let s1 := (s.endOp c).modChan c fun ch =>
    (ch.mapQ (QRec.isOf tag) fun r => { r with faulted := true }).noteMemFault .drain desc a
  { s1.free tag with bus.data := [], bus.status := none }

theorem exec_memoryFault_drain {s : State} {c : Chan} {tag : Tag} {r : QRec} (op : (s.chan c).portOp = some (.drain tag))
    (hr : (s.chan c).recOf tag = some r) (a : Word) : exec (.memoryFault c a) s = .next
      ((((s.drainFaulted c tag r.addr a).memFaultStops c).settleCancel c).endStep s) := by
  show execMemoryFault c a s = _
  rw [execMemoryFault]
  dsimp only
  rw [op]
  dsimp only
  rw [hr]
  rfl

/-- The state of a status write's fault before the channel stops. -/
def State.writeFaulted (s : State) (c : Chan) (desc a : Word) : State :=
  let s1 := (s.endOp c).modChan c fun ch =>
    (ch.mapDue fun r => { r with faulted := true }).noteMemFault .drain desc a
  { s1 with bus.data := [], bus.status := none }

theorem exec_memoryFault_statusWrite {s : State} {c : Chan} {r : QRec} (op : (s.chan c).portOp = some .statusWrite)
    (hr : (s.chan c).dueRec = some r) (a : Word) : exec (.memoryFault c a) s = .next
      (((s.writeFaulted c r.addr a).memFaultStops c).endStep s) := by
  show execMemoryFault c a s = _
  rw [execMemoryFault]
  dsimp only
  rw [op]
  dsimp only
  rw [hr]
  rfl

theorem QRec.isOf_iff (tag : Tag) (r : QRec) :
    r.isOf tag = true ↔ r.tag = some tag ∧ r.written = false ∧ r.faulted = false := by
  simp [QRec.isOf, and_assoc]

theorem chan_fillFaulted (s : State) (c : Chan) (tag : Tag) (desc a : Word) : (s.fillFaulted c tag desc a).chan c =
    faultNoted (s.chan c) ((s.chan c).queue.map fun r => if r.isOf tag then { r with tag := none, faulted := true } else r)
      .fill desc a := by
  rw [State.fillFaulted, chan_free, chan_modChan_same, noteMemFault_eq, State.endOp, chan_modChan_same]
  rfl

theorem chan_drainFaulted (s : State) (c : Chan) (tag : Tag) (desc a : Word) : (s.drainFaulted c tag desc a).chan c =
    faultNoted (s.chan c) ((s.chan c).queue.map fun r => if r.isOf tag then { r with faulted := true } else r)
      .drain desc a := by
  let s1 := (s.endOp c).modChan c fun ch =>
    (ch.mapQ (QRec.isOf tag) fun r => { r with faulted := true }).noteMemFault .drain desc a
  have bus : (s.drainFaulted c tag desc a).chan c = (s1.free tag).chan c := by cases c <;> rfl
  rw [bus, chan_free, chan_modChan_same, noteMemFault_eq, State.endOp, chan_modChan_same]
  rfl

theorem chan_writeFaulted (s : State) (c : Chan) (desc a : Word) : (s.writeFaulted c desc a).chan c =
    faultNoted (s.chan c) (mapFirst QRec.statusDue (fun r => { r with faulted := true }) (s.chan c).queue) .drain desc a := by
  let s1 := (s.endOp c).modChan c fun ch => (ch.mapDue fun r => { r with faulted := true }).noteMemFault .drain desc a
  have bus : (s.writeFaulted c desc a).chan c = s1.chan c := by cases c <;> rfl
  rw [bus, chan_modChan_same, noteMemFault_eq, State.endOp, chan_modChan_same]
  rfl

theorem free_outer_store (s : State) (tag : Tag) : (s.free tag).store = s.store ∧ (s.free tag).line = s.line :=
  ⟨congrArg Outer.store (free_outer s tag), congrArg Outer.line (free_outer s tag)⟩

/-- Settles O52: each operation's fault strikes its record and notes the fault, and stopping the channel keeps the records
one by one. -/
theorem memoryFault : Obligations.MemoryFault := by
  intro s c a
  have endOp : s.endOp c = s.setChan c { s.chan c with portOp := none } := rfl
  refine ⟨fun op => ?none, fun op => ?dropped, ?_⟩
  case none =>
    show execMemoryFault c a s = _
    rw [execMemoryFault]
    dsimp only
    rw [op]
  case dropped =>
    show execMemoryFault c a s = _
    rw [execMemoryFault]
    dsimp only
    rw [op, endOp]
  intro ch stops others
  have stops_of {t : State} {op : FaultOp} {desc : Word} {hit : QRec → Bool} {tag' : Option Tag}
      (run : exec (.memoryFault c a) s = .next t) (h : Faults s t c op desc a hit tag') : stops t op desc hit tag' := by
    obtain ⟨store, line, q, marks, leaves⟩ := h
    obtain ⟨q', kept, final⟩ := leaves.queue
    have both := forall₂_kept marks kept
    refine ⟨run, leaves.port rfl, leaves.memFault, store, line, leaves.next, leaves.head, leaves.retired, leaves.endMark,
      leaves.base, leaves.live, leaves.stopping, leaves.aborting, q', final, both.length_eq.symm, fun i r r' hr hr' => ?_⟩
    have mark := forall₂_getElem? both hr hr'
    exact ⟨mark.addr, mark.next, mark.irq, mark.stopOnFail, mark.buffer, mark.written, mark.strikes, mark.keeps⟩
  have unwritten (tag : Tag) (r : QRec) (h : r.isOf tag = true) : r.written = false := ((QRec.isOf_iff tag r).mp h).2.1
  have others_of {u : State} {tag : Tag} (freed : ∀ t', u.xchg t' = if t' = tag then none else s.xchg t')
      {q : List QRec} {op : FaultOp} {desc : Word} (chan : u.chan c = faultNoted (s.chan c) q op desc a) :
      others (((u.memFaultStops c).settleCancel c).endStep s) tag := by
    obtain ⟨gone, rest⟩ := fault_others (c := c) freed
    rw [chan] at rest
    exact ⟨gone, rest⟩
  refine ⟨fun op => ?fetch, fun tag r op hr => ?fill, fun tag r op hr => ?drain, fun r x y op queue first tag fin unw unf once => ?write⟩
  case fetch =>
    have noted : ((s.endOp c).modChan c fun ch => ch.noteMemFault .fetch ch.next a).chan c =
        faultNoted (s.chan c) (s.chan c).queue .fetch ch.next a := by
      rw [chan_modChan_same, noteMemFault_eq, State.endOp, chan_modChan_same]
      rfl
    refine ⟨_, stops_of (exec_memoryFault_fetch op a) (faults_of noted ?_ (by simp [State.endOp]) (by simp [State.endOp])
      (.inl rfl) rfl)⟩
    exact List.forall₂_same.mpr fun r _ => .missed rfl
  case fill =>
    have chan := chan_fillFaulted s c tag r.addr a
    have outer := free_outer_store ((s.endOp c).modChan c fun ch =>
      (ch.mapQ (QRec.isOf tag) fun r => { r with tag := none, faulted := true }).noteMemFault .fill r.addr a) tag
    refine ⟨_, stops_of (exec_memoryFault_fill op hr a) (faults_of chan (forall₂_map (unwritten tag) (fun _ _ => rfl) _)
      (outer.1.trans (by simp [State.endOp])) (outer.2.trans (by simp [State.endOp])) (.inr rfl) rfl), others_of (fun t' => ?_) chan⟩
    rw [State.fillFaulted, xchg_free]
    simp [State.endOp]
  case drain =>
    have chan := chan_drainFaulted s c tag r.addr a
    let s1 := (s.endOp c).modChan c fun ch =>
      (ch.mapQ (QRec.isOf tag) fun r => { r with faulted := true }).noteMemFault .drain r.addr a
    have outer := free_outer_store s1 tag
    refine ⟨_, stops_of (exec_memoryFault_drain op hr a) (faults_of chan (forall₂_map (unwritten tag) (fun r' h => ?_) _)
      (outer.1.trans (by simp [s1, State.endOp])) (outer.2.trans (by simp [s1, State.endOp])) (.inr rfl) rfl),
      others_of (fun t' => ?_) chan⟩
    · rw [← ((QRec.isOf_iff tag r').mp h).1]
    · show (s1.free tag).xchg t' = _
      rw [xchg_free]
      simp [s1, State.endOp]
  case write =>
    have due : r.statusDue = true := (QRec.statusDue_iff r).mpr ⟨tag, fin, unw, unf⟩
    have notDue : ∀ r' ∈ x, r'.statusDue = false := fun r' hr' =>
      Bool.eq_false_iff.mpr fun yes => first r' hr' ((QRec.statusDue_iff r').mp yes)
    have found : (s.chan c).dueRec = some r := by
      rw [Channel.dueRec, show (s.chan c).queue = _ from queue]
      exact find?_of_first notDue due
    refine ⟨_, stops_of (exec_memoryFault_statusWrite op found a) (faults_of (chan_writeFaulted s c r.addr a) ?_ ?_ ?_
      (.inl rfl) rfl)⟩
    · rw [show (s.chan c).queue = _ from queue, mapFirst_append _ notDue due]
      have missed (l : List QRec) (h : ∀ r' ∈ l, r' ≠ r) :
          List.Forall₂ (FaultMark (fun r' => r' == r) none) l l :=
        List.forall₂_same.mpr fun r' hr' => .missed (by simpa using h r' hr')
      refine List.rel_append (missed x fun r' hr' => once r' (List.mem_append_left _ hr'))
        (.cons ?_ (missed y fun r' hr' => once r' (List.mem_append_right _ hr')))
      rw [show ({ r with faulted := true } : QRec) = { r with tag := none, faulted := true } by rw [← tag]]
      exact .struck (by simp) unw
    · cases c <;> rfl
    · cases c <;> rfl

end Sys2Proof.Machine
end

section
/-! PROOF. The start of a port operation. -/

namespace Sys2Proof.Machine

/-! ## What a channel starts next (R138) -/

/-- The channel has a FILLING exchange under this tag. -/
def State.fillingAt (s : State) (c : Chan) (tag : Tag) : Prop :=
  ∃ x, s.xchg tag = some x ∧ x.owner = .list c ∧ x.state = .filling

theorem fillingTag_some {s : State} (lists : ListsAgree s) {c : Chan} {tag : Tag} (h : s.fillingTag c = some tag) :
    s.fillingAt c tag := by
  have mem := List.mem_of_find?_eq_some h
  have filling := List.find?_some h
  obtain ⟨x, hx, owner⟩ := (lists.mem _ tag).mp mem
  exact ⟨x, hx, owner, by simpa [hx] using filling⟩

theorem fillingTag_none {s : State} (lists : ListsAgree s) {c : Chan} :
    s.fillingTag c = none ↔ ∀ tag, ¬s.fillingAt c tag := by
  constructor
  · rintro h tag ⟨x, hx, owner, filling⟩
    have := List.find?_eq_none.mp h tag ((lists.mem _ tag).mpr ⟨x, hx, owner⟩)
    simp [hx, filling] at this
  · intro h
    cases e : s.fillingTag c with
    | none => rfl
    | some tag => exact absurd (fillingTag_some lists e) (h tag)

theorem nextOp_drain {s : State} {c : Chan} {tag : Tag} {rest : List Tag} (h : s.table.compl c = tag :: rest) :
    s.nextOp c = some (.drain tag) := by
  rw [State.nextOp, h]

theorem nextOp_fill {s : State} {c : Chan} {tag : Tag} (h : s.table.compl c = []) (fill : s.fillingTag c = some tag) :
    s.nextOp c = some (.fill tag) := by
  rw [State.nextOp, h]
  dsimp only
  rw [fill]

theorem nextOp_other {s : State} {c : Chan} (h : s.table.compl c = []) (fill : s.fillingTag c = none) :
    s.nextOp c = if (s.chan c).queue.any QRec.statusDue then some .statusWrite
      else if (s.chan c).mayFetch then some (.fetch false) else none := by
  rw [State.nextOp, h]
  dsimp only
  rw [fill]

/-- The operation a channel starts next, by the first of the four that it has. -/
theorem nextOp_cases (s : State) (c : Chan) :
    (∃ tag rest, s.table.compl c = tag :: rest ∧ s.nextOp c = some (.drain tag)) ∨
    s.table.compl c = [] ∧
      ((∃ tag, s.fillingTag c = some tag ∧ s.nextOp c = some (.fill tag)) ∨
       s.fillingTag c = none ∧ s.nextOp c = if (s.chan c).queue.any QRec.statusDue then some .statusWrite
         else if (s.chan c).mayFetch then some (.fetch false) else none) := by
  cases h : s.table.compl c with
  | cons tag rest => exact .inl ⟨tag, rest, rfl, nextOp_drain h⟩
  | nil =>
    cases fill : s.fillingTag c with
    | some tag => exact .inr ⟨rfl, .inl ⟨tag, rfl, nextOp_fill h fill⟩⟩
    | none => exact .inr ⟨rfl, .inr ⟨rfl, nextOp_other h fill⟩⟩

theorem mayFetch_iff (ch : Channel) : ch.mayFetch = true ↔
    ch.state = .running ∧ ch.endMark = false ∧ ch.queue.length < 10 ∧ ch.pendingDesc = none ∧
      ∀ r ∈ ch.queue, ¬(r.tag = none ∧ r.finished = false ∧ r.faulted = false) := by
  have quota : decide (ch.queue.length < Config.listQuota) = true ↔ ch.queue.length < 10 := decide_eq_true_iff
  simp only [Channel.mayFetch, quota, Bool.and_eq_true, beq_iff_eq, Bool.not_eq_true', Option.isNone_iff_eq_none, List.any_eq_false, QRec.openNop_iff, and_assoc]

theorem any_statusDue_iff (q : List QRec) : q.any QRec.statusDue = true ↔
    ∃ r ∈ q, r.tag = none ∧ r.finished = true ∧ r.written = false ∧ r.faulted = false := by
  simp only [List.any_eq_true, QRec.statusDue_iff]

theorem dueRec_split {ch : Channel} {r : QRec} (h : ch.dueRec = some r) :
    ∃ a b, ch.queue = a ++ r :: b ∧ r.statusDue = true ∧ ∀ r' ∈ a, r'.statusDue = false := by
  obtain ⟨due, a, b, split, before⟩ := List.find?_eq_some_iff_append.mp h
  exact ⟨a, b, split, due, fun r' hr' => by simpa using before r' hr'⟩

/-! ## The start -/

theorem portChoice_busy {s : State} {c : Chan} {op : PortOp} (h : (s.chan c).portOp = some op) : s.portChoice = none := by
  have some' : (s.chanA.portOp.isSome || s.chanB.portOp.isSome) = true := by
    cases c
    · rw [show s.chanA.portOp = some op from h]; rfl
    · rw [show s.chanB.portOp = some op from h, Bool.or_comm]; rfl
  rw [State.portChoice, if_pos some']

theorem portChoice_none {s : State} (h : ∀ c, s.nextOp c = none) : s.portChoice = none := by
  rw [State.portChoice]
  split
  · rfl
  · rw [h .A, h .B]

/-- With no operation under way a channel starts whose other has none due, or was served last (R138). -/
theorem portChoice_of {s : State} (free : ∀ c, (s.chan c).portOp = none) {c : Chan} {op : PortOp} (h : s.nextOp c = some op)
    (turn : ∀ c', c' ≠ c → s.nextOp c' = none ∨ s.portLast = c') : s.portChoice = some (c, op) := by
  have hA : s.chanA.portOp = none := free .A
  have hB : s.chanB.portOp = none := free .B
  rw [State.portChoice, hA, hB, if_neg (by decide)]
  cases c with
  | A =>
    rw [h]
    cases other : s.nextOp .B with
    | none => rfl
    | some op' =>
      have last : s.portLast = .B := (turn .B (by decide)).resolve_left (by rw [other]; exact Option.some_ne_none _)
      show (if s.portLast = .A then _ else _) = _
      rw [last, if_neg (by decide)]
  | B =>
    rw [h]
    cases other : s.nextOp .A with
    | none => rfl
    | some op' =>
      have last : s.portLast = .A := (turn .A (by decide)).resolve_left (by rw [other]; exact Option.some_ne_none _)
      show (if s.portLast = .A then _ else _) = _
      rw [if_pos last]

theorem exec_portOperationStart_none {s : State} (h : s.portChoice = none) : exec .portOperationStart s = .next s := by
  show execPortOperationStart s = _
  rw [execPortOperationStart, h]

theorem exec_portOperationStart_some {s : State} {c : Chan} {op : PortOp} (h : s.portChoice = some (c, op)) :
    exec .portOperationStart s = .next (s.startOp c op).recount := by
  show execPortOperationStart s = _
  rw [execPortOperationStart, h]

/-- The state in which an operation has begun, before a drain takes its exchange. -/
def State.began (s : State) (c : Chan) (op : PortOp) : State :=
  { s.setChan c { s.chan c with portOp := some op } with portLast := c }

theorem startOp_plain {op : PortOp} (h : ∀ tag, op ≠ .drain tag) (s : State) (c : Chan) :
    s.startOp c op = s.began c op := by
  cases op with
  | drain tag => exact absurd rfl (h tag)
  | fetch _ | fill _ | statusWrite => rfl

/-- A drain takes its tag from the completion list and its exchange is DRAINING (R143). -/
theorem startOp_drain {s : State} {c : Chan} {tag : Tag} {x : Exchange} (hx : s.xchg tag = some x) :
    s.startOp c (.drain tag) = { s.began c (.drain tag) with
      table := { s.table.setCompl c ((s.table.compl c).filter (· != tag)) with
        xs := s.table.xs.set tag (some { x with state := .draining }) } } := by
  cases c <;>
  · unfold State.startOp
    dsimp only
    split
    case h_1 y hy =>
      cases hy.symm.trans hx
      rfl
    case h_2 hy => cases hy.symm.trans hx

/-- Settles O47: the choice by `portChoice_of`, what starts by `startOp_plain` and `startOp_drain`, and what a channel starts
next by `nextOp_cases`. -/
theorem portOperationStart : Obligations.PortOperationStart := by
  intro s lists counts ports
  refine ⟨fun c op busy => exec_portOperationStart_none (portChoice_busy busy), fun free => ⟨fun hA hB => ?idle,
    fun c op next turn => ?starts⟩, fun c => ?nexts⟩
  case idle =>
    refine exec_portOperationStart_none (portChoice_none fun c => ?_)
    cases c
    · exact hA
    · exact hB
  case starts =>
    have run := exec_portOperationStart_some (portChoice_of free next turn)
    by_cases drains : ∃ tag, op = .drain tag
    case neg =>
      have plain : ∀ tag, op ≠ .drain tag := fun tag e => drains ⟨tag, e⟩
      have same : (s.began c op).recount = s.began c op :=
        recount_self (counts.of_same (by cases c <;> rfl) (by cases c <;> rfl))
      rw [startOp_plain plain, same] at run
      refine ⟨_, run, by cases c <;> rfl, by cases c <;> rfl, by cases c <;> rfl, by cases c <;> rfl, by cases c <;> rfl,
        fun c' other => ?_, fun tag e => absurd e (plain tag), fun _ => by cases c <;> rfl⟩
      exact (by cases c' <;> rfl : (s.began c op).chan c' = (s.setChan c _).chan c').trans (chan_setChan_other s _ other)
    case pos =>
      obtain ⟨tag, rfl⟩ := drains
      have head : ∃ rest, s.table.compl c = tag :: rest := by
        rcases nextOp_cases s c with ⟨tag', rest, e, o⟩ | ⟨_, ⟨tag', _, o⟩ | ⟨_, o⟩⟩
        · rw [next] at o
          cases o
          exact ⟨rest, e⟩
        · rw [next] at o
          cases o
        · rw [next] at o
          split at o
          · cases o
          · split at o <;> cases o
      obtain ⟨rest, head⟩ := head
      obtain ⟨x, hx, owner, done⟩ := ports.compl c tag (by rw [head]; exact List.mem_cons_self)
      rw [startOp_drain hx] at run
      let d : State := { s.began c (.drain tag) with
        table := { s.table.setCompl c ((s.table.compl c).filter (· != tag)) with
          xs := s.table.xs.set tag (some { x with state := .draining }) } }
      have xchg (t' : Tag) : d.xchg t' = if t' = tag then some { x with state := .draining } else s.xchg t' :=
        Eq.trans (by cases c <;> rfl) (xchg_setXchg s tag t' _)
      have agree : CountsAgree d := by
        have plain : CountsAgree (s.setXchg tag (some { x with state := .draining })) :=
          countsAgree_setXchg (y := { x with state := .draining }) counts hx (by simp [Exchange.isDeferred, Exchange.live, done]) rfl
        refine countsAgree_of plain (fun n => by cases c <;> rfl) fun n => deferredOf_of_xchg (fun t' => ?_) n
        rw [xchg, xchg_setXchg]
      have same : d.recount = d := recount_self agree
      refine ⟨d, run.trans (congrArg _ same), by cases c <;> rfl, by cases c <;> rfl, by cases c <;> rfl,
        by cases c <;> rfl, by cases c <;> rfl, fun c' other => ?_, ?_, fun h => absurd rfl (h tag)⟩
      · exact (by cases c' <;> rfl : d.chan c' = (s.setChan c _).chan c').trans (chan_setChan_other s _ other)
      · intro tag' e
        cases e
        refine ⟨?_, by rw [xchg, if_pos rfl, hx]; rfl, fun t' other => by rw [xchg, if_neg other]⟩
        have compl : d.table.compl c = (s.table.compl c).filter (· != tag) := by cases c <;> rfl
        simp [compl]
  case nexts =>
    intro ch filling due openNop
    have noFill : (∀ tag, ¬filling tag) ↔ s.fillingTag c = none := (fillingTag_none lists).symm
    have noDue : (∀ r ∈ ch.queue, ¬due r) ↔ ch.queue.any QRec.statusDue = false := by
      rw [Bool.eq_false_iff, ne_eq, any_statusDue_iff]
      exact ⟨fun h ⟨r, hr, d⟩ => h r hr d, fun h r hr d => h ⟨r, hr, d⟩⟩
    refine ⟨fun tag rest h => nextOp_drain h, fun tag h => ?drain, fun empty => ⟨fun tag h => ?fillOf, fun tag h one => ?fillAt,
      fun none => ⟨?write, fun noWrite => ?fetch⟩⟩, fun tag h => ?fillEmpty, fun h => ?writeOnly, fun d h => ?fetchOnly⟩
    case drain =>
      rcases nextOp_cases s c with ⟨tag', rest, e, o⟩ | ⟨_, ⟨tag', _, o⟩ | ⟨_, o⟩⟩
      · cases h.symm.trans o
        exact ⟨rest, e⟩
      · cases h.symm.trans o
      · rw [h] at o
        split at o
        · cases o
        · split at o <;> cases o
    case fillOf =>
      rcases nextOp_cases s c with ⟨tag', rest, e, o⟩ | ⟨_, ⟨tag', f, o⟩ | ⟨_, o⟩⟩
      · cases h.symm.trans o
      · cases h.symm.trans o
        exact fillingTag_some lists f
      · rw [h] at o
        split at o
        · cases o
        · split at o <;> cases o
    case fillAt =>
      cases f : s.fillingTag c with
      | none => exact absurd h (noFill.mpr f tag)
      | some tag' =>
        rw [nextOp_fill empty f, one tag' (fillingTag_some lists f)]
    case write =>
      rw [nextOp_other empty (noFill.mp none), ← any_statusDue_iff]
      show _ ↔ ch.queue.any QRec.statusDue = true
      cases ch.queue.any QRec.statusDue with
      | true => simp
      | false =>
        simp only [Bool.false_eq_true, if_false, iff_false]
        split <;> exact nofun
    case fetch =>
      rw [nextOp_other empty (noFill.mp none), ← mayFetch_iff]
      show (if ch.queue.any QRec.statusDue then _ else _) = _ ↔ _
      rw [noDue.mp noWrite]
      cases (s.chan c).mayFetch <;> simp
    case fillEmpty =>
      rcases nextOp_cases s c with ⟨tag', rest, e, o⟩ | ⟨empty, _⟩
      · cases h.symm.trans o
      · exact empty
    case writeOnly =>
      rcases nextOp_cases s c with ⟨tag', rest, e, o⟩ | ⟨empty, ⟨tag', f, o⟩ | ⟨f, o⟩⟩
      · cases h.symm.trans o
      · cases h.symm.trans o
      · refine ⟨empty, noFill.mpr f, ?_⟩
        rw [h] at o
        split at o
        case isFalse =>
          split at o <;> cases o
        case isTrue some' =>
          cases found : ch.dueRec with
          | none =>
            obtain ⟨r, hr, d⟩ := List.any_eq_true.mp some'
            exact absurd d (List.find?_eq_none.mp found r hr)
          | some r =>
            obtain ⟨a, b, split, d, before⟩ := dueRec_split found
            exact ⟨a, r, b, split, (QRec.statusDue_iff r).mp d,
              fun r' hr' k => Bool.false_ne_true ((before r' hr').symm.trans ((QRec.statusDue_iff r').mpr k)), rfl⟩
    case fetchOnly =>
      rcases nextOp_cases s c with ⟨tag', rest, e, o⟩ | ⟨empty, ⟨tag', f, o⟩ | ⟨f, o⟩⟩
      · cases h.symm.trans o
      · cases h.symm.trans o
      · rw [h] at o
        split at o
        case isTrue => cases o
        case isFalse noWrite =>
          split at o
          case isFalse => cases o
          case isTrue may =>
            cases o
            exact ⟨rfl, empty, noFill.mpr f, noDue.mpr (by simpa using noWrite), (mayFetch_iff ch).mp may⟩

end Sys2Proof.Machine
end

section
/-! PROOF. Taking a descriptor in, granting its units, and the end of a descriptor fetch. -/

namespace Sys2Proof.Machine

/-! ## The end of a step that completes nothing -/

/-- A step that leaves every record that was not FREE, and creates none that is COMPLETE, completes nothing. -/
theorem newlyDone_of_kept {s u : State}
    (h : ∀ tag, u.xchg tag = s.xchg tag ∨ ∃ x, u.xchg tag = some x ∧ x.state ≠ .complete) (tag : Tag) :
    u.newlyDone s tag = false := by
  rcases h tag with e | ⟨x, hx, open'⟩
  · rw [State.newlyDone, e, Bool.and_not_self]
  · simp [State.newlyDone, hx, open']

theorem exec_end_of_kept {s u : State}
    (h : ∀ tag, u.xchg tag = s.xchg tag ∨ ∃ x, u.xchg tag = some x ∧ x.state ≠ .complete) (counts : CountsAgree u) :
    u.endStep s = u := endStep_of_none (newlyDone_of_kept h) counts

/-! ## A record taken in without an exchange (R135, R140, R148) -/

/-- The channel that has taken in a descriptor with this record (R139). -/
def takenIn (ch : Channel) (d : Desc) (r : QRec) : Channel := { ch with
  queue := ch.queue ++ [r], pendingDesc := none, next := if d.last then d.addr else d.next, endMark := ch.endMark || d.last }

theorem takeIn_eq (s : State) (c : Chan) (d : Desc) (r : QRec) : s.takeIn c d r = s.setChan c (takenIn (s.chan c) d r) := rfl

theorem recStatus_of_table {s t : State} (h : t.table = s.table) (r : QRec) : t.recStatus r = s.recStatus r := by
  unfold State.recStatus
  split
  · rfl
  · rw [xchg_of_table h]

theorem hasFailure_takeIn (s : State) (c : Chan) (d : Desc) (r : QRec) : (s.takeIn c d r).hasFailure c = (s.hasFailure c ||
    (r.stopOnFail && r.finished && !r.written && !r.faulted && (s.recStatus r).any Status.isFailure)) := by
  rw [takeIn_eq, State.hasFailure, State.hasFailure, chan_setChan_same]
  simp only [takenIn, List.any_append, List.any_cons, List.any_nil, Bool.or_false,
    recStatus_of_table (State.setChan_table s c _)]

/-- The record of a descriptor that is taken in without an exchange. -/
theorem takeIn_stays {s : State} {c : Chan} {d : Desc} {st : Status} (go : d.stopOnFail = false)
    (none' : s.hasFailure c = false) : (s.takeIn c d (d.record none (some st) true)).stopOnFailure c =
      s.setChan c (takenIn (s.chan c) d (d.record none (some st) true)) := by
  rw [stopOnFailure_calm (.inr _), takeIn_eq]
  rw [hasFailure_takeIn, none']
  simp [Desc.record, go]

/-- With STOP_ON_FAIL a failing record makes a RUNNING channel STOPPING, and stands at the tail of its queue (R148). -/
theorem takeIn_stops {s : State} {c : Chan} {d : Desc} {st : Status} (stop : d.stopOnFail = true)
    (running : (s.chan c).state = .running) (failing : st.isFailure = true) :
    (s.takeIn c d (d.record none (some st) true)).stopOnFailure c =
      (s.takeIn c d (d.record none (some st) true)).enterStopping c .failed := by
  have live : ((s.takeIn c d (d.record none (some st) true)).chan c).state.isLive = true := by
    rw [takeIn_eq, chan_setChan_same]
    show (s.chan c).state.isLive = true
    rw [running]
    rfl
  have fails : (s.takeIn c d (d.record none (some st) true)).hasFailure c = true := by
    rw [hasFailure_takeIn]
    simp [Desc.record, stop, State.recStatus, failing]
  rw [State.stopOnFailure, live, fails]
  rfl

/-- A finished record at the tail stays at the tail. -/
theorem queueKept_concat {a q : List QRec} {r : QRec} (h : QueueKept (a ++ [r]) q) (fin : r.finished = true) :
    ∃ q', q = q' ++ [r] ∧ q'.length = a.length := by
  induction a generalizing q with
  | nil =>
    cases h with
    | cons one rest => cases rest; exact ⟨[], by rw [one.2 fin]; rfl, rfl⟩
  | cons b a ih =>
    cases h with
    | cons one rest =>
      obtain ⟨q', rfl, len⟩ := ih rest
      exact ⟨_ :: q', rfl, by rw [List.length_cons, len, List.length_cons]⟩

theorem stopped_takeIn {s : State} {c : Chan} {d : Desc} {st : Status} {b : Channel}
    (h : Stopped .failed ((s.takeIn c d (d.record none (some st) true)).chan c) b) :
    b.state = .stopping ∧ b.haltCause = some .failed ∧ b.pendingDesc = none ∧
      ∃ q, b.queue = q ++ [d.record none (some st) true] ∧ q.length = (s.chan c).queue.length := by
  obtain ⟨q, kept, final⟩ := h.queue
  rw [takeIn_eq, chan_setChan_same] at kept
  obtain ⟨q', rfl, len⟩ := queueKept_concat (a := (s.chan c).queue) kept rfl
  rcases final with ⟨st, e⟩ | ⟨_, _, done⟩
  · exact ⟨st, h.cause, h.pending, q', e, len⟩
  · have := done _ (List.mem_append_right _ List.mem_cons_self)
    simp [Desc.record] at this

/-! ## The grant (R140) -/

/-- The station of a descriptor that takes no new exchange. -/
theorem grant_notPresent {s : State} {c : Chan} {d : Desc} {kd : Kind} {n : Stn} (kind : d.kind.kind = some kd)
    (dest : d.dest = .station n) (closed : (s.entry n).state.isOpen = false) :
    s.grant c d = (s.takeIn c d (d.record none (some .notPresent) true)).stopOnFailure c := by
  have absent : s.notPresent d = true := by
    rw [State.notPresent, dest]
    dsimp only
    rw [closed]
    rfl
  rw [State.grant, kind]
  dsimp only
  rw [if_pos absent]

/-- The creation of a descriptor's exchange where quota, record and units are at hand. -/
theorem grant_created {s : State} {c : Chan} {d : Desc} {kd : Kind} {tag : Tag} (kind : d.kind.kind = some kd)
    (open' : ∀ n, d.dest = .station n → (s.entry n).state.isOpen = true)
    (quota : s.countX (fun x => x.owner == .list c) < 10) (free : s.xchg tag = none) (low : ∀ t', t' < tag → s.xchg t' ≠ none)
    (need : unitsNeeded kd (d.request c kd).length ≤ (s.freeUnits (.list c)).length) :
    s.grant c d = (s.created (d.request c kd) tag
      ((s.freeUnits (.list c)).take (unitsNeeded kd (d.request c kd).length))).takeIn c d (d.record (some tag) none false) := by
  have present : s.notPresent d = false := by
    rw [State.notPresent]
    cases hd : d.dest with
    | broadcast => rfl
    | station n =>
      dsimp only
      rw [open' n hd]
      rfl
  have created := create_eq (s := s) (r := d.request c kd) (tag := tag) (decide_eq_true quota) free low rfl
    (List.length_take_of_le need)
  rw [State.grant, kind]
  dsimp only
  rw [present, if_neg Bool.false_ne_true, State.createFor, created]
  rfl

theorem takeIn_created_xchg (s : State) (c : Chan) (d : Desc) (r : Request) (tag : Tag) (us : List UnitNo) (q : QRec)
    (t' : Tag) : ((s.created r tag us).takeIn c d q).xchg t' = if t' = tag then some (r.exchange us) else s.xchg t' :=
  (xchg_modChan _ c _ t').trans (created_xchg s r tag us t')

/-- After a creation the step has completed nothing, and the counts stay. -/
theorem endStep_created {s : State} (counts : CountsAgree s) {c : Chan} {d : Desc} {r : Request} {tag : Tag}
    {us : List UnitNo} {q : QRec} (free : s.xchg tag = none) {before : State} (same : ∀ t', s.xchg t' = before.xchg t') :
    ((s.created r tag us).takeIn c d q).endStep before = (s.created r tag us).takeIn c d q := by
  refine exec_end_of_kept (fun t' => ?_) ?_
  · rw [takeIn_created_xchg]
    split
    · refine .inr ⟨_, rfl, ?_⟩
      show r.startState ≠ .complete
      unfold Request.startState
      split <;> exact nofun
    · exact .inl (same t')
  · refine (countsAgree_created (r := r) (us := us) counts free).of_same ?_ ?_ <;> cases c <;> rfl

end Sys2Proof.Machine
end

section
/-! PROOF. The end of a descriptor fetch: what a descriptor's words say, and what is done with it. -/

namespace Sys2Proof.Machine

/-! ## The words of a descriptor (R134, R177) -/

theorem descKind_of {w : Word} {k : Nat} (h : w.toNat % 8 = k) :
    descKindOf (w.extractLsb' 0 3) = descKindOf (BitVec.ofNat 3 k) := by
  congr 1
  apply BitVec.eq_of_toNat_eq
  rw [BitVec.extractLsb'_toNat, BitVec.toNat_ofNat, ← h]
  simp

theorem descStation_toNat (w : Word) : (w.extractLsb' 8 5).toNat = w.toNat / 256 % 32 := by
  rw [BitVec.extractLsb'_toNat, Nat.shiftRight_eq_div_pow]

theorem descLength_toNat (w : Word) : (w.extractLsb' 0 8).toNat = w.toNat % 256 := by
  rw [BitVec.extractLsb'_toNat]
  simp

section Fields

variable (addr w0 w1 w2 w3 w4 : Word)

/-- The kind of a descriptor, by the number in its kind field. -/
theorem decodeDesc_kind : (decodeDesc addr w0 w1 w2 w3 w4).kind = descKindOf (BitVec.ofNat 3 (w0.toNat % 8)) :=
  descKind_of rfl

theorem decodeDesc_length : (decodeDesc addr w0 w1 w2 w3 w4).length = w2.toNat % 256 + 1 :=
  congrArg (· + 1) (descLength_toNat w2)

theorem decodeDesc_station : (decodeDesc addr w0 w1 w2 w3 w4).station.toNat = w0.toNat / 256 % 32 := descStation_toNat w0

/-- The record of a fetched descriptor. -/
theorem decodeDesc_record (tag : Option Tag) (st : Option Status) (fin : Bool) :
    (decodeDesc addr w0 w1 w2 w3 w4).record tag st fin =
      { addr := addr, next := if w0.getLsbD 19 then none else some (w4 &&& 0xFFFFFFE0#32), irq := w0.getLsbD 17
        stopOnFail := w0.getLsbD 18, tag := tag, status := st, finished := fin, written := false, faulted := false
        buffer := w3 } := rfl

/-- The INVALID descriptors (R135), by the numbers in the fields. -/
theorem decodeDesc_isInvalid (nop : w0.toNat % 8 ≠ 5) : (decodeDesc addr w0 w1 w2 w3 w4).isInvalid = false ↔
    (w0.toNat % 8 = 1 ∨ w0.toNat % 8 = 2) ∧ w0.toNat / 256 % 32 ≠ 0 ∧ w0.toNat / 256 % 32 ≠ 31 ∧ w3.toNat % 4 = 0 ∨
      w0.toNat % 8 = 3 ∧ w0.toNat / 256 % 32 ≠ 0 ∧ w0.toNat / 256 % 32 ≠ 31 ∨
      w0.toNat % 8 = 4 ∧ w0.toNat / 256 % 32 = 31 ∧ w3.toNat % 4 = 0 := by
  have field (k : BitVec 5) : ((decodeDesc addr w0 w1 w2 w3 w4).station == k) = decide (w0.toNat / 256 % 32 = k.toNat) := by
    rw [Bool.eq_iff_iff, beq_iff_eq, decide_eq_true_iff, ← descStation_toNat]
    exact ⟨congrArg _, BitVec.eq_of_toNat_eq⟩
  have buffer : (decodeDesc addr w0 w1 w2 w3 w4).buffer = w3 := rfl
  have kind := decodeDesc_kind addr w0 w1 w2 w3 w4
  have lt : w0.toNat % 8 < 8 := Nat.mod_lt _ (by decide)
  simp only [Desc.isInvalid, bne, field, buffer]
  generalize w0.toNat % 8 = k at kind lt nop ⊢
  rw [kind]
  interval_cases k <;> first | exact absurd rfl nop | simp [descKindOf, and_assoc]

/-- The units a fetched descriptor needs (R140). -/
theorem decodeDesc_units (kinds : w0.toNat % 8 ∈ [1, 2, 3, 4]) : (decodeDesc addr w0 w1 w2 w3 w4).units =
    if w0.toNat % 8 = 3 then 0 else (w2.toNat % 256 + 32) / 32 := by
  have length := decodeDesc_length addr w0 w1 w2 w3 w4
  rw [Desc.units, decodeDesc_kind, length]
  simp only [List.mem_cons, List.not_mem_nil, or_false] at kinds
  rcases kinds with h | h | h | h <;> rw [h] <;> rfl

/-- The exchange kind of a fetched descriptor. -/
theorem decodeDesc_exchangeKind (kinds : w0.toNat % 8 ∈ [1, 2, 3, 4]) : (decodeDesc addr w0 w1 w2 w3 w4).kind.kind =
    some (if w0.toNat % 8 = 1 then .write else if w0.toNat % 8 = 2 then .read else if w0.toNat % 8 = 3 then .signal
      else .bcastWrite) := by
  rw [decodeDesc_kind]
  simp only [List.mem_cons, List.not_mem_nil, or_false] at kinds
  rcases kinds with h | h | h | h <;> rw [h] <;> rfl

theorem decodeDesc_dest_station {n : Stn} (h : w0.toNat / 256 % 32 = addrOf n) :
    (decodeDesc addr w0 w1 w2 w3 w4).dest = .station n := by
  rw [Desc.dest, stnOfField_addr ((decodeDesc_station addr w0 w1 w2 w3 w4).trans h)]

theorem decodeDesc_dest_broadcast (h : w0.toNat / 256 % 32 = 31) : (decodeDesc addr w0 w1 w2 w3 w4).dest = .broadcast := by
  have field : (decodeDesc addr w0 w1 w2 w3 w4).station = 31#5 :=
    BitVec.eq_of_toNat_eq ((decodeDesc_station addr w0 w1 w2 w3 w4).trans h)
  rw [Desc.dest, stnOfField_noStation (.inr field)]

end Fields

/-! ## What is done with it -/

theorem exec_descriptorFetchEnd {s : State} {c : Chan} (op : (s.chan c).portOp = some (.fetch false)) (w0 w1 w2 w3 w4 : Word) :
    exec (.descriptorFetchEnd c w0 w1 w2 w3 w4) s = .next
      (((s.endOp c).intake c (decodeDesc (s.chan c).next w0 w1 w2 w3 w4)).endStep s) := by
  show execDescriptorFetchEnd c w0 w1 w2 w3 w4 s = _
  rw [execDescriptorFetchEnd, op]
  rfl

theorem intake_invalid {s : State} {c : Chan} {d : Desc} (h : d.isInvalid = true) :
    s.intake c d = (s.takeIn c d (d.record none (some .invalid) true)).stopOnFailure c := by
  rw [State.intake, if_pos h]

theorem intake_nop {s : State} {c : Chan} {d : Desc} (h : d.kind = .nop) :
    s.intake c d = s.takeIn c d (d.record none (some .ok) (!d.fence)) := by
  have valid : d.isInvalid = false := by rw [Desc.isInvalid, h]
  rw [State.intake, valid, h]
  rfl

theorem intake_asks {s : State} {c : Chan} {d : Desc} {kd : Kind} (valid : d.isInvalid = false) (kind : d.kind.kind = some kd) :
    s.intake c d = s.askUnits c d := by
  rw [State.intake, valid, if_neg Bool.false_ne_true]
  split <;> first | rfl | (rename_i e; rw [e] at kind; cases kind)

theorem askUnits_granted {s : State} {c : Chan} {d : Desc}
    (h : d.units = 0 ∨ s.table.waitList = [] ∧ d.units ≤ (s.freeUnits (.list c)).length) : s.askUnits c d = s.grant c d := by
  rw [State.askUnits]
  exact if_pos h

theorem askUnits_waits {s : State} {c : Chan} {d : Desc}
    (h : ¬(d.units = 0 ∨ s.table.waitList = [] ∧ d.units ≤ (s.freeUnits (.list c)).length)) : s.askUnits c d =
      { s.setChan c { s.chan c with pendingDesc := some d } with
        table := { s.table with waitList := s.table.waitList ++ [(c, d.units)] } } := by
  rw [State.askUnits]
  dsimp only
  rw [if_neg h]
  cases c <;> rfl

theorem endOp_countsAgree {s : State} (h : CountsAgree s) (c : Chan) : CountsAgree (s.endOp c) :=
  h.of_same (State.modChan_dir s c _) (State.modChan_table s c _)

theorem endOp_entry (s : State) (c : Chan) (n : Stn) : (s.endOp c).entry n = s.entry n := entry_modChan s c _ n

theorem endOp_xchg (s : State) (c : Chan) (tag : Tag) : (s.endOp c).xchg tag = s.xchg tag := xchg_modChan s c _ tag

theorem freeUnits_of_xchg {s t : State} (h : ∀ tag, t.xchg tag = s.xchg tag) (o : Owner) : t.freeUnits o = s.freeUnits o := by
  have held (u : UnitNo) : t.unitHeld u = s.unitHeld u := by
    rw [Bool.eq_iff_iff, ← Bool.not_eq_false, ← Bool.not_eq_false, not_iff_not, State.unitHeld, State.unitHeld,
      anyX_eq_false_iff, anyX_eq_false_iff]
    simp only [h]
  simp only [State.freeUnits, held]

/-- A record taken in at the end of a fetch. -/
theorem endOp_takeIn (s : State) (c : Chan) (d : Desc) (r : QRec) :
    (s.endOp c).takeIn c d r = s.setChan c { takenIn (s.chan c) d r with portOp := none } := by
  cases c <;> rfl

theorem hasFailure_endOp (s : State) (c : Chan) : (s.endOp c).hasFailure c = s.hasFailure c := by
  rw [State.hasFailure, State.hasFailure, State.endOp, chan_modChan_same]
  simp only [recStatus_of_table (State.modChan_table s c _)]

/-- Settles O48: the fields by the lemmas about `decodeDesc`, and each way a descriptor goes by the lemmas about the grant
and about a record taken in. -/
theorem descriptorFetchEnd : Obligations.DescriptorFetchEnd := by
  intro s c w0 w1 w2 w3 w4 counts ended last nextAddr record taken run without kind station need valid granted closed
  let d := decodeDesc (s.chan c).next w0 w1 w2 w3 w4
  have agree := endOp_countsAgree counts c
  have isClosed {n : Stn} : (s.entry n).state.isOpen = false ↔ closed n := isOpen_iff _
  refine ⟨fun op => ?dropped, fun op => ⟨fun nop => ?nop, fun other bad => ?invalid, fun n ok at' shut go => ?notPresent,
    fun dk ok wait hdk => ?waits, fun dest kd tag ok go hd hk quota free low => ?creates⟩⟩
  case dropped =>
    show execDescriptorFetchEnd c w0 w1 w2 w3 w4 s = _
    rw [execDescriptorFetchEnd, op]
    rfl
  all_goals have begin' : run = _ := exec_descriptorFetchEnd op w0 w1 w2 w3 w4
  -- a record taken in without an exchange
  all_goals
    have plain {r : QRec} : ((s.endOp c).takeIn c d r).endStep s = s.setChan c (taken r) := by
      rw [endOp_takeIn, exec_end_of_kept (fun t' => .inl (xchg_setChan s c _ t'))]
      · rfl
      · exact counts.of_same (by simp) (by simp)
    have alone {st : Status} (failing : st.isFailure = true) (hrun : run = .next
        (((s.endOp c).takeIn c d (d.record none (some st) true)).stopOnFailure c |>.endStep s)) : without st := by
      refine ⟨fun go noFail => ?_, fun stop running => ?_⟩
      · rw [hrun, takeIn_stays go (by rw [hasFailure_endOp]; exact noFail)]
        exact congrArg _ plain
      · have running' : ((s.endOp c).chan c).state = .running := by
          rw [State.endOp, chan_modChan_same]
          exact running
        rw [takeIn_stops stop running' failing] at hrun
        obtain ⟨state, cause, pending, q, queue, len⟩ := stopped_takeIn (enterStopping_stopped
          ((s.endOp c).takeIn c d (d.record none (some st) true)) c .failed)
        have outer : (((s.endOp c).takeIn c d (d.record none (some st) true)).enterStopping c .failed |>.endStep s).outer =
            s.outer := by
          rw [endStep_outer, enterStopping_outer, endOp_takeIn, setChan_outer]
        refine ⟨_, q, hrun, ?_, ?_, ?_, ?_, ?_, congrArg Outer.line outer, congrArg Outer.store outer⟩
        · rw [chan_endStep, state]
        · rw [chan_endStep, cause]
        · rw [chan_endStep, pending]
        · rw [chan_endStep, queue]
          rfl
        · rw [len, State.endOp, chan_modChan_same]
  case nop =>
    have isNop : d.kind = .nop := (decodeDesc_kind ..).trans (by rw [show w0.toNat % 8 = 5 from nop]; rfl)
    rw [begin', intake_nop isNop]
    exact congrArg _ plain
  case invalid =>
    have bad' : d.isInvalid = true := by
      by_contra no
      exact bad ((decodeDesc_isInvalid _ w0 w1 w2 w3 w4 other).mp (by simpa using no))
    refine alone rfl ?_
    rw [begin', intake_invalid bad']
  all_goals
    have kinds : w0.toNat % 8 ∈ [1, 2, 3, 4] := by
      have : kind ∈ [1, 2, 3, 4] := by
        rcases ok with ⟨h | h, _⟩ | ⟨h, _⟩ | ⟨h, _⟩ <;> rw [h] <;> decide
      exact this
    have notNop : w0.toNat % 8 ≠ 5 := fun e => by rw [e] at kinds; revert kinds; decide
    have sound : d.isInvalid = false := (decodeDesc_isInvalid _ w0 w1 w2 w3 w4 notNop).mpr ok
    have exchange := decodeDesc_exchangeKind (s.chan c).next w0 w1 w2 w3 w4 kinds
    have units : d.units = need := decodeDesc_units _ w0 w1 w2 w3 w4 kinds
    have wait' : (s.endOp c).table.waitList = s.table.waitList := congrArg Table.waitList (State.modChan_table s c _)
    have freeUnits : (s.endOp c).freeUnits (.list c) = s.freeUnits (.list c) := freeUnits_of_xchg (endOp_xchg s c) _
    rw [intake_asks sound exchange] at begin'
  case notPresent =>
    have go' : d.units = 0 ∨ (s.endOp c).table.waitList = [] ∧ d.units ≤ ((s.endOp c).freeUnits (.list c)).length := by
      rw [units, wait', freeUnits]
      exact go
    rw [askUnits_granted go', grant_notPresent exchange (decodeDesc_dest_station _ w0 w1 w2 w3 w4 at')
      (by rw [endOp_entry]; exact isClosed.mpr shut)] at begin'
    exact alone rfl begin'
  case waits =>
    have wait'' : ¬(d.units = 0 ∨ (s.endOp c).table.waitList = [] ∧ d.units ≤ ((s.endOp c).freeUnits (.list c)).length) := by
      rw [units, wait', freeUnits]
      exact wait
    have hkind : d.kind = dk := by
      have notSignal : kind ≠ 3 := fun e => wait (.inl (if_pos e))
      rw [hdk]
      refine (decodeDesc_kind ..).trans ?_
      have kinds' : kind ∈ [1, 2, 3, 4] := kinds
      show descKindOf (BitVec.ofNat 3 kind) = _
      simp only [List.mem_cons, List.not_mem_nil, or_false] at kinds'
      rcases kinds' with h | h | h | h
      · rw [h]; rfl
      · rw [h]; rfl
      · exact absurd h notSignal
      · rw [h]; rfl
    have hstation : d.station = BitVec.ofNat 5 station :=
      BitVec.eq_of_toNat_eq ((descStation_toNat w0).trans (by
        have lt : station < 2 ^ 5 := Nat.mod_lt _ (by decide)
        rw [BitVec.toNat_ofNat, Nat.mod_eq_of_lt lt]))
    have hd : d = { addr := (s.chan c).next, kind := dk, station := BitVec.ofNat 5 station, fence := w0.getLsbD 16,
                    irq := w0.getLsbD 17, stopOnFail := w0.getLsbD 18, last := last, regAddr := w1.extractLsb' 0 16,
                    signalOp := w1.extractLsb' 16 8, length := w2.toNat % 256 + 1, buffer := w3, next := nextAddr } := by
      rw [← hkind, ← hstation, ← decodeDesc_length (s.chan c).next w0 w1 w2 w3 w4]
      rfl
    rw [begin', askUnits_waits wait'', units, exec_end_of_kept (fun t' => .inl ?_), ← hd]
    · cases c <;> rfl
    · exact countsAgree_of counts (fun n => by cases c <;> rfl) fun n => deferredOf_of_xchg (fun t' => by cases c <;> rfl) n
    · cases c <;> rfl
  case creates =>
    have kind' : d.kind.kind = some kd := by rw [exchange, hk]
    have hdest : d.dest = dest := by
      rcases hd with ⟨rfl, four⟩ | ⟨n, rfl, at', _⟩
      · refine decodeDesc_dest_broadcast _ w0 w1 w2 w3 w4 ?_
        rcases ok with ⟨h | h, _⟩ | ⟨h, _⟩ | ⟨_, h, _⟩
        · exact absurd (four.symm.trans h) (by decide)
        · exact absurd (four.symm.trans h) (by decide)
        · exact absurd (four.symm.trans h) (by decide)
        · exact h
      · exact decodeDesc_dest_station _ w0 w1 w2 w3 w4 at'
    have open' : ∀ n, d.dest = .station n → ((s.endOp c).entry n).state.isOpen = true := fun n e => by
      rw [hdest] at e
      rcases hd with ⟨rfl, _⟩ | ⟨m, rfl, _, notClosed⟩
      · cases e
      · cases e
        rw [endOp_entry]
        by_contra no
        exact notClosed (isClosed.mp (by simpa using no))
    have exact' : d.request c kd = {
        owner := .list c, kind := kd, dest := dest, regAddr := some (w1.extractLsb' 0 16),
        length := if kind = 3 then none else some (w2.toNat % 256 + 1),
        signalOp := if kind = 3 then some (w1.extractLsb' 16 8) else none, fence := w0.getLsbD 16 } := by
      have length : d.length = w2.toNat % 256 + 1 := decodeDesc_length ..
      unfold Desc.request
      rw [hdest, length, hk]
      have kinds' : kind ∈ [1, 2, 3, 4] := kinds
      simp only [List.mem_cons, List.not_mem_nil, or_false] at kinds'
      rcases kinds' with h | h | h | h <;> rw [h] <;> rfl
    have need' : unitsNeeded kd (d.request c kd).length = need := by
      rw [exact', hk]
      have kinds' : kind ∈ [1, 2, 3, 4] := kinds
      simp only [List.mem_cons, List.not_mem_nil, or_false] at kinds'
      show _ = if kind = 3 then 0 else _
      rcases kinds' with h | h | h | h <;> rw [h] <;> rfl
    have starts : (d.request c kd).startState = if kind = 1 ∨ kind = 4 then .filling else .waiting := by
      rw [exact', hk]
      have kinds' : kind ∈ [1, 2, 3, 4] := kinds
      simp only [List.mem_cons, List.not_mem_nil, or_false] at kinds'
      rcases kinds' with h | h | h | h <;> rw [h] <;> rfl
    have go' : d.units = 0 ∨ (s.endOp c).table.waitList = [] ∧ d.units ≤ ((s.endOp c).freeUnits (.list c)).length := by
      rw [units, wait', freeUnits]
      exact go
    have enough : unitsNeeded kd (d.request c kd).length ≤ ((s.endOp c).freeUnits (.list c)).length := by
      rw [need', freeUnits]
      rcases go with none' | ⟨_, fits⟩
      · rw [none']
        exact Nat.zero_le _
      · exact fits
    have free' : (s.endOp c).xchg tag = none := (endOp_xchg s c tag).trans free
    rw [askUnits_granted go', grant_created kind' open' (by rw [countX_of_xchg (endOp_xchg s c)]; exact quota) free'
      (fun t' h => by rw [endOp_xchg]; exact low t' h) enough,
      endStep_created agree free' (endOp_xchg s c), need', freeUnits] at begin'
    let u := (s.endOp c).created (d.request c kd) tag ((s.freeUnits (.list c)).take need)
    have xchg (t' : Tag) : (u.takeIn c d (d.record (some tag) none false)).xchg t' =
        if t' = tag then some ((d.request c kd).exchange ((s.freeUnits (.list c)).take need)) else s.xchg t' := by
      rw [← endOp_xchg s c]
      exact takeIn_created_xchg _ c d _ tag _ _ t'
    refine ⟨_, begin', ?_, fun t' other => by rw [xchg, if_neg other], ?_, ?_, ?_, ?_, ?_⟩
    · rw [xchg, if_pos rfl, Request.exchange, starts, exact']
    · cases c <;> rfl
    · cases c <;> rfl
    · cases c <;> rfl
    · cases c <;> rfl
    · cases c <;> rfl

end Sys2Proof.Machine
end

section
/-! PROOF. The creations of the directory and the Event Unit, and the grant of payload units. -/

namespace Sys2Proof.Machine

/-! ## Census and recovery creations (R29, R36) -/

theorem censusReady_iff (s : State) (m : Stn) : s.censusReady m = true ↔
    (s.entry m).state = .vacant ∨ (s.entry m).state = .silent ∨ (s.entry m).state = .present ∨ (s.entry m).state = .suspect ∨
      (s.entry m).state = .recovering ∧ (s.entry m).holdTimer = none := by
  unfold State.censusReady
  cases (s.entry m).state <;> simp

theorem recoveryAdmitted_purge (s : State) (m : Stn) : s.recoveryAdmitted (m, .purge) = true ↔ (s.entry m).deferred = 0 ∧
    ((s.entry m).state = .present ∨ (s.entry m).state = .suspect ∨ (s.entry m).state = .resync) := by
  unfold State.recoveryAdmitted
  cases (s.entry m).state <;> simp

theorem recoveryAdmitted_reset (s : State) (m : Stn) : s.recoveryAdmitted (m, .reset) = true ↔
    (s.entry m).state = .present ∨ (s.entry m).state = .suspect ∨ (s.entry m).state = .resync ∨
      (s.entry m).state = .recovering := by
  unfold State.recoveryAdmitted
  cases (s.entry m).state <;> simp

theorem find?_split {α : Type} {p : α → Bool} {a b : List α} {x : α} (ha : ∀ y ∈ a, p y = false) (hx : p x = true) :
    (a ++ x :: b).find? p = some x := by
  rw [List.find?_append, List.find?_eq_none.mpr (by simpa using ha), Option.none_or, List.find?_cons_of_pos hx]

theorem census_quota (s : State) : s.quotaOk .internal .census = true ↔ ∀ tag x, s.xchg tag = some x → x.kind ≠ .census := by
  show (!s.anyX fun x => x.kind == .census) = true ↔ _
  rw [Bool.not_eq_true', anyX_eq_false_iff]
  simp

theorem recovery_quota (s : State) (act : RecAction) : s.quotaOk .internal act.kind = true ↔
    ∀ tag x, s.xchg tag = some x → x.kind ≠ .purge ∧ x.kind ≠ .stationReset := by
  have same : s.quotaOk .internal act.kind = !s.anyX fun x => x.kind == .purge || x.kind == .stationReset := by
    cases act <;> rfl
  rw [same, Bool.not_eq_true', anyX_eq_false_iff]
  simp

theorem exec_censusCreation_none {s : State}
    (h : s.line.state = .off ∨ (∃ tag x, s.xchg tag = some x ∧ x.kind = .census) ∨
      ∀ m ∈ s.dir.census, s.censusReady m = false) : exec .censusCreation s = .next s := by
  show execCensusCreation s = _
  unfold execCensusCreation
  split
  · rfl
  · rename_i on
    split
    · rfl
    · rename_i n found
      rcases h with off | ⟨tag, x, hx, kind⟩ | none'
      · exact absurd off on
      · have quota : s.quotaOk .internal .census = false :=
          Bool.eq_false_iff.mpr fun ok => (census_quota s).mp ok tag x hx kind
        rw [create_eq_none (r := internalRequest .census n) quota]
      · have ready := List.find?_some found
        rw [none' n (List.mem_of_find?_eq_some found)] at ready
        cases ready

theorem exec_recoveryCreation_none {s : State}
    (h : s.line.state = .off ∨ (∃ tag x, s.xchg tag = some x ∧ (x.kind = .purge ∨ x.kind = .stationReset)) ∨
      ∀ r ∈ s.dir.recovery, s.recoveryAdmitted r = false) : exec .recoveryCreation s = .next s := by
  show execRecoveryCreation s = _
  unfold execRecoveryCreation
  split
  · rfl
  · rename_i on
    split
    · rfl
    · rename_i r found
      rcases h with off | ⟨tag, x, hx, kind⟩ | none'
      · exact absurd off on
      · have quota : s.quotaOk .internal r.2.kind = false :=
          Bool.eq_false_iff.mpr fun ok => kind.elim ((recovery_quota s r.2).mp ok tag x hx).1 ((recovery_quota s r.2).mp ok tag x hx).2
        rw [create_eq_none (r := internalRequest r.2.kind r.1) quota]
      · have admitted := List.find?_some found
        rw [none' r (List.mem_of_find?_eq_some found)] at admitted
        cases admitted

theorem exec_censusCreation_some {s s1 : State} {n : Stn} {tag : Tag} (on : s.line.state ≠ .off)
    (found : s.dir.census.find? s.censusReady = some n) (made : s.create (internalRequest .census n) = some (tag, s1)) :
    exec .censusCreation s = .next { s1.recount with dir.census := s1.dir.census.filter (· != n) } := by
  show execCensusCreation s = _
  rw [execCensusCreation, if_neg on, found]
  dsimp only
  rw [made]

theorem exec_recoveryCreation_some {s s1 : State} {r : Stn × RecAction} {tag : Tag} (on : s.line.state ≠ .off)
    (found : s.dir.recovery.find? s.recoveryAdmitted = some r)
    (made : s.create (internalRequest r.2.kind r.1) = some (tag, s1)) :
    exec .recoveryCreation s = .next { s1.recount with dir.recovery := s1.dir.recovery.filter fun r' => r'.1 != r.1 } := by
  show execRecoveryCreation s = _
  rw [execRecoveryCreation, if_neg on, found]
  dsimp only
  rw [made]

/-! ## Event fetches (R164) -/

/-- The order in which the Event Unit looks at the stations, as numbers. -/
theorem stnsAfter_val : ∀ n : Stn, (stnsAfter n).map (·.val) = (List.range 30).map fun i => (n.val + 1 + i) % 30 := by
  decide +kernel

/-- A station whose event may be fetched, the counts apart. -/
def State.eventDue (s : State) (m : Stn) : Prop := (s.entry m).eventPending = true ∧
  ((s.entry m).state = .present ∨ (s.entry m).state = .suspect) ∧
  ∀ tag x, s.xchg tag = some x → x.kind = .fetchEvent → x.dest ≠ .station m

theorem fetchable_iff (s : State) (m : Stn) : s.fetchable m = true ↔ s.eventDue m ∧
    s.countX (fun x => x.kind == .fetchEvent) < 2 ∧
    s.events.queue.length + s.countX (fun x => x.kind == .fetchEvent) < 16 := by
  have two : decide (s.countX (fun x => x.kind == .fetchEvent) < Config.fetchQuota) = true ↔
      s.countX (fun x => x.kind == .fetchEvent) < 2 := decide_eq_true_iff
  have room : decide (s.events.queue.length + s.countX (fun x => x.kind == .fetchEvent) < Config.eventPlaces) = true ↔
      s.events.queue.length + s.countX (fun x => x.kind == .fetchEvent) < 16 := decide_eq_true_iff
  simp only [State.fetchable, Bool.and_eq_true, two, room]
  simp [State.eventDue, anyX_eq_false_iff, and_assoc]

theorem fetchOne_idle {s : State} (h : ∀ m, s.fetchable m = false) : s.fetchOne = s := by
  have none' : (stnsAfter s.events.lastServed).find? s.fetchable = none := List.find?_eq_none.mpr fun m _ => by simp [h m]
  rw [State.fetchOne, none']

/-- The first station in the order of the search that may be served. -/
theorem find?_stnsAfter {s : State} {m n : Stn} {a b : List Nat}
    (order : (List.range 30).map (fun i => (m.val + 1 + i) % 30) = a ++ n.val :: b)
    (before : ∀ k : Stn, k.val ∈ a → s.fetchable k = false) (h : s.fetchable n = true) :
    (stnsAfter m).find? s.fetchable = some n := by
  rw [← stnsAfter_val, List.map_eq_append_iff] at order
  obtain ⟨a', r, split, rfl, rest⟩ := order
  obtain ⟨n', b', rfl, val, _⟩ := List.map_eq_cons_iff.mp rest
  obtain rfl : n' = n := Fin.ext val
  rw [split]
  exact find?_split (fun k hk => before k (List.mem_map_of_mem hk)) h

theorem fetchOne_some {s s1 : State} {n : Stn} {tag : Tag}
    (found : (stnsAfter s.events.lastServed).find? s.fetchable = some n)
    (made : s.create (internalRequest .fetchEvent n) = some (tag, s1)) :
    s.fetchOne = { s1 with events.lastServed := n } := by
  rw [State.fetchOne, found]
  dsimp only
  rw [made]

end Sys2Proof.Machine
end

section
/-! PROOF. The creations the part makes of itself: the statement. -/

namespace Sys2Proof.Machine

/-- The internal creation of a kind that needs one unit, with the lowest FREE record and the lowest free unit. -/
theorem create_internal_one {s : State} {k : Kind} {n : Stn} {tag : Tag} {u : UnitNo} (quota : s.quotaOk .internal k = true)
    (one : unitsNeeded k none = 1) (free : s.xchg tag = none) (low : ∀ t', t' < tag → s.xchg t' ≠ none) (lo : 8 ≤ u.val)
    (hi : u.val < 12) (unit : s.unitHeld u = false)
    (lowUnit : ∀ u' : UnitNo, 8 ≤ u'.val → u'.val < u.val → s.unitHeld u' = true) :
    s.create (internalRequest k n) = some (tag, s.created (internalRequest k n) tag [u]) :=
  create_eq (r := internalRequest k n) quota free low
    (by rw [show unitsNeeded (internalRequest k n).kind (internalRequest k n).length = 1 from one]
        exact freeUnits_take_one lo hi unit lowUnit)
    one.symm

theorem fetch_quota (s : State) :
    s.quotaOk .internal .fetchEvent = true ↔ s.countX (fun x => x.kind == .fetchEvent) < 2 := decide_eq_true_iff

theorem created_entry (s : State) (r : Request) (tag : Tag) (us : List UnitNo) (n : Stn) :
    (s.created r tag us).entry n = s.entry n := rfl

/-- A unit is held after a creation where it was, or is one of the creation's. -/
theorem created_unitHeld {s : State} {r : Request} {tag : Tag} {us : List UnitNo} (free : s.xchg tag = none) (u : UnitNo) :
    (s.created r tag us).unitHeld u = (s.unitHeld u || us.contains u) := by
  rw [Bool.eq_iff_iff, Bool.or_eq_true, ← Bool.not_eq_false, ← Bool.not_eq_false (b := s.unitHeld u), State.unitHeld,
    State.unitHeld, anyX_eq_false_iff, anyX_eq_false_iff]
  simp only [created_xchg]
  constructor
  · intro h
    by_contra no
    rw [not_or, not_not] at no
    refine h fun t' x hx => ?_
    split at hx
    · cases hx
      simpa [Request.exchange] using no.2
    · exact no.1 t' x hx
  · rintro (h | h) none'
    · refine h fun t' x hx => none' t' x ?_
      rw [if_neg fun e => ?_]
      · exact hx
      · rw [e, free] at hx
        cases hx
    · have := none' tag (r.exchange us) (if_pos rfl)
      simp only [Request.exchange] at this
      rw [h] at this
      cases this

/-! ## Two looks of the Event Unit -/

/-- The state in which a station has been served. -/
def State.served (s : State) (tag : Tag) (u : UnitNo) (n : Stn) : State :=
  { s.created (internalRequest .fetchEvent n) tag [u] with events := { s.events with lastServed := n } }

section Served

variable {s : State} {tag : Tag} {u : UnitNo} {n : Stn} (free : s.xchg tag = none)

theorem served_xchg (t' : Tag) : (s.served tag u n).xchg t' =
    if t' = tag then some ((internalRequest .fetchEvent n).exchange [u]) else s.xchg t' := created_xchg s _ tag [u] t'

include free

theorem served_fetches : (s.served tag u n).countX (fun x => x.kind == .fetchEvent) =
    s.countX (fun x => x.kind == .fetchEvent) + 1 := by
  have more : s.countX (fun x => x.kind == .fetchEvent) + 1 = (s.served tag u n).countX (fun x => x.kind == .fetchEvent) := by
    unfold State.countX
    refine (countP_succ allTags_nodup (mem_allTags tag) ?_ ?_ fun b hb => ?_).symm
    · rw [served_xchg, if_pos rfl]; rfl
    · rw [free]; rfl
    · rw [served_xchg, if_neg hb]
  exact more.symm

theorem served_countsAgree (h : CountsAgree s) : CountsAgree (s.served tag u n) :=
  (countsAgree_created (r := internalRequest .fetchEvent n) (us := [u]) h free).of_same rfl rfl

theorem served_eventDue (m : Stn) : (s.served tag u n).eventDue m ↔ m ≠ n ∧ s.eventDue m := by
  unfold State.eventDue
  constructor
  · rintro ⟨pending, state, none'⟩
    refine ⟨fun e => ?_, pending, state, fun t' x hx kind => none' t' x ?_ kind⟩
    · refine none' tag _ ((served_xchg tag).trans (if_pos rfl)) rfl ?_
      rw [e]
      rfl
    · rw [served_xchg, if_neg fun e => ?_]
      · exact hx
      · rw [e, free] at hx
        cases hx
  · rintro ⟨other, pending, state, none'⟩
    refine ⟨pending, state, fun t' x hx kind => ?_⟩
    rw [served_xchg] at hx
    split at hx
    · cases hx
      exact fun e => other (by cases e; rfl)
    · exact none' t' x hx kind

end Served

theorem exec_fetchEventCreation (s : State) : exec .fetchEventCreation s = .next s.fetchOne.fetchOne.recount := rfl

/-! ## The grant (R13, R140) -/

theorem exec_payloadGrant_empty {s : State} (h : s.table.waitList = []) : exec .payloadGrant s = .next s := by
  show execPayloadGrant s = _
  rw [execPayloadGrant, h]

theorem exec_payloadGrant_few {s : State} {c : Chan} {k : Nat} {rest : List (Chan × Nat)}
    (h : s.table.waitList = (c, k) :: rest) (few : (s.freeUnits (.list c)).length < k) : exec .payloadGrant s = .next s := by
  show execPayloadGrant s = _
  rw [execPayloadGrant, h]
  exact if_neg (Nat.not_le.mpr few)

/-- The state in which the head of the wait list has left it. -/
def State.dequeued (s : State) (rest : List (Chan × Nat)) : State := { s with table := { s.table with waitList := rest } }

theorem exec_payloadGrant_granted {s : State} {c : Chan} {k : Nat} {rest : List (Chan × Nat)} {d : Desc}
    (h : s.table.waitList = (c, k) :: rest) (enough : k ≤ (s.freeUnits (.list c)).length)
    (pending : (s.chan c).pendingDesc = some d) :
    exec .payloadGrant s = .next (((s.dequeued rest).grant c d).endStep s) := by
  show execPayloadGrant s = _
  rw [execPayloadGrant, h]
  refine (if_pos enough).trans ?_
  dsimp only
  rw [pending]
  rfl

/-- Stopping a channel withdraws its entries from the payload wait list (R137). -/
theorem enterStopping_waitList (s : State) (c : Chan) (k : HaltCause) :
    (s.enterStopping c k).table.waitList = s.table.waitList.filter fun e => e.1 != c := by
  let s1 := (s.leaveRunning c).modChan c fun ch =>
    { ch with state := .stopping, haltCause := some k, cancel := .stop, queue := cancelNops ch.queue }
  have cancelled : (s1.cancelIssue c).table.waitList = s1.table.waitList :=
    have purged : ((s1.cancelledReadStns c).foldl State.setPurge (s1.complete (cancelSel c))).table = _ :=
      foldl_table (fun u n => (onlyDir_setPurge u n).table) _ _
    have completed : (s1.complete (cancelSel c)).table.waitList = s1.table.waitList := by
      rw [complete_table]
      rfl
    (congrArg Table.waitList purged).trans completed
  have left : s1.table.waitList = s.table.waitList.filter fun e => e.1 != c := by
    rw [State.modChan_table, State.leaveRunning, State.modChan_table]
    rfl
  show (((s1.cancelIssue c).settleCancel c).haltIfDone c).table.waitList = _
  rw [haltIfDone_table, settleCancel_table, cancelled, left]

theorem endStep_waitList (s before : State) : (s.endStep before).table.waitList = s.table.waitList := by
  show (s.handOver before).table.waitList = _
  rw [handOver_table]

section Grant

variable {s : State} {rest : List (Chan × Nat)} {c : Chan} {d : Desc} (counts : CountsAgree s)

theorem dequeued_chan (s : State) (rest : List (Chan × Nat)) (c : Chan) : (s.dequeued rest).chan c = s.chan c := by
  cases c <;> rfl

theorem dequeued_hasFailure (s : State) (rest : List (Chan × Nat)) (c : Chan) :
    (s.dequeued rest).hasFailure c = s.hasFailure c := by
  rw [State.hasFailure, dequeued_chan]
  rfl

include counts

/-- A station that takes no exchange, without STOP_ON_FAIL: the descriptor is taken in, and nothing else changes. -/
theorem grant_taken {kd : Kind} {n : Stn} (kind : d.kind.kind = some kd) (dest : d.dest = .station n)
    (shut : (s.entry n).state.isOpen = false) (go : d.stopOnFail = false) (calm : s.hasFailure c = false) :
    ((s.dequeued rest).grant c d).endStep s =
      (s.dequeued rest).setChan c (takenIn (s.chan c) d (d.record none (some .notPresent) true)) := by
  rw [grant_notPresent (s := s.dequeued rest) kind dest shut, takeIn_stays go ((dequeued_hasFailure s rest c).trans calm), dequeued_chan]
  refine exec_end_of_kept (fun t' => .inl ?_) ?_
  · exact xchg_setChan _ c _ t'
  · exact countsAgree_of counts (fun n => by cases c <;> rfl) fun n => deferredOf_of_xchg (fun t' => by cases c <;> rfl) n

end Grant

/-- Settles O46: the search for a station by the order of its list, the creation by `create_eq`, and the second look of the
Event Unit in the state the first has left; the grant by the lemmas about a descriptor taken in. -/
theorem creationsAndGrant : Obligations.CreationsAndGrant := by
  refine ⟨⟨fun s tag u n counts free low lo hi unit lowUnit => ?creations, fun s counts => ⟨exec_payloadGrant_empty,
    fun c k rest wait => ⟨exec_payloadGrant_few wait, fun enough d kd pending kind units notSignal => ?grant⟩⟩⟩,
    fun s => ⟨fun h => ?noCensus, fun h => ?noRecovery⟩⟩
  case noCensus =>
    refine exec_censusCreation_none (h.imp_right (Or.imp_right fun none' m hm => ?_))
    exact Bool.eq_false_iff.mpr fun ready => none' m hm ((censusReady_iff s m).mp ready)
  case noRecovery =>
    refine exec_recoveryCreation_none (h.imp_right (Or.imp_right fun none' r hr => Bool.eq_false_iff.mpr fun ok => ?_))
    have no := none' r hr
    obtain ⟨m, act⟩ := r
    cases act with
    | purge => exact no ((recoveryAdmitted_purge s m).mp ok)
    | reset => exact no ((recoveryAdmitted_reset s m).mp ok)
  case creations =>
    intro created ready admitted
    refine ⟨fun a b on split before at' quota => ?census, fun a b act on split before at' quota => ?recovery, ?fetch⟩
    case census =>
      have found : s.dir.census.find? s.censusReady = some n := by
        rw [split]
        exact find?_split (fun m hm => Bool.eq_false_iff.mpr fun r => before m hm ((censusReady_iff s m).mp r))
          ((censusReady_iff s n).mpr at')
      have made := create_internal_one (n := n) ((census_quota s).mpr quota) rfl free low lo hi unit lowUnit
      rw [exec_censusCreation_some on found made, recount_self (countsAgree_created counts free)]
      rfl
    case recovery =>
      have iff (m : Stn) (act : RecAction) : s.recoveryAdmitted (m, act) = true ↔ admitted m act := by
        cases act
        · exact recoveryAdmitted_purge s m
        · exact recoveryAdmitted_reset s m
      have found : s.dir.recovery.find? s.recoveryAdmitted = some (n, act) := by
        rw [split]
        exact find?_split (fun r hr => Bool.eq_false_iff.mpr fun ok => before r hr ((iff r.1 r.2).mp ok)) ((iff n act).mpr at')
      have made : s.create (internalRequest act.kind n) = some (tag, s.created (internalRequest act.kind n) tag []) := by
        refine create_eq ((recovery_quota s act).mpr quota) free low ?_ ?_ <;> cases act <;> rfl
      rw [exec_recoveryCreation_some on found made, recount_self (countsAgree_created counts free)]
      cases act <;> rfl
    case fetch =>
      intro qualifies after fetches
      have fetchable (m : Stn) : s.fetchable m = true ↔ qualifies m ∧ fetches < 2 ∧ s.events.queue.length + fetches < 16 :=
        fetchable_iff s m
      refine ⟨fun none' => ?none, fun a b order before at' room => ?_⟩
      case none =>
        have idle : s.fetchOne = s := fetchOne_idle fun m => Bool.eq_false_iff.mpr fun f => by
          obtain ⟨q, two, room⟩ := (fetchable m).mp f
          rcases none' with h | h | h
          · exact h m q
          · omega
          · omega
        rw [exec_fetchEventCreation, idle, idle, recount_self counts]
      have first (two : fetches < 2) : s.fetchOne = s.served tag u n :=
        fetchOne_some (find?_stnsAfter order (fun k hk => Bool.eq_false_iff.mpr fun f => before k hk ((fetchable k).mp f).1)
          ((fetchable n).mpr ⟨at', two, room⟩))
          (create_internal_one ((fetch_quota s).mpr two) rfl free low lo hi unit lowUnit)
      have served (m : Stn) : (s.served tag u n).fetchable m = true ↔ (m ≠ n ∧ qualifies m) ∧ fetches + 1 < 2 ∧
          s.events.queue.length + (fetches + 1) < 16 := by
        rw [fetchable_iff, served_eventDue free, served_fetches free]
        rfl
      have agree := served_countsAgree (u := u) (n := n) free counts
      constructor
      case left =>
        intro once
        have idle : (s.served tag u n).fetchOne = s.served tag u n := fetchOne_idle fun m => Bool.eq_false_iff.mpr fun f => by
          obtain ⟨⟨other, q⟩, two, room⟩ := (served m).mp f
          rcases once with h | ⟨_, h | h⟩
          · omega
          · exact h m other q
          · omega
        rw [exec_fetchEventCreation, first (by rcases once with h | ⟨h, _⟩ <;> omega), idle, recount_self agree]
        rfl
      case right =>
        intro tag₂ u₂ m a₂ b₂ none' place above free₂ low₂ more hi₂ unit₂ lowUnit₂ order₂ before₂ at₂ other
        have xchg (t' : Tag) := served_xchg (s := s) (tag := tag) (u := u) (n := n) t'
        have second : (s.served tag u n).fetchOne = (s.served tag u n).served tag₂ u₂ m := by
          refine fetchOne_some (find?_stnsAfter order₂ (fun k hk => Bool.eq_false_iff.mpr fun f =>
            before₂ k hk ((served k).mp f).1.2) ((served m).mpr ⟨⟨other, at₂⟩, by omega, by omega⟩))
            (create_internal_one ((fetch_quota _).mpr ?_) rfl ?_ (fun t' h => ?_) (by omega) hi₂ ?_ fun u' lo' hi' => ?_)
          · rw [served_fetches free]
            show fetches + 1 < 2
            omega
          · rw [xchg, if_neg (Fin.ne_of_gt above)]
            exact free₂
          · rw [xchg]
            split
            · exact Option.some_ne_none _
            · rename_i ne
              rcases lt_or_gt_of_ne ne with below | over'
              · exact low t' below
              · exact low₂ t' over' h
          · rw [show (s.served tag u n).unitHeld u₂ = _ from created_unitHeld free u₂, unit₂]
            have : u₂ ≠ u := Fin.ne_of_gt more
            simpa using this
          · rw [show (s.served tag u n).unitHeld u' = _ from created_unitHeld free u', Bool.or_eq_true]
            rcases lt_trichotomy u' u with below | rfl | over'
            · exact .inl (lowUnit u' lo' below)
            · exact .inr (by simp)
            · exact .inl (lowUnit₂ u' over' hi')
        have free₂' : (s.served tag u n).xchg tag₂ = none := by
          rw [xchg, if_neg (Fin.ne_of_gt above)]
          exact free₂
        rw [exec_fetchEventCreation, first (by omega), second, recount_self (served_countsAgree free₂' agree)]
        have lists : s.table.intList ++ [tag] ++ [tag₂] = s.table.intList ++ [tag, tag₂] := List.append_assoc ..
        rw [← lists]
        rfl
  case grant =>
    intro closed
    have run := exec_payloadGrant_granted wait enough pending
    have isClosed {n : Stn} : ((s.dequeued rest).entry n).state.isOpen = false ↔ closed n := isOpen_iff _
    have outer : (((s.dequeued rest).grant c d).endStep s).outer = s.outer :=
      (endStep_outer _ s).trans (grant_outer (s.dequeued rest) c d)
    refine ⟨_, run, congrArg Outer.line outer, congrArg Outer.store outer, fun n dest shut go calm => ?stays,
      fun n dest shut stop running => ?stops, fun tag open' quota free low => ?creates⟩
    case stays =>
      rw [grant_taken counts kind dest (isClosed.mpr shut) go calm]
      refine ⟨by cases c <;> rfl, fun tag => by cases c <;> rfl, by cases c <;> rfl, ?_⟩
      rw [chan_setChan_same]
      rfl
    case stops =>
      rw [grant_notPresent (s := s.dequeued rest) kind dest (isClosed.mpr shut),
        takeIn_stops stop (by rw [dequeued_chan]; exact running) rfl]
      obtain ⟨state, cause, pending, q, queue, len⟩ := stopped_takeIn (enterStopping_stopped
        ((s.dequeued rest).takeIn c d (d.record none (some .notPresent) true)) c .failed)
      rw [chan_endStep, endStep_waitList, enterStopping_waitList]
      refine ⟨fun e he => by simpa using (List.mem_filter.mp he).2, pending, state, cause, q, ?_, queue⟩
      rw [len, dequeued_chan]
    case creates =>
      have open'' : ∀ n, d.dest = .station n → ((s.dequeued rest).entry n).state.isOpen = true := fun n e => by
        by_contra no
        exact open' n e (isClosed.mp (by simpa using no))
      have kinds : kd = .write ∨ kd = .read ∨ kd = .bcastWrite := by
        cases hk : d.kind <;> rw [hk] at kind <;> cases kind <;> simp at notSignal ⊢
      have request : d.request c kd = {
          owner := .list c, kind := kd, dest := d.dest, regAddr := some d.regAddr, length := some d.length,
          signalOp := none, fence := d.fence } := by
        unfold Desc.request
        rcases kinds with rfl | rfl | rfl <;> rfl
      have starts : (d.request c kd).startState = if kd = .write ∨ kd = .bcastWrite then .filling else .waiting := by
        rw [request]
        rcases kinds with rfl | rfl | rfl <;> rfl
      have need : unitsNeeded kd (d.request c kd).length = k := by
        rw [request]
        exact units
      rw [grant_created (s := s.dequeued rest) kind open'' quota free low (by rw [need]; exact enough),
        endStep_created (before := s) (s := s.dequeued rest) counts free fun _ => rfl, need]
      have xchg (t' : Tag) := takeIn_created_xchg (s.dequeued rest) c d (d.request c kd) tag
        (((s.dequeued rest).freeUnits (.list c)).take k) (d.record (some tag) none false) t'
      refine ⟨?_, fun t' other => (xchg t').trans (if_neg other), ?_, ?_, ?_, ?_⟩
      · rw [xchg, if_pos rfl, Request.exchange, starts, request]
        rfl
      · cases c <;> rfl
      · cases c <;> rfl
      · cases c <;> rfl
      · cases c <;> rfl

end Sys2Proof.Machine
end

section
/-! PROOF. The slots of a sweep. -/

namespace Sys2Proof.Machine

/-! ## What slots leave (R100 to R103, R105) -/

/-- The states in which a station's PARKED exchanges are woken. -/
def StnState.known (st : StnState) : Bool := st == .present || st == .suspect || st == .resync

/-- The states in which a READY sign is kept. -/
def StnState.kept (st : StnState) : Bool := st == .held || st == .recovering

/-- The entry after a slot. -/
def Entry.slotted (e : Entry) (o : SlotOutcome) : Entry :=
  { e with
    eventPending := e.eventPending || (o.hasEvent && (e.state.known || e.state.kept))
    keptReady := e.keptReady || (o.hasReady && e.state.kept) }

/-- A slot asks for a census of the station. -/
def State.slotAsks (s : State) (n : Stn) (o : SlotOutcome) : Bool :=
  (o.hasReady || o.hasEvent) && !s.dir.census.contains n &&
    ((s.entry n).state == .silent || (s.entry n).state == .vacant && maskHas s.regs.censusMask n)

/-- What the slots of the stations `l` leave, with the outcomes `o`. -/
structure Slotted (o : Stn → SlotOutcome) (l : List Stn) (s t : State) : Prop where
  shape : t = { s with
    table := { s.table with xs := t.table.xs }, dir := { s.dir with entries := t.dir.entries, census := t.dir.census } }
  entry : ∀ n, t.entry n = if n ∈ l then (s.entry n).slotted (o n) else s.entry n
  xchg : ∀ tag, t.xchg tag = (s.xchg tag).map fun x =>
    if x.state = .parked ∧ ∃ n ∈ l, x.dest = .station n ∧ (o n).hasReady = true ∧ (s.entry n).state.known = true then
      { x with state := .waiting } else x
  census : t.dir.census = s.dir.census ++ l.filter fun n => s.slotAsks n (o n)

variable {o : Stn → SlotOutcome}

theorem Slotted.nil (s : State) : Slotted o [] s s :=
  ⟨rfl, fun _ => rfl, fun tag => by simp, by simp⟩

theorem Slotted.state {l : List Stn} {s t : State} (h : Slotted o l s t) (n : Stn) : (t.entry n).state = (s.entry n).state := by
  rw [h.entry]
  split <;> rfl

/-- One station's slot, and then those of other stations. -/
theorem Slotted.cons {n : Stn} {l : List Stn} {s t u : State} (fresh : n ∉ l) (h : Slotted o [n] s t) (k : Slotted o l t u) :
    Slotted o (n :: l) s u where
  shape := by rw [k.shape, h.shape]
  entry m := by
    rw [k.entry, h.entry]
    by_cases e : m = n
    · subst e
      simp [fresh]
    · simp [e]
  xchg tag := by
    rw [k.xchg, h.xchg, Option.map_map]
    refine Option.map_congr fun x _ => ?_
    simp only [Function.comp, List.mem_singleton, exists_eq_left, h.state]
    by_cases one : x.state = .parked ∧ x.dest = .station n ∧ (o n).hasReady = true ∧ (s.entry n).state.known = true
    · obtain ⟨parked, rest⟩ := one
      simp [parked, rest]
    · rw [if_neg one]
      refine if_congr ?_ rfl rfl
      simp only [List.mem_cons, exists_eq_or_imp]
      constructor
      · rintro ⟨parked, m, hm, rest⟩
        exact ⟨parked, .inr ⟨m, hm, rest⟩⟩
      · rintro ⟨parked, rest | rest⟩
        · exact absurd ⟨parked, rest⟩ one
        · exact ⟨parked, rest⟩
  census := by
    have same (m : Stn) (hm : m ∈ l) : t.slotAsks m (o m) = s.slotAsks m (o m) := by
      have other : m ≠ n := fun e => fresh (e ▸ hm)
      have mask : t.regs = s.regs := by rw [h.shape]
      have fresh' : t.dir.census.contains m = s.dir.census.contains m := by
        rw [h.census, Bool.eq_iff_iff]
        simp [other]
      rw [State.slotAsks, State.slotAsks, h.state, mask, fresh']
    rw [k.census, h.census, List.filter_congr same, List.append_assoc, ← List.filter_append]
    rfl

/-! ## One slot -/

theorem readySign_known {s : State} {n : Stn} (h : (s.entry n).state.known = true) : s.readySign n none =
    s.mapX fun _ x => if x.dest = .station n ∧ x.state = .parked then { x with state := .waiting } else x := by
  unfold State.readySign
  split <;> rename_i st <;> rw [st] at h
  all_goals first | cases h; done | skip
  all_goals simp

theorem readySign_kept {s : State} {n : Stn} (h : (s.entry n).state.kept = true) (own : Option Tag) : s.readySign n own =
    s.modEntry n fun e => { e with keptReady := true } := by
  unfold State.readySign
  split <;> rename_i st <;> rw [st] at h <;> cases h

theorem eventSign_in {s : State} {n : Stn} (h : (s.entry n).state.known = true ∨ (s.entry n).state.kept = true) :
    s.eventSign n = s.modEntry n fun e => { e with eventPending := true } := by
  unfold State.eventSign
  split <;> rename_i st <;> rw [st] at h
  all_goals first | rfl | (rcases h with h | h <;> cases h)

/-- A station that is out takes no signs (R102, R103). -/
theorem signs_out {s : State} {n : Stn} (known : (s.entry n).state.known = false) (kept : (s.entry n).state.kept = false)
    (own : Option Tag) : s.readySign n own = s ∧ s.eventSign n = s := by
  unfold State.readySign State.eventSign
  split <;> rename_i st <;> rw [st] at known kept
  all_goals first | cases known; done | cases kept; done | exact ⟨rfl, rfl⟩

theorem slotCensus_in {s : State} {n : Stn} (h : (s.entry n).state ≠ .vacant ∧ (s.entry n).state ≠ .silent) :
    s.slotCensus n = s := by
  unfold State.slotCensus
  split
  case h_1 st => exact absurd st h.1
  case h_2 st => exact absurd st h.2
  all_goals rfl

/-- A slot asks for a census where it carries a sign (R101, R105). -/
theorem slotCensus_eq {s : State} {n : Stn} {k : SlotOutcome} (sign : (k.hasReady || k.hasEvent) = true) : s.slotCensus n =
    { s with dir := { s.dir with census := s.dir.census ++ if s.slotAsks n k then [n] else [] } } := by
  have join (out : (s.entry n).state ≠ .disabled) : s.joinCensus n = { s with dir :=
      { s.dir with census := s.dir.census ++ if s.dir.census.contains n then [] else [n] } } := by
    rw [joinCensus_eq]
    simp [out]
  unfold State.slotCensus
  split <;> rename_i st
  · split <;> rename_i mask
    · rw [join (by simp [st]), State.slotAsks, sign, st]
      cases s.dir.census.contains n <;> simp [mask]
    · simp [State.slotAsks, st, mask]
  · rw [join (by simp [st]), State.slotAsks, sign, st]
    cases s.dir.census.contains n <;> simp
  all_goals simp [State.slotAsks, st]

/-- A slot by its two signs. -/
theorem takeSlot_eq (s : State) (n : Stn) (k : SlotOutcome) : s.takeSlot (n, k) =
    let s1 := if k.hasReady || k.hasEvent then s.slotCensus n else s
    let s2 := if k.hasReady then s1.readySign n none else s1
    if k.hasEvent then s2.eventSign n else s2 := rfl

theorem slotted_known {s : State} {n : Stn} (known : (s.entry n).state.known = true) :
    Slotted o [n] s (s.takeSlot (n, o n)) := by
  have inside : (s.entry n).state ≠ .vacant ∧ (s.entry n).state ≠ .silent := by
    constructor <;> intro e <;> rw [e] at known <;> cases known
  have asks : s.slotAsks n (o n) = false := by simp [State.slotAsks, inside]
  have kept : (s.entry n).state.kept = false := by
    cases st : (s.entry n).state <;> rw [st] at known <;> first | rfl | cases known
  let w := s.mapX fun _ x => if x.dest = .station n ∧ x.state = .parked then { x with state := .waiting } else x
  have woken : s.readySign n none = w := readySign_known known
  have event : s.eventSign n = s.modEntry n fun e => { e with eventPending := true } := eventSign_in (.inl known)
  have event' : w.eventSign n = w.modEntry n fun e => { e with eventPending := true } := eventSign_in (s := w) (.inl known)
  have census : (if (o n).hasReady || (o n).hasEvent then s.slotCensus n else s) = s := by
    rw [slotCensus_in inside, ite_self]
  rw [takeSlot_eq]
  dsimp only
  rw [census]
  cases ready : (o n).hasReady <;> cases pending : (o n).hasEvent <;>
    simp only [Bool.false_eq_true, if_false, if_true, woken, event, event']
  all_goals
    refine ⟨rfl, fun m => ?_, fun tag => ?_, by simp [asks, State.modEntry, State.setEntry, w]⟩
    · by_cases e : m = n
      · subst e
        simp [Entry.slotted, ready, pending, known, kept, w]
      · simp [e, w]
    · simp [ready, known, w, and_comm]

theorem slotted_kept {s : State} {n : Stn} (kept : (s.entry n).state.kept = true) :
    Slotted o [n] s (s.takeSlot (n, o n)) := by
  have inside : (s.entry n).state ≠ .vacant ∧ (s.entry n).state ≠ .silent := by
    constructor <;> intro e <;> rw [e] at kept <;> cases kept
  have asks : s.slotAsks n (o n) = false := by simp [State.slotAsks, inside]
  have known : (s.entry n).state.known = false := by
    cases st : (s.entry n).state <;> rw [st] at kept <;> first | rfl | cases kept
  let w := s.modEntry n fun e => { e with keptReady := true }
  have state : (w.entry n).state.kept = true := by simpa [w] using kept
  have ready' : s.readySign n none = w := readySign_kept kept none
  have event : s.eventSign n = s.modEntry n fun e => { e with eventPending := true } := eventSign_in (.inr kept)
  have event' : w.eventSign n = w.modEntry n fun e => { e with eventPending := true } := eventSign_in (.inr state)
  have census : (if (o n).hasReady || (o n).hasEvent then s.slotCensus n else s) = s := by
    rw [slotCensus_in inside, ite_self]
  rw [takeSlot_eq]
  dsimp only
  rw [census]
  cases ready : (o n).hasReady <;> cases pending : (o n).hasEvent <;>
    simp only [Bool.false_eq_true, if_false, if_true, ready', event, event']
  all_goals
    refine ⟨rfl, fun m => ?_, fun tag => ?_, by simp [asks, State.modEntry, State.setEntry, w]⟩
    · by_cases e : m = n
      · subst e
        simp [Entry.slotted, ready, pending, known, kept, w]
      · simp [e, w]
    · simp [known, w]

theorem slotted_out {s : State} {n : Stn} (known : (s.entry n).state.known = false) (kept : (s.entry n).state.kept = false) :
    Slotted o [n] s (s.takeSlot (n, o n)) := by
  let w : State := { s with dir := { s.dir with census := s.dir.census ++ if s.slotAsks n (o n) then [n] else [] } }
  have run : s.takeSlot (n, o n) = w := by
    have signs := signs_out (s := w) known kept none
    have census : (if (o n).hasReady || (o n).hasEvent then s.slotCensus n else s) = w := by
      cases sign : (o n).hasReady || (o n).hasEvent with
      | true => rw [if_pos rfl, slotCensus_eq sign]
      | false => simp [w, State.slotAsks, sign]
    rw [takeSlot_eq]
    dsimp only
    rw [census, signs.1, ite_self, signs.2, ite_self]
  rw [run]
  refine ⟨rfl, fun m => ?_, fun tag => ?_, ?_⟩
  · by_cases e : m = n
    · subst e
      simp [Entry.slotted, known, kept, w]
      rfl
    · simp [e, w]
      rfl
  · simp [known, w]
    rfl
  · cases asks : s.slotAsks n (o n) <;> simp [asks, w]

theorem slotted_one (s : State) (n : Stn) : Slotted o [n] s (s.takeSlot (n, o n)) := by
  cases known : (s.entry n).state.known with
  | true => exact slotted_known known
  | false =>
    cases kept : (s.entry n).state.kept with
    | true => exact slotted_kept kept
    | false => exact slotted_out known kept

theorem slotted_all {l : List Stn} (nodup : l.Nodup) (s : State) :
    Slotted o l s (l.foldl (fun s n => s.takeSlot (n, o n)) s) := by
  induction l generalizing s with
  | nil => exact .nil s
  | cons n l ih =>
    rw [List.nodup_cons] at nodup
    exact (slotted_one s n).cons nodup.1 (ih nodup.2 _)

/-! ## The report of the slots -/

theorem zip_slots {slots : List SlotSeen} (hl : slots.length = 30) : allStns.zip (slots.map readSlot) =
    allStns.map fun n => (n, readSlot (slots[n.val]'(by rw [hl]; exact n.isLt))) := by
  refine List.ext_getElem (by simp [allStns, hl]) fun i h₁ h₂ => ?_
  simp [allStns]

theorem hasReady_iff (k : SlotOutcome) : k.hasReady = (k == .ready || k == .both || k == .garbled) := by cases k <;> rfl

theorem hasEvent_iff (k : SlotOutcome) : k.hasEvent = (k == .event || k == .both || k == .garbled) := by cases k <;> rfl

/-- Waking PARKED exchanges leaves the deferred ones deferred. -/
theorem Slotted.countsAgree {l : List Stn} {s t : State} (h : Slotted o l s t) (counts : CountsAgree s) : CountsAgree t := by
  refine countsAgree_of counts (fun n => ?_) fun n => countX_congr fun tag => ?_
  · rw [h.entry]
    split <;> rfl
  · rw [h.xchg]
    cases s.xchg tag with
    | none => rfl
    | some x =>
      simp only [Option.map_some, Option.any_some]
      split
      · rename_i parked
        simp only [Exchange.isDeferred, Exchange.live, parked.1]
        rfl
      · rfl

/-- Settles O44: the slots one by one, by `slotted_all`; each acts on its own station's entry and exchanges. -/
theorem slotsEnd : Obligations.SlotsEnd := by
  intro s slots hl counts line seen ready event known kept
  let w := allStns.foldl (fun s n => s.takeSlot (n, seen n)) s
  have h : Slotted seen allStns s w := slotted_all allStns_nodup s
  have run : exec (.slotsEnd slots) s = .next w.enterGuard := by
    show execSlotsEnd slots s = _
    rw [execSlotsEnd, if_pos line, zip_slots hl, List.foldl_map, recount_self (h.countsAgree counts)]
  have readyEq (n : Stn) : (seen n).hasReady = ready n := hasReady_iff _
  have eventEq (n : Stn) : (seen n).hasEvent = event n := hasEvent_iff _
  have knownEq (n : Stn) : (s.entry n).state.known = known n := rfl
  have keptEq (n : Stn) : (s.entry n).state.kept = kept n := rfl
  refine ⟨w.enterGuard, run, fun n => ?_, fun tag => ?_, ?_⟩
  · refine (h.entry n).trans ?_
    rw [if_pos (mem_allStns n), Entry.slotted, readyEq, eventEq, knownEq, keptEq]
  · refine (h.xchg tag).trans (Option.map_congr fun x _ => ?_)
    simp only [mem_allStns, true_and, readyEq, knownEq]
  · have census : w.dir.census = s.dir.census ++ allStns.filter fun n =>
        (ready n || event n) && !s.dir.census.contains n &&
          ((s.entry n).state == .silent || (s.entry n).state == .vacant && maskHas s.regs.censusMask n) := by
      rw [h.census]
      simp only [State.slotAsks, readyEq, eventEq]
    have shape := h.shape
    rw [census] at shape
    rw [shape]
    rfl

end Sys2Proof.Machine
end

section
/-! PROOF. The commands that report an outcome, in terms of the report; and the directory's part of an outcome without a
sound reply. -/

namespace Sys2Proof.Machine

/-! ## The commands that report an outcome -/

section
variable {s : State} {tag : Tag} {ph : Phase} {q : ReqKind} {x : Exchange}

theorem exec_replyWindowExpiry (st : s.line.state = .await) (job : s.line.job = some (.attempt tag ph q)) :
    exec .replyWindowExpiry s = .next (s.report tag (.lost .timeout)).enterGuard := by
  show execReplyWindowExpiry s = _
  simp only [execReplyWindowExpiry, st, job]

theorem exec_replyReceived (st : s.line.state = .receiving) (settling : s.line.settling = false)
    (job : s.line.job = some (.attempt tag ph q)) (hx : s.xchg tag = some x) {bytes : List Byte} {v : Verdict}
    (judged : judgeReply tag x bytes = .outcome v) :
    exec (.replyReceived bytes) s = .next ((s.report tag v).lineAfterReply v) := by
  show execReplyReceived bytes s = _
  simp only [execReplyReceived, st, settling, job, hx, judged]

theorem exec_lineSettled (st : s.line.state = .receiving) (settling : s.line.settling = true)
    (job : s.line.job = some (.attempt tag ph q)) :
    exec .lineSettled s = .next ((s.report tag (.lost .framing)).lineAfterReply (.lost .framing)) := by
  show execLineSettled s = _
  simp only [execLineSettled, st, settling, job]

theorem exec_stuckLineTimeout (st : s.line.state = .receiving) (settling : s.line.settling = true)
    (job : s.line.job = some (.attempt tag ph q)) :
    exec .stuckLineTimeout s = .next ((if s.lineFaultReached (.lost .framing) then
      (s.report tag (.lost .framing)).raise causeLineFault else s.report tag (.lost .framing)).enterBreak .short .stuckLine) := by
  show execStuckLineTimeout s = _
  simp only [execStuckLineTimeout, st, settling, job]

theorem exec_bcastWriteSent {ph : Phase} (st : s.line.state = .sending)
    (job : s.line.job = some (.attempt tag ph .bcastWrite)) :
    exec .bcastWriteSent s = .next { (s.applyVerdict tag .sent).enterGuard with line.frameWhole := true } := by
  show execBcastWriteSent s = _
  simp only [execBcastWriteSent, st, job]

/-- CONTENTION in an attempt (R75). -/
theorem exec_contention_attempt (st : s.line.state = .sending) (wait : s.line.contentionWait = false)
    (job : s.line.job = some (.attempt tag ph q)) :
    exec .contention s = .next { s.report tag (.lost .contention) with
      line.contentionWait := true, line.job := none, line.txFrame := none } := by
  rw [exec_contention st wait job]
  rfl

/-- A fault of the current attempt as last fault (R82). -/
def State.faulted (s : State) (k : FaultKind) (d : Dest) (tag : Tag) : State :=
  { s with line := { s.line with lastFault := some { kind := k, station := destField d, tag := tag } } }

theorem recordFault_attempt (job : s.line.job = some (.attempt tag ph q)) (hx : s.xchg tag = some x) {v : Verdict}
    {k : FaultKind} (h : v.fault = some k) : s.recordFault v = s.faulted k x.dest tag := by
  simp only [State.recordFault, h, State.jobTarget, job, hx]
  rfl

theorem recordFault_none {v : Verdict} (h : v.fault = none) : s.recordFault v = s := by
  simp only [State.recordFault, h]

/-- The report of an outcome of the current attempt: last fault first, then the move and the directory, then the owners. -/
theorem report_eq {s' : State} {v : Verdict} (rec' : s.recordFault v = s') (hx : s.xchg tag = some x)
    (onLine : x.state = .onLine) : s.report tag v = (s'.movedBy tag x v).endStep s' := by
  have same : s'.xchg tag = some x := by rw [← rec', xchg_of_table (recordFault_table s v), hx]
  rw [State.report, rec', applyVerdict_eq v same onLine]

end

/-! ## Outcomes without a sound reply -/

/-- The station after a counted failure (R123, R124): the failures risen, a PRESENT one SUSPECT at its threshold. -/
def State.counted (s : State) (n : Stn) : State :=
  let k := min 15 ((s.entry n).failures + 1)
  let suspect := (s.entry n).state = .present ∧ k < s.regs.silentThreshold ∧ s.regs.suspectThreshold ≤ k
  { s with
    dir := { s.dir with
      entries := s.dir.entries.set n { s.entry n with
        failures := k, state := if suspect then .suspect else (s.entry n).state }
      changes := if suspect then s.dir.changes ||| 1#32 <<< addrOf n else s.dir.changes } }

theorem countOutcome_counted (s : State) (n : Stn) {v : Verdict} (counts : v.counts = true) :
    s.countOutcome n v = s.counted n := by
  have silent : v.head = none := by cases v <;> first | rfl | cases counts
  simp only [State.countOutcome, silent, Option.isSome_none, Bool.false_eq_true, if_false, counts, if_true]
  split <;> rename_i h
  · simp only [State.counted, h.1, h.2, and_self, if_true]
    simp only [State.moveTo, State.noteChange, State.modEntry, State.setEntry, State.entry]
    simp [maskAdd, maskOf]
  · simp only [State.counted, h, if_false]
    rfl

theorem countOutcome_other (s : State) (n : Stn) {v : Verdict} (silent : v.head = none) (counts : v.counts = false) :
    s.countOutcome n v = s := by
  simp [State.countOutcome, silent, counts]

@[simp] theorem entry_counted (s : State) (n m : Stn) : (s.counted n).entry m = if m = n then
    { s.entry n with
      failures := min 15 ((s.entry n).failures + 1)
      state := if (s.entry n).state = .present ∧ min 15 ((s.entry n).failures + 1) < s.regs.silentThreshold ∧
        s.regs.suspectThreshold ≤ min 15 ((s.entry n).failures + 1) then .suspect else (s.entry n).state }
    else s.entry m :=
  entry_setEntry s n m _

/-- A rule of the directory's own acts on the completion of these kinds alone (R31 to R33, R37, R131, R165). -/
def Kind.internalKind : Kind → Bool
  | .census | .purge | .stationReset | .fetchEvent => true
  | .write | .read | .signal | .bcastWrite => false

/-- No rule of the directory's own acts on the completion of a WRITE, READ, SIGNAL or BCAST_WRITE. -/
theorem acts_external {s : State} {n : Stn} {own : Tag} {x : Exchange} {b : Bool} {v : Verdict}
    (kind : x.kind.internalKind = false) (c : Completion) (p : Bool) :
    s.ownerActs n own x b (.complete c p) v = s ∧ s.ownSilent n x (.complete c p) v = false ∧
      ∀ u : State, u.censusDone x (.complete c p) = u := by
  have noCensus : x.kind ≠ .census := by
    intro e
    rw [e] at kind
    cases kind
  refine ⟨?_, ?_, fun u => if_neg fun h => noCensus h.1⟩
  · generalize hk : x.kind = kd at kind
    simp only [State.ownerActs, hk]
    cases kd <;> first | rfl | cases kind
  · generalize hk : x.kind = kd at kind
    simp only [State.ownSilent, hk]
    cases v <;> cases kd <;> first | rfl | cases kind

/-- The directory's part of an outcome without a sound reply where the exchange stays or has another owner. -/
theorem directoryActs_lost {s : State} {n : Stn} {own : Tag} {x : Exchange} {m : Move} {k : FaultKind}
    (other : (∃ y, m = .stays y) ∨ x.kind.internalKind = false) :
    s.directoryActs n own x m (.lost k) =
      let s1 := s.countOutcome n (.lost k)
      let s2 := if m.purges then s1.setPurge n else s1
      if s1.thresholdSilent n (.lost k) then s2.declareSilent n else s2 := by
  have restart : s.showsRestart n (.lost k) = false := rfl
  have take : s.takeRestart n own x (.lost k) = s := by rw [State.takeRestart, restart]; rfl
  have bit (u : State) : u.setSeqBit n x false (.lost k) = u := by simp [State.setSeqBit, confirms]
  have acts : s.ownerActs n own x false m (.lost k) = s ∧ s.ownSilent n x m (.lost k) = false ∧
      ∀ u : State, u.censusDone x m = u := by
    rcases other with ⟨y, rfl⟩ | kind
    · exact ⟨rfl, rfl, fun _ => rfl⟩
    · cases m with
      | stays y => exact ⟨rfl, rfl, fun _ => rfl⟩
      | complete c p => exact acts_external kind c p
  obtain ⟨owner, silent, done⟩ := acts
  simp only [State.directoryActs, take, restart, owner, silent, bit, done, Bool.false_or]
  rfl

end Sys2Proof.Machine
end

section
/-! PROOF. An attempt lost to a retried fault with retries left. -/

namespace Sys2Proof.Machine

/-! ## The move back to BACKOFF -/

/-- The record of a lost attempt that will be retried (R118). -/
def Exchange.retried (x : Exchange) (regs : Regs) : Exchange :=
  { x with state := .backoff, backoff := some (regs.retryGap * x.attempts * 64) }

theorem moveOf_retried {s : State} {x : Exchange} (k : FaultKind) (left : x.attempts < s.regs.retryLimit + 1)
    (fresh : ¬(x.phase = .collect ∧ x.expired = true)) (cancel : s.cancelOf x.owner = .none) :
    s.moveOf x (.lost k) = (.stays (x.retried s.regs), x) := by
  simp only [State.moveOf, heard, outcomeMove, lostMove, cancel, fresh, left, if_true, if_false]
  rfl

/-- A lost attempt that will be retried, up to the end of its step. -/
theorem movedBy_retried {s : State} {tag : Tag} {x : Exchange} {n : Stn} {k : FaultKind} (dest : x.dest = .station n)
    (left : x.attempts < s.regs.retryLimit + 1) (fresh : ¬(x.phase = .collect ∧ x.expired = true))
    (cancel : s.cancelOf x.owner = .none) :
    s.movedBy tag x (.lost k) =
      let s1 := (s.setXchg tag (some (x.retried s.regs))).countOutcome n (.lost k)
      if s1.thresholdSilent n (.lost k) then s1.declareSilent n else s1 := by
  simp only [State.movedBy, dest, moveOf_retried k left fresh cancel, State.keepPayload, State.applyMove]
  exact directoryActs_lost (.inl ⟨_, rfl⟩)

/-- A record that is unfinished and as deferred as it was, and a directory with the counts it had, end a step as they are. -/
theorem endStep_setXchg {s t : State} {tag : Tag} {x y : Exchange} (counts : CountsAgree s) (hx : s.xchg tag = some x)
    (live : y.state ≠ .complete) (deferred : y.isDeferred = x.isDeferred) (dest : y.dest = x.dest)
    (table : t.table = (s.setXchg tag (some y)).table) (entries : ∀ n, (t.entry n).deferred = (s.entry n).deferred) :
    t.endStep s = t := by
  refine exec_end_of_kept (fun t' => ?_) ?_
  · rw [xchg_of_table table, xchg_setXchg]
    by_cases h : t' = tag
    · rw [if_pos h]
      exact .inr ⟨y, rfl, live⟩
    · rw [if_neg h]
      exact .inl rfl
  · exact countsAgree_of (countsAgree_setXchg counts hx deferred dest) entries
      fun n => deferredOf_of_xchg (xchg_of_table table) n

theorem retried_open (x : Exchange) (regs : Regs) : (x.retried regs).state ≠ .complete := by
  simp [Exchange.retried]

theorem retried_isDeferred {x : Exchange} (onLine : x.state = .onLine) (regs : Regs) :
    (x.retried regs).isDeferred = x.isDeferred := by
  rw [Exchange.isDeferred, Exchange.isDeferred, Exchange.live, Exchange.live, onLine]
  rfl

section
variable {s : State} {tag : Tag} {ph : Phase} {q : ReqKind} {x : Exchange} {n : Stn} {k : FaultKind}
variable (counts : CountsAgree s) (job : s.line.job = some (.attempt tag ph q)) (hx : s.xchg tag = some x)
  (onLine : x.state = .onLine) (dest : x.dest = .station n) (left : x.attempts < s.regs.retryLimit + 1)
  (fresh : ¬(x.phase = .collect ∧ x.expired = true)) (cancel : s.cancelOf x.owner = .none)
include counts job hx onLine dest left fresh cancel

/-- The report of a counted fault below SILENT_THRESHOLD with retries left. -/
theorem report_counted (counted : (Verdict.lost k).counts = true)
    (low : min 15 ((s.entry n).failures + 1) < s.regs.silentThreshold) :
    s.report tag (.lost k) = ((s.faulted k (.station n) tag).setXchg tag (some (x.retried s.regs))).counted n := by
  have above : (((s.faulted k (.station n) tag).setXchg tag (some (x.retried s.regs))).counted n).thresholdSilent n
      (.lost k) = false := by
    have entry : (((s.faulted k (.station n) tag).setXchg tag (some (x.retried s.regs))).counted n).entry n = _ :=
      entry_counted _ n n
    rw [if_pos rfl] at entry
    rw [State.thresholdSilent, entry]
    exact Bool.and_eq_false_imp.mpr fun _ => decide_eq_false (Nat.not_le.mpr low)
  rw [report_eq (by rw [recordFault_attempt (k := k) job hx rfl, dest]) hx onLine,
    movedBy_retried (s := s.faulted k (.station n) tag) dest left fresh cancel]
  dsimp only
  rw [countOutcome_counted _ n counted]
  refine (congrArg (State.endStep · _) (if_neg (Bool.eq_false_iff.mp above))).trans ?_
  refine endStep_setXchg (s := s.faulted k (.station n) tag) (counts.of_same rfl rfl) hx (y := x.retried s.regs)
    (retried_open x _) (retried_isDeferred onLine _) rfl rfl fun m => ?_
  rw [entry_counted]
  split
  · rename_i h
    rw [h]
    rfl
  · rfl

/-- The report of CONTENTION with retries left, which does not count against the station (R123). -/
theorem report_contention :
    s.report tag (.lost .contention) = (s.faulted .contention (.station n) tag).setXchg tag (some (x.retried s.regs)) := by
  rw [report_eq (by rw [recordFault_attempt (k := .contention) job hx rfl, dest]) hx onLine,
    movedBy_retried (s := s.faulted .contention (.station n) tag) dest left fresh cancel]
  dsimp only
  rw [countOutcome_other _ n rfl rfl, if_neg (by simp [State.thresholdSilent, Verdict.counts])]
  exact endStep_setXchg (s := s.faulted .contention (.station n) tag) (counts.of_same rfl rfl) hx (y := x.retried s.regs)
    (retried_open x _) (retried_isDeferred onLine _) rfl rfl fun m => rfl

end

/-! ## The faults of a judged reply -/

/-- What the checks of a reply can decide, in their order (R71). -/
theorem judgeReply_cases {tag : Tag} {x : Exchange} {bytes : List Byte} {v : Verdict}
    (h : judgeReply tag x bytes = .outcome v) :
    (v = .lost .framing ∨ v = .lost .crc ∨ v = .lost .wrongStation) ∨
      ∃ kind st tagB ep count payload, payload.length = impliedPayload kind count ∧
        v = judgeContent tag x kind st tagB ep count payload := by
  unfold judgeReply at h
  split at h
  · rename_i kind st tagB ep count rest
    dsimp only at h
    split at h
    · cases h
    · rename_i enough
      split at h
      · cases h; exact .inl (.inl rfl)
      · split at h
        · cases h; exact .inl (.inr (.inl rfl))
        · split at h
          · cases h; exact .inl (.inr (.inr rfl))
          · cases h
            exact .inr ⟨kind, st, tagB, ep, count, _, by rw [List.length_take]; omega, rfl⟩
  · cases h

/-- A reply is lost to CRC, FRAMING or WRONG_STATION alone (R71). -/
theorem judgeReply_lost {tag : Tag} {x : Exchange} {bytes : List Byte} {f : FaultKind}
    (h : judgeReply tag x bytes = .outcome (.lost f)) : f = .framing ∨ f = .crc ∨ f = .wrongStation := by
  rcases judgeReply_cases h with e | ⟨kind, st, tagB, ep, count, payload, _, e⟩
  · simpa using e
  · unfold judgeContent at e
    dsimp only at e
    split at e
    · cases e
    · split at e
      · cases e
      · split at e <;> cases e

/-! ## The line after a lost reply -/

theorem counted_low {s : State} {n : Stn} (low : min 15 ((s.entry n).failures + 1) < s.regs.silentThreshold) :
    s.counted n =
      let k := min 15 ((s.entry n).failures + 1)
      let suspect := (s.entry n).state = .present ∧ s.regs.suspectThreshold ≤ k
      { s with
        dir := { s.dir with
          entries := s.dir.entries.set n { s.entry n with
            failures := k, state := if suspect then .suspect else (s.entry n).state }
          changes := if suspect then s.dir.changes ||| 1#32 <<< addrOf n else s.dir.changes } } := by
  simp only [State.counted, low, true_and]

theorem lineAfterReply_wrongStation (s : State) : s.lineAfterReply (.lost .wrongStation) =
    { s.enterGuard with line.faultCount := 0 } := rfl

/-- CRC and FRAMING raise the line-fault count, and bring LINE_FAULT and a break at its limit (R77). -/
theorem lineAfterReply_counted (s : State) {f : FaultKind} (h : f = .crc ∨ f = .framing) :
    s.lineAfterReply (.lost f) = if s.regs.lineFaultLimit ≤ s.line.faultCount + 1 then
        (s.raise causeLineFault).enterBreak .short .lineFault
      else { s.enterGuard with line.faultCount := s.line.faultCount + 1 } := by
  rcases h with rfl | rfl <;> simp [State.lineAfterReply, State.lineFaultReached, faultCountAfter]

/-- Settles O34: the report puts the record back to BACKOFF and counts the fault; nothing completes, so the end of the step
changes nothing; then the line by the command's own rule. -/
theorem lostAttemptIsRetried : Obligations.LostAttemptIsRetried := by
  intro s tag ph q x n counts job hx onLine dest left fresh cancel k backs suspect counted fault guarded broken reached
  have told {f : FaultKind} (low : k < s.regs.silentThreshold) (counts' : (Verdict.lost f).counts = true) :
      s.report tag (.lost f) =
        { s with table := { s.table with xs := backs }, dir := counted, line := { s.line with lastFault := fault f } } := by
    rw [report_counted counts job hx onLine dest left fresh cancel counts' low,
      counted_low (s := (s.faulted f (.station n) tag).setXchg tag (some (x.retried s.regs))) low]
    rfl
  have lined {f : FaultKind} (h : f = .crc ∨ f = .framing) (low : k < s.regs.silentThreshold) :
      (s.report tag (.lost f)).lineAfterReply (.lost f) =
        { s with
          table := { s.table with xs := backs }, dir := counted
          line := if reached then { broken .lineFault with lastFault := fault f }
            else { guarded with lastFault := fault f, faultCount := s.line.faultCount + 1 }
          irq := { s.irq with edge := if reached then s.irq.edge ||| 0x20#32 else s.irq.edge } } := by
    rw [told low (by rcases h with rfl | rfl <;> rfl), lineAfterReply_counted _ h]
    by_cases limit : reached
    · rw [if_pos limit, if_pos limit, if_pos limit]
      rfl
    · rw [if_neg limit, if_neg limit, if_neg limit]
      rfl
  refine ⟨fun low st => ?timeout, fun low st settling bytes f judged => ?reply, fun low st settling => ⟨?settled, ?stuck⟩,
    fun st wait => ?contention⟩
  case timeout =>
    rw [exec_replyWindowExpiry st job, told low rfl]
    rfl
  case reply =>
    rw [exec_replyReceived st settling job hx judged]
    by_cases other : f = .wrongStation
    · subst other
      rw [told low rfl, lineAfterReply_wrongStation, if_pos rfl, if_neg (by simp)]
      rfl
    · have crc : f = .crc ∨ f = .framing := by
        rcases judgeReply_lost judged with e | e | e
        · exact .inr e
        · exact .inl e
        · exact absurd e other
      rw [lined crc low, if_neg other]
      simp only [ne_eq, other, not_false_eq_true, true_and]
  case settled =>
    rw [exec_lineSettled st settling job, lined (.inr rfl) low]
  case stuck =>
    have at' : (s.lineFaultReached (.lost .framing) = true) = reached := by simp [State.lineFaultReached, reached]
    rw [exec_stuckLineTimeout st settling job, told low rfl]
    simp only [at']
    by_cases limit : reached
    · rw [if_pos limit, if_pos limit]
      rfl
    · rw [if_neg limit, if_neg limit]
      rfl
  case contention =>
    rw [exec_contention_attempt st wait job, report_contention counts job hx onLine dest left fresh cancel]
    rfl

end Sys2Proof.Machine
end

section
/-! PROOF. Accepted replies on which the exchange goes on. -/

namespace Sys2Proof.Machine

/-! ## Accepted replies -/

/-- What an accepted reply is: of a kind its request allows, with the payload its kind implies (R56, R71). -/
theorem judgeReply_reply {tag : Tag} {x : Exchange} {bytes : List Byte} {r : Reply}
    (h : judgeReply tag x bytes = .outcome (.reply r)) : allowedReply (requestKind x) r.kind = true ∧
      ∃ kind count, replyKindOf kind = some r.kind ∧ r.payload.length = impliedPayload kind count := by
  rcases judgeReply_cases h with e | ⟨kind, st, tagB, ep, count, payload, len, e⟩
  · simp at e
  · unfold judgeContent at e
    dsimp only at e
    split at e
    · cases e
    · split at e
      · cases e
      · rename_i k hk
        split at e
        · rename_i checks
          cases e
          simp only [Bool.and_eq_true] at checks
          exact ⟨checks.1.1.1, kind, count, hk, len⟩
        · cases e

/-- Only DATA, IDENT and EVENT bring a payload (R55). -/
theorem judgeReply_empty {tag : Tag} {x : Exchange} {bytes : List Byte} {r : Reply}
    (h : judgeReply tag x bytes = .outcome (.reply r)) (data : r.kind ≠ .data) (ident : r.kind ≠ .ident)
    (event : r.kind ≠ .event) : r.payload = [] := by
  obtain ⟨_, kind, count, hk, len⟩ := judgeReply_reply h
  refine List.length_eq_zero_iff.mp (len.trans ?_)
  rw [impliedPayload_eq, if_neg]
  rintro (rfl | rfl | rfl)
  · exact data (Option.some.inj hk).symm
  · exact ident (Option.some.inj hk).symm
  · exact event (Option.some.inj hk).symm

theorem keepPayload_empty {s : State} {x : Exchange} {r : Reply} (h : r.payload = []) : s.keepPayload x (.reply r) = s := by
  rw [State.keepPayload, h]
  rfl

/-! ## The directory's part of an accepted reply -/

/-- The station after a sound reply (R123, R124): no failures, a SUSPECT one PRESENT. -/
def State.heardFrom (s : State) (n : Stn) : State :=
  { s with
    dir := { s.dir with
      entries := s.dir.entries.set n { s.entry n with
        failures := 0, state := if (s.entry n).state = .suspect then .present else (s.entry n).state }
      changes := if (s.entry n).state = .suspect then s.dir.changes ||| 1#32 <<< addrOf n else s.dir.changes } }

theorem countOutcome_sound (s : State) (n : Stn) {v : Verdict} {h : ReplyHead} (head : v.head = some h) :
    s.countOutcome n v = s.heardFrom n := by
  simp only [State.countOutcome, head, Option.isSome_some, if_true]
  split <;> rename_i st
  · simp only [State.heardFrom, st, if_true]
    simp only [State.moveTo, State.noteChange, State.modEntry, State.setEntry, State.entry]
    simp [maskAdd, maskOf]
  · simp only [State.heardFrom, st, if_false]
    rfl

@[simp] theorem entry_heardFrom (s : State) (n m : Stn) : (s.heardFrom n).entry m = if m = n then
    { s.entry n with
      failures := 0, state := if (s.entry n).state = .suspect then .present else (s.entry n).state }
    else s.entry m :=
  entry_setEntry s n m _

theorem showsRestart_same {s : State} {n : Stn} {v : Verdict} {h : ReplyHead} (head : v.head = some h)
    (epoch : (s.entry n).epoch = some h.epoch) : s.showsRestart n v = false := by
  simp [State.showsRestart, head, epoch]

/-- The directory's part of a reply of the recorded epoch with clear attention flags, where the exchange goes on. -/
theorem directoryActs_quiet {s : State} {n : Stn} {own : Tag} {x y : Exchange} {r : Reply}
    (epoch : (s.entry n).epoch = some r.head.epoch) (ready : r.head.attReady = false) (event : r.head.attEvent = false)
    (keeps : confirms x.kind (.reply r) = false) : s.directoryActs n own x (.stays y) (.reply r) = s.heardFrom n := by
  have restart : s.showsRestart n (.reply r) = false := showsRestart_same rfl epoch
  have take : s.takeRestart n own x (.reply r) = s := by rw [State.takeRestart, restart]; rfl
  have attention (u : State) : u.takeAttention n own (.reply r) = u := by
    simp [State.takeAttention, Verdict.head, ready, event]
  simp only [State.directoryActs, take, restart, attention, State.ownerActs, State.ownSilent,
    countOutcome_sound s n (v := .reply r) rfl, State.setSeqBit, keeps]
  rfl

/-! ## The deferred counts -/

/-- A record that becomes deferred raises its station's count by one. -/
theorem deferredOf_joins {s : State} {tag : Tag} {x y : Exchange} {n : Stn} (hx : s.xchg tag = some x)
    (before : x.isDeferred = false) (after : y.isDeferred = true) (dest : y.dest = .station n) (m : Stn) :
    (s.setXchg tag (some y)).deferredOf m = if m = n then s.deferredOf n + 1 else s.deferredOf m := by
  split
  · rename_i e
    subst e
    unfold State.deferredOf State.countX
    refine countP_succ allTags_nodup (mem_allTags tag) ?_ ?_ fun b hb => ?_
    · rw [xchg_setXchg, if_pos rfl]
      simp [after, dest]
    · rw [hx]
      simp [before]
    · rw [xchg_setXchg, if_neg hb]
  · rename_i other
    refine countX_congr fun t' => ?_
    rw [xchg_setXchg]
    split
    · rename_i e
      rw [e, hx]
      simp [before, dest, Ne.symm other]
    · rfl

/-- Counting again where one station's count has changed. -/
theorem recount_heardFrom {s : State} {tag : Tag} {y : Exchange} {n : Stn} {d : Nat} (counts : CountsAgree s)
    (deferred : ∀ m, (s.setXchg tag (some y)).deferredOf m = if m = n then d else s.deferredOf m) :
    ((s.setXchg tag (some y)).heardFrom n).recount =
      { s with
        table := { s.table with xs := s.table.xs.set tag (some y) }
        dir := { s.dir with
          entries := s.dir.entries.set n { s.entry n with
            failures := 0, deferred := d
            state := if (s.entry n).state = .suspect then .present else (s.entry n).state }
          changes := if (s.entry n).state = .suspect then s.dir.changes ||| 1#32 <<< addrOf n else s.dir.changes } } := by
  let u := s.setEntry n { s.entry n with
    failures := 0, deferred := d, state := if (s.entry n).state = .suspect then .present else (s.entry n).state }
  have entries : ((s.setXchg tag (some y)).heardFrom n).recount.dir.entries = u.dir.entries := entries_ext fun m => by
    have same : ((s.setXchg tag (some y)).heardFrom n).deferredOf m = (s.setXchg tag (some y)).deferredOf m := rfl
    rw [entry_recount, entry_heardFrom, same, deferred, entry_setEntry]
    by_cases h : m = n
    · rw [if_pos h, if_pos h, if_pos h]
      rfl
    · rw [if_neg h, if_neg h, if_neg h, ← counts m]
      rfl
  calc ((s.setXchg tag (some y)).heardFrom n).recount
      = { s.setXchg tag (some y) with dir := { ((s.setXchg tag (some y)).heardFrom n).dir with
          entries := ((s.setXchg tag (some y)).heardFrom n).recount.dir.entries } } := rfl
    _ = _ := by rw [entries]; rfl

/-! ## The step -/

theorem lineAfterReply_reply (s : State) (r : Reply) : s.lineAfterReply (.reply r) =
    { s.enterGuard with line.faultCount := 0 } := rfl

theorem clearsUnanswered_busy (k : Kind) : clearsUnanswered k .busy = k.nonIdem := by cases k <;> rfl

/-- Settles O38: what the reply's kind makes of the record; the directory counts a sound reply, and the end of the step
counts the deferrals again. -/
theorem replyKeepsTheExchange : Obligations.ReplyKeepsTheExchange := by
  intro s tag ph q x n bytes r counts st settling job hx onLine dest judged epoch ready event cancel after
  have fromReply {y z : Exchange} (e : replyMove s.regs (s.entry n).capacity false (heard x (.reply r)) r = (.stays y, z)) :
      s.moveOf x (.reply r) = (.stays y, z) := by
    have clear : (Cancel.none == Cancel.abort) = false := rfl
    simp only [State.moveOf, outcomeMove, cancel, clear, dest, State.capacityOf, e, cancelMove]
    simp
  have step {y : Exchange} {d : Nat}
      (reply : (replyMove s.regs (s.entry n).capacity false (heard x (.reply r)) r).1 = .stays y) (live : y.state ≠ .complete)
      (kind : r.kind = .defer ∨ r.kind = .notReady ∨ r.kind = .busy)
      (deferred : ∀ m, (s.setXchg tag (some y)).deferredOf m = if m = n then d else s.deferredOf m) : after y d := by
    have move := fromReply (Prod.ext reply rfl)
    have none' : r.payload = [] :=
      judgeReply_empty judged (by rcases kind with k | k | k <;> simp [k]) (by rcases kind with k | k | k <;> simp [k])
        (by rcases kind with k | k | k <;> simp [k])
    have keeps : confirms x.kind (.reply r) = false := by
      rcases kind with k | k | k <;> simp only [confirms, k] <;> cases x.kind <;> rfl
    have moved : s.movedBy tag x (.reply r) = (s.setXchg tag (some y)).heardFrom n := by
      simp only [State.movedBy, dest, keepPayload_empty none', move, State.applyMove]
      exact directoryActs_quiet epoch ready event keeps
    have quiet (t' : Tag) : ((s.setXchg tag (some y)).heardFrom n).newlyDone s t' = false := by
      refine newlyDone_of_kept (fun t' => ?_) t'
      have record : ((s.setXchg tag (some y)).heardFrom n).xchg t' = (s.setXchg tag (some y)).xchg t' := rfl
      rw [record, xchg_setXchg]
      by_cases h : t' = tag
      · rw [if_pos h]
        exact .inr ⟨y, rfl, live⟩
      · rw [if_neg h]
        exact .inl rfl
    show exec (.replyReceived bytes) s = _
    rw [exec_replyReceived st settling job hx judged, report_eq (recordFault_none rfl) hx onLine, moved, State.endStep,
      handOver_of_none quiet, recount_heardFrom counts deferred, lineAfterReply_reply]
    rfl
  have same {y : Exchange} (deferred : y.isDeferred = x.isDeferred) (dest' : y.dest = x.dest) (m : Stn) :
      (s.setXchg tag (some y)).deferredOf m = if m = n then (s.entry n).deferred else s.deferredOf m := by
    have agree := countsAgree_setXchg counts hx deferred dest' m
    split
    · rename_i e
      rw [← e]
      exact agree.symm
    · exact agree.symm.trans (counts m)
  have heardAs (kind : x.kind = .read) : heard x (.reply r) = { x with epochSeen := some r.head.epoch } := by
    have keeps : clearsUnanswered .read r.kind = false := rfl
    simp [heard, kind, keeps]
  refine ⟨fun kind phase rk cap => ?defer, fun kind phase rk expired => ?parks, fun kind phase rk expired => ?abandons,
    fun phase rk below => ?backs⟩
  case defer =>
    refine step ?_ (by simp) (.inl rk) fun m => ?_
    · rw [heardAs kind, replyMove, rk]
      exact congrArg Prod.fst (if_pos cap)
    · rw [counts n]
      refine deferredOf_joins hx (by simp [Exchange.isDeferred, phase]) ?_ ?_ m
      · rfl
      · exact dest
  case parks =>
    refine step ?_ (by simp) (.inr (.inl rk)) (same ?_ rfl)
    · rw [heardAs kind, replyMove, rk]
      exact congrArg Prod.fst (if_neg (by simp [expired]))
    · simp only [Exchange.isDeferred, Exchange.live, onLine]
      rfl
  case abandons =>
    refine step ?_ (by simp) (.inr (.inl rk)) (same ?_ rfl)
    · rw [heardAs kind, replyMove, rk]
      exact congrArg Prod.fst (if_pos expired)
    · simp only [Exchange.isDeferred, Exchange.live, onLine, phase]
      rfl
  case backs =>
    refine step ?_ (by simp) (.inr (.inr rk)) (same ?_ rfl)
    · rw [replyMove, rk]
      simp only [heard, rk, clearsUnanswered_busy]
      exact congrArg Prod.fst (if_pos below)
    · simp only [Exchange.isDeferred, Exchange.live, onLine]
      rfl

end Sys2Proof.Machine
end

section
/-! PROOF. What completions, cancellations and the end of a step leave of the directory; and a station declared SILENT. -/

namespace Sys2Proof.Machine

open Relation (ReflTransGen)

/-! ## Unknown outcomes -/

theorem entry_noteUnknown (s : State) (n m : Stn) :
    (s.noteUnknown n).entry m = if m = n then { s.entry n with seqUncertain := true } else s.entry m := by
  rw [State.noteUnknown, entry_joinCensus, entry_modEntry]

/-- The stations of unknown outcomes have the sequence-uncertain mark, and nothing else of an entry changes (R126). -/
theorem entry_noteUnknowns (l : List Stn) (s : State) (n : Stn) :
    (l.foldl State.noteUnknown s).entry n =
      { s.entry n with seqUncertain := (s.entry n).seqUncertain || l.contains n } := by
  induction l generalizing s with
  | nil => simp
  | cons a l ih =>
    rw [List.foldl_cons, ih, entry_noteUnknown]
    by_cases h : n = a <;> simp [h]

theorem entry_complete (s : State) (sel : Sel) (n : Stn) :
    (s.complete sel).entry n =
      { s.entry n with seqUncertain := (s.entry n).seqUncertain || (s.uncertainStns sel).contains n } := by
  rw [State.complete, entry_noteUnknowns, entry_completeBatch]

theorem recovery_noteUnknown (s : State) (n : Stn) : (s.noteUnknown n).dir.recovery = s.dir.recovery := by
  rw [State.noteUnknown, joinCensus_eq]
  rfl

theorem recovery_complete (s : State) (sel : Sel) : (s.complete sel).dir.recovery = s.dir.recovery := by
  unfold State.complete
  generalize s.uncertainStns sel = l
  suffices ∀ u : State, (l.foldl State.noteUnknown u).dir.recovery = u.dir.recovery from this _
  induction l with
  | nil => exact fun _ => rfl
  | cons n l ih => exact fun u => (ih _).trans (recovery_noteUnknown u n)

/-- A station of an unknown outcome: a selected exchange to it ends with the uncertain flag. -/
theorem mem_uncertainStns {s : State} {sel : Sel} {n : Stn} (h : n ∈ s.uncertainStns sel) :
    ∃ tag x, s.xchg tag = some x ∧ (sel tag x).isSome = true ∧ x.uncertain = true ∧ x.dest = .station n := by
  simp only [State.uncertainStns, List.mem_filterMap] at h
  obtain ⟨tag, _, h⟩ := h
  split at h
  · cases h
  · rename_i x hx
    split at h
    · rename_i sure
      simp only [Bool.and_eq_true] at sure
      split at h
      · rename_i m dest
        cases h
        exact ⟨tag, x, hx, sure.1, sure.2, dest⟩
      · cases h
    · cases h

/-- A station whose READ is cancelled with an attempt made: the READ is WAITING or in BACKOFF. -/
theorem mem_cancelledReadStns {s : State} {c : Chan} {n : Stn} (h : n ∈ s.cancelledReadStns c) :
    ∃ tag x, s.xchg tag = some x ∧ x.dest = .station n ∧ x.kind = .read ∧ (x.state = .waiting ∨ x.state = .backoff) := by
  simp only [State.cancelledReadStns, List.mem_filterMap] at h
  obtain ⟨tag, _, h⟩ := h
  split at h
  · cases h
  · rename_i x hx
    split at h
    · cases h
    · rename_i m dest
      split at h
      · rename_i sure
        cases h
        simp only [Bool.and_eq_true, beq_iff_eq] at sure
        obtain ⟨⟨⟨sel, read⟩, _⟩, _⟩ := sure
        refine ⟨tag, x, hx, dest, read, ?_⟩
        unfold cancelSel at sel
        split at sel
        · rename_i row
          exact row.2.2
        · cases sel
      · cases h

/-! ## The end of a step -/

theorem dir_handOver (s before : State) : (s.handOver before).dir = s.dir := by
  obtain ⟨tb, w, e, eq⟩ := handOver_eq s before
  rw [eq]

/-- The end of a step changes the deferred counts alone. -/
theorem entry_endStep (s before : State) (n : Stn) :
    ∃ d, (s.endStep before).entry n = { s.entry n with deferred := d } := by
  rw [State.endStep, entry_recount, entry_of_dir (dir_handOver s before)]
  exact ⟨_, rfl⟩

theorem dir_endStep (s before : State) : ∃ es, (s.endStep before).dir = { s.dir with entries := es } := by
  refine ⟨(s.endStep before).dir.entries, ?_⟩
  have hand : (s.endStep before).dir =
      { (s.handOver before).dir with entries := (s.endStep before).dir.entries } := rfl
  rw [hand, dir_handOver]

/-! ## A SILENT station -/

/-- An exchange that a SILENT station keeps: finished, a CENSUS, or FILLING with its fill end mark (R18, R19). -/
def Exchange.outlives (x : Exchange) : Prop :=
  x.live = true → x.kind = .census ∨ x.state = .filling ∧ x.fillEnd.isSome = true

/-- The station is SILENT, with no flags, timer or recovery record, and nothing in flight to it but CENSUS and FILLING
exchanges that have a mark (R39). -/
structure Silenced (n : Stn) (s : State) : Prop where
  state : (s.entry n).state = .silent
  event : (s.entry n).eventPending = false
  purge : (s.entry n).purgeNeeded = false
  ready : (s.entry n).keptReady = false
  timer : (s.entry n).holdTimer = none
  recovery : ∀ r ∈ s.dir.recovery, r.1 ≠ n
  records : ∀ tag y, s.xchg tag = some y → y.dest = .station n → y.outlives

theorem Stop.outlives {x y : Exchange} (h : Stop x y) (k : x.outlives) : y.outlives := by
  cases h with
  | cancel => exact fun live => by cases live
  | mark m =>
    unfold Exchange.markFill
    split
    · exact fun _ => .inr ⟨by simp [*], rfl⟩
    · exact k

variable {n : Stn} {s t : State}

theorem Silenced.of_entry (h : Silenced n s) (e : ∃ u d, t.entry n = { s.entry n with seqUncertain := u, deferred := d })
    (recovery : t.dir.recovery = s.dir.recovery)
    (records : ∀ tag y, t.xchg tag = some y → y.dest = .station n → y.outlives) : Silenced n t := by
  obtain ⟨u, d, e⟩ := e
  exact ⟨by rw [e]; exact h.state, by rw [e]; exact h.event, by rw [e]; exact h.purge, by rw [e]; exact h.ready,
    by rw [e]; exact h.timer, by rw [recovery]; exact h.recovery, records⟩

theorem Silenced.of_same (h : Silenced n s) (dir : t.dir = s.dir) (xs : ∀ tag, t.xchg tag = s.xchg tag) : Silenced n t :=
  h.of_entry ⟨_, _, by rw [entry_of_dir dir]⟩ (by rw [dir]) fun tag y hy => h.records tag y (by rwa [xs] at hy)

theorem Stop.outlives_star {x y : Exchange} (h : ReflTransGen Stop x y) (k : x.outlives) : y.outlives := by
  induction h with
  | refl => exact k
  | tail _ step ih => exact step.outlives ih

/-- Records that stop leave a SILENT station so. -/
theorem Silenced.stops (h : Silenced n s) (e : ∃ u d, t.entry n = { s.entry n with seqUncertain := u, deferred := d })
    (recovery : t.dir.recovery = s.dir.recovery)
    (xchg : ∀ tag, Option.Rel (ReflTransGen Stop) (s.xchg tag) (t.xchg tag)) : Silenced n t := by
  refine h.of_entry e recovery fun tag y hy dest => ?_
  have step := xchg tag
  rw [hy] at step
  generalize hx : s.xchg tag = a at step
  cases step with
  | some step =>
    have same := (Mend.sameRequest_star (Stop.mends step)).dest
    exact Stop.outlives_star step (h.records tag _ hx (same ▸ dest))

theorem Silenced.setPurge (h : Silenced n s) {m : Stn} (other : m ≠ n) : Silenced n (s.setPurge m) := by
  have records : ∀ tag, (s.setPurge m).xchg tag = s.xchg tag := xchg_of_table (onlyDir_setPurge s m).table
  have entry : (s.setPurge m).entry n = s.entry n := by
    unfold State.setPurge
    split
    · rfl
    · dsimp only
      split <;> simp [Ne.symm other]
  have recovery : ∀ r ∈ (s.setPurge m).dir.recovery, r.1 ≠ n := by
    have placed : ∀ u : State, (∀ r ∈ u.dir.recovery, r.1 ≠ n) → ∀ r ∈ (u.placePurge m).dir.recovery, r.1 ≠ n := by
      intro u old r hr
      unfold State.placePurge at hr
      split at hr
      · exact old r hr
      · rcases List.mem_append.mp hr with hr | hr
        · exact old r hr
        · rw [List.mem_singleton.mp hr]
          exact other
    unfold State.setPurge
    split
    · exact h.recovery
    · dsimp only
      split <;> first | exact placed _ h.recovery | exact h.recovery
  exact ⟨by rw [entry]; exact h.state, by rw [entry]; exact h.event, by rw [entry]; exact h.purge,
    by rw [entry]; exact h.ready, by rw [entry]; exact h.timer, recovery,
    fun tag y hy => h.records tag y (by rwa [records] at hy)⟩

theorem Silenced.setPurges (l : List Stn) (h : Silenced n s) (other : ∀ m ∈ l, m ≠ n) :
    Silenced n (l.foldl State.setPurge s) := by
  induction l generalizing s with
  | nil => exact h
  | cons m l ih =>
    exact ih (h.setPurge (other m (List.mem_cons_self ..))) fun k hk => other k (List.mem_cons_of_mem _ hk)

/-- No READ to a SILENT station is WAITING or in BACKOFF, so that a cancellation leaves its purge-needed mark alone. -/
theorem Silenced.cancelIssue (h : Silenced n s) (c : Chan) : Silenced n (s.cancelIssue c) := by
  have others : ∀ m ∈ s.cancelledReadStns c, m ≠ n := by
    rintro m hm rfl
    obtain ⟨tag, x, hx, dest, read, st⟩ := mem_cancelledReadStns hm
    have live : x.live = true := by rcases st with e | e <;> simp [Exchange.live, e]
    rcases h.records tag x hx dest live with e | e
    · rw [read] at e
      cases e
    · rcases st with st | st <;> rw [st] at e <;> cases e.1
  have completed : Silenced n (s.complete (cancelSel c)) :=
    h.stops ⟨_, _, entry_complete s _ n⟩ (recovery_complete s _)
      (reacts_complete s fun tag x _ => stop_cancelSel c tag x).xchg
  refine (completed.setPurges _ others).stops ⟨_, _, rfl⟩ rfl (reacts_mapX _ fun tag x => ?_).xchg
  split
  · exact .single (.mark x _)
  · exact .refl

theorem Silenced.enterStopping (h : Silenced n s) (c : Chan) (k : HaltCause) : Silenced n (s.enterStopping c k) := by
  have left : Silenced n ((s.leaveRunning c).modChan c fun ch =>
      { ch with state := .stopping, haltCause := some k, cancel := .stop, queue := cancelNops ch.queue }) :=
    h.of_same (by simp [State.leaveRunning, State.withdraw]) fun tag => by simp [State.leaveRunning]
  have settled (u : State) (hu : Silenced n u) : Silenced n (u.settleCancel c) :=
    hu.of_same (by unfold State.settleCancel; split <;> simp) (xchg_of_table (settleCancel_table u c))
  have halted (u : State) (hu : Silenced n u) : Silenced n (u.haltIfDone c) :=
    hu.of_same (by unfold State.haltIfDone; split <;> simp [State.raise]) (xchg_of_table (haltIfDone_table u c))
  exact halted _ (settled _ (left.cancelIssue c))

theorem Silenced.stopOnFailures (h : Silenced n s) : Silenced n s.stopOnFailures := by
  have one {u : State} (hu : Silenced n u) (c : Chan) : Silenced n (u.stopOnFailure c) := by
    rcases stopOnFailure_cases u c with e | e <;> rw [e]
    · exact hu
    · exact hu.enterStopping c .failed
  exact one (one h .A) .B

/-- The station's own part of a move to SILENT (R39). -/
def State.shut (s : State) (n : Stn) : State :=
  ((s.moveTo n .silent).modEntry n fun e =>
    { e with eventPending := false, purgeNeeded := false, keptReady := false, holdTimer := none }).dropRecovery n

/-- What a move to SILENT makes of a record before the channels react: completed, or marked (R18, R19). -/
def lostRecord (n : Stn) (tag : Tag) (x : Exchange) : Exchange :=
  if (afterSel (lostSel n) tag x).dest = .station n then (afterSel (lostSel n) tag x).markFill .stationLost
  else afterSel (lostSel n) tag x

theorem entry_shut (s : State) (n : Stn) : (s.shut n).entry n = { s.entry n with
    state := .silent, eventPending := false, purgeNeeded := false, keptReady := false, holdTimer := none } := by
  rw [State.shut, entry_dropRecovery, entry_modEntry, if_pos rfl, entry_moveTo, if_pos rfl]

/-- A move to SILENT before the channels react. -/
def State.lost (s : State) (n : Stn) : State :=
  ((s.shut n).complete (lostSel n)).mapX fun _ x => if x.dest = .station n then x.markFill .stationLost else x

theorem declareSilent_eq (s : State) (n : Stn) : s.declareSilent n = (s.lost n).stopOnFailures := rfl

theorem xchg_lost (s : State) (n : Stn) (tag : Tag) : (s.lost n).xchg tag = (s.xchg tag).map (lostRecord n tag) := by
  have shut : (s.shut n).xchg tag = s.xchg tag := rfl
  rw [State.lost, xchg_mapX, xchg_complete, shut, Option.map_map]
  rfl

theorem lostRecord_completed {n : Stn} {x : Exchange} (dest : x.dest = .station n) (live : x.live = true)
    (filling : x.state ≠ .filling) (census : x.kind ≠ .census) (tag : Tag) :
    lostRecord n tag x = x.finish (Completion.plain .stationLost) := by
  have sel : lostSel n tag x = some (Completion.plain .stationLost) := if_pos ⟨dest, live, filling, census⟩
  have after : afterSel (lostSel n) tag x = x.finish (Completion.plain .stationLost) := by rw [afterSel, sel]
  rw [lostRecord, after]
  exact (if_pos dest).trans (if_neg (by simp [Exchange.finish]))

theorem lostRecord_kept {n : Stn} {x : Exchange} (dest : x.dest = .station n)
    (kept : x.live = false ∨ x.state = .filling ∨ x.kind = .census) (tag : Tag) :
    lostRecord n tag x = x.markFill .stationLost := by
  have sel : lostSel n tag x = none := if_neg fun ⟨_, live, filling, census⟩ => by
    rcases kept with e | e | e
    · simp [e] at live
    · exact filling e
    · exact census e
  have after : afterSel (lostSel n) tag x = x := by rw [afterSel, sel]
  rw [lostRecord, after, if_pos dest]

theorem lostRecord_dest (n : Stn) (tag : Tag) (x : Exchange) : (lostRecord n tag x).dest = x.dest := by
  have mark (y : Exchange) : (y.markFill .stationLost).dest = y.dest := (sameRequest_markFill y _).dest
  have after : (afterSel (lostSel n) tag x).dest = x.dest := by unfold afterSel; split <;> rfl
  unfold lostRecord
  split
  · rw [mark, after]
  · exact after

theorem markFill_outlives {x : Exchange} (h : x.live = false ∨ x.state = .filling ∨ x.kind = .census) :
    (x.markFill .stationLost).outlives := by
  intro live
  unfold Exchange.markFill at live ⊢
  split <;> rename_i filling
  · exact .inr ⟨filling.1, rfl⟩
  · rw [if_neg filling] at live
    rcases h with e | e | e
    · rw [e] at live
      cases live
    · exact .inr ⟨e, Option.isSome_iff_ne_none.mpr fun none' => filling ⟨e, none'⟩⟩
    · exact .inl e

/-- The rule of R39 leaves the station SILENT. -/
theorem silenced_declareSilent (s : State) (n : Stn) : Silenced n (s.declareSilent n) := by
  rw [declareSilent_eq]
  refine Silenced.stopOnFailures ?_
  have entry : (s.lost n).entry n = _ := entry_complete (s.shut n) (lostSel n) n
  rw [entry_shut] at entry
  refine ⟨by rw [entry], by rw [entry], by rw [entry], by rw [entry], by rw [entry], fun r hr => ?_, fun tag y hy dest => ?_⟩
  · have old : r ∈ (s.shut n).dir.recovery := by rw [← recovery_complete (s.shut n) (lostSel n)]; exact hr
    have kept : r ∈ s.dir.recovery.filter fun r => r.1 != n := old
    simpa using (List.mem_filter.mp kept).2
  · rw [xchg_lost] at hy
    obtain ⟨x, hx, rfl⟩ := Option.map_eq_some_iff.mp hy
    rw [lostRecord_dest] at dest
    by_cases ends : x.live = true ∧ x.state ≠ .filling ∧ x.kind ≠ .census
    · rw [lostRecord_completed dest ends.1 ends.2.1 ends.2.2]
      exact fun live => by cases live
    · have kept : x.live = false ∨ x.state = .filling ∨ x.kind = .census := by
        by_contra h
        simp only [not_or, Bool.not_eq_false] at h
        exact ends h
      rw [lostRecord_kept dest kept]
      exact markFill_outlives kept

/-- The end of a step leaves a SILENT station so. -/
theorem Silenced.endStep (h : Silenced n s) (before : State) : Silenced n (s.endStep before) := by
  obtain ⟨d, e⟩ := entry_endStep s before n
  obtain ⟨es, dir⟩ := dir_endStep s before
  refine h.of_entry ⟨_, d, e⟩ (by rw [dir]) fun tag y hy => h.records tag y ?_
  rw [xchg_endStep] at hy
  split at hy
  · cases hy
  · exact hy

end Sys2Proof.Machine
end

section
/-! PROOF. A station declared SILENT by its failures. -/

namespace Sys2Proof.Machine

open Relation (ReflTransGen)

/-! ## The move to SILENT -/

/-- A move to SILENT after the station's own part is a reaction. -/
theorem reacts_declareSilent (s : State) (n : Stn) : Reacts Mend (s.shut n) (s.declareSilent n) := by
  rw [declareSilent_eq]
  refine Reacts.trans ?_ (reacts_stopOnFailures _).stops
  refine (reacts_complete _ (mend_afterSel fun tag x _ => live_of_lostSel tag x)).trans (reacts_mapX _ fun tag x => ?_)
  split
  · exact .single (.stop (.mark x _))
  · exact .refl

theorem maskHas_maskAdd (m : Word) (n : Stn) : maskHas (maskAdd m n) n = true := by
  have small : addrOf n < 32 := by unfold addrOf; omega
  rw [maskHas, maskAdd, maskOf, BitVec.getLsbD_or, BitVec.getLsbD_shiftLeft]
  simp [small]

theorem changes_declareSilent (s : State) (n : Stn) : maskHas (s.declareSilent n).dir.changes n = true := by
  rw [(reacts_declareSilent s n).changes]
  exact maskHas_maskAdd s.dir.changes n

/-- The move and its completion leave of an entry all but two marks. -/
theorem marked_applyMove (s : State) (tag : Tag) (m : Move × Exchange) (n : Stn) :
    Marked (s.entry n) ((s.applyMove tag m).entry n) := by
  unfold State.applyMove
  split
  · exact .refl _
  · rename_i c p y
    have finished := entry_complete (s.setXchg tag (some y)) (fun t' _ => if t' = tag then some c else none) n
    have done : Marked (s.entry n) (((s.setXchg tag (some y)).complete fun t' _ => if t' = tag then some c else none).entry n) := by
      rw [finished]
      exact ⟨_, _, fun e => by simp [e], id, rfl⟩
    exact done.trans ((reacts_stopOnFailures _).entry n)

/-- Of the rules of the directory's own only the failed census acts on an outcome without a sound reply. -/
theorem ownerActs_lost (s : State) (n : Stn) (own : Tag) (x : Exchange) (b : Bool) (m : Move) (k : FaultKind) :
    s.ownerActs n own x b m (.lost k) = s ∨ ∃ st, s.ownerActs n own x b m (.lost k) = s.censusFailed n st := by
  cases m with
  | stays y => exact .inl rfl
  | complete c p =>
    simp only [State.ownerActs]
    cases x.kind with
    | census => exact .inr ⟨_, rfl⟩
    | write | read | signal | bcastWrite | purge | stationReset | fetchEvent => exact .inl rfl

theorem censusFailed_entry (s : State) (n : Stn) (st : CensusStatus) :
    (s.censusFailed n st).entry n = { s.entry n with lastCensus := some { status := st, stationFault := false } } := by
  unfold State.censusFailed
  dsimp only
  split <;> simp

/-- A counted failure that brings a known station to its threshold (R124). -/
theorem thresholdSilent_counted {s : State} {n : Stn} {k : FaultKind} (counts : (Verdict.lost k).counts = true)
    (known : (s.entry n).state = .present ∨ (s.entry n).state = .suspect ∨ (s.entry n).state = .held)
    (reached : s.regs.silentThreshold ≤ min 15 ((s.entry n).failures + 1)) :
    (s.countOutcome n (.lost k)).thresholdSilent n (.lost k) = true := by
  have entry := entry_counted s n n
  have far : ¬min 15 ((s.entry n).failures + 1) < s.regs.silentThreshold := Nat.not_lt.mpr reached
  rw [if_pos rfl] at entry
  simp only [far, false_and, and_false, if_false] at entry
  have same : (s.counted n).regs = s.regs := rfl
  rw [countOutcome_counted s n counts, State.thresholdSilent, same, entry, counts]
  simp only [Bool.true_and, Bool.and_eq_true, decide_eq_true_eq, Bool.or_eq_true, beq_iff_eq, or_assoc]
  exact ⟨known, reached⟩

/-- The directory's part of a counted failure that brings a station to SILENT_THRESHOLD ends with the station declared SILENT
(R124). -/
theorem directoryActs_silent {s : State} {n : Stn} {own : Tag} {x : Exchange} {m : Move} {k : FaultKind}
    (counts : (Verdict.lost k).counts = true)
    (known : (s.entry n).state = .present ∨ (s.entry n).state = .suspect ∨ (s.entry n).state = .held)
    (reached : s.regs.silentThreshold ≤ min 15 ((s.entry n).failures + 1)) :
    ∃ u : State, s.directoryActs n own x m (.lost k) = (u.declareSilent n).censusDone x m := by
  have due : ((s.ownerActs n own x false m (.lost k)).countOutcome n (.lost k)).thresholdSilent n (.lost k) = true := by
    rcases ownerActs_lost s n own x false m k with e | ⟨st, e⟩
    · rw [e]
      exact thresholdSilent_counted counts known reached
    · have regs : (s.censusFailed n st).regs = s.regs := congrArg Outer.regs (censusFailed_outer s n st)
      rw [e]
      exact thresholdSilent_counted counts (by rw [censusFailed_entry]; exact known)
        (by rw [censusFailed_entry, regs]; exact reached)
  have restart : s.showsRestart n (.lost k) = false := rfl
  have take : s.takeRestart n own x (.lost k) = s := by rw [State.takeRestart, restart]; rfl
  unfold State.directoryActs
  simp only [take, restart]
  rw [if_pos (by rw [Bool.or_eq_true]; exact .inr due)]
  exact ⟨_, rfl⟩

/-- An outcome without a reply leaves the outer blocks alone. -/
theorem movedBy_lost_outer (s : State) (tag : Tag) (x : Exchange) (k : FaultKind) :
    (s.movedBy tag x (.lost k)).outer = s.outer := by
  have moved : ((s.keepPayload x (.lost k)).applyMove tag (s.moveOf x (.lost k))).outer = s.outer := applyMove_outer _ _ _
  unfold State.movedBy
  split
  · rename_i n _
    have acts := directoryActs_outer ((s.keepPayload x (.lost k)).applyMove tag (s.moveOf x (.lost k))) n tag x
      (s.moveOf x (.lost k)).1 (.lost k)
    have restart (u : State) : u.takeRestart n tag x (.lost k) = u := rfl
    rw [directoryActs_events, restart] at acts
    rw [acts, ← moved]
    rcases ownerActs_lost ((s.keepPayload x (.lost k)).applyMove tag (s.moveOf x (.lost k))) n tag x
      (((s.keepPayload x (.lost k)).applyMove tag (s.moveOf x (.lost k))).showsRestart n (.lost k))
      (s.moveOf x (.lost k)).1 k with e | ⟨st, e⟩
    · rw [e]
      rfl
    · rw [e, events_of_outer (censusFailed_outer _ n st)]
      rfl
  · exact moved

theorem report_lost_outer (s : State) {tag : Tag} {x : Exchange} {k : FaultKind} {s' : State}
    (rec' : s.recordFault (.lost k) = s') (hx : s.xchg tag = some x) (onLine : x.state = .onLine) :
    (s.report tag (.lost k)).outer = s'.outer := by
  rw [report_eq rec' hx onLine, endStep_outer, movedBy_lost_outer]

/-! ## The obligation -/

section
variable {s : State} {tag : Tag} {ph : Phase} {q : ReqKind} {x : Exchange} {n : Stn}

/-- The reply window expires at a station that has reached SILENT_THRESHOLD. -/
theorem expiry_silent (st : s.line.state = .await) (job : s.line.job = some (.attempt tag ph q)) (hx : s.xchg tag = some x)
    (onLine : x.state = .onLine) (dest : x.dest = .station n)
    (known : (s.entry n).state = .present ∨ (s.entry n).state = .suspect ∨ (s.entry n).state = .held)
    (reached : s.regs.silentThreshold ≤ min 15 ((s.entry n).failures + 1)) :
    ∃ u : State, (s.faulted .timeout (.station n) tag).movedBy tag x (.lost .timeout) =
      (u.declareSilent n).censusDone x ((s.faulted .timeout (.station n) tag).moveOf x (.lost .timeout)).1 ∧
      exec .replyWindowExpiry s = .next (((s.faulted .timeout (.station n) tag).movedBy tag x (.lost .timeout)).endStep
        (s.faulted .timeout (.station n) tag)).enterGuard := by
  let s' := s.faulted .timeout (.station n) tag
  have marked := marked_applyMove s' tag (s'.moveOf x (.lost .timeout)) n
  obtain ⟨u, p, _, _, entry⟩ := marked
  have regs : (s'.applyMove tag (s'.moveOf x (.lost .timeout))).regs = s.regs := congrArg Outer.regs (applyMove_outer s' _ _)
  obtain ⟨w, acts⟩ := directoryActs_silent (s := s'.applyMove tag (s'.moveOf x (.lost .timeout))) (own := tag) (x := x)
    (m := (s'.moveOf x (.lost .timeout)).1) (k := .timeout) rfl (by rw [entry]; exact known) (by rw [entry, regs]; exact reached)
  refine ⟨w, ?_, ?_⟩
  · simp only [State.movedBy, dest]
    exact acts
  · rw [exec_replyWindowExpiry st job, report_eq (by rw [recordFault_attempt (k := .timeout) job hx rfl, dest]) hx onLine]

end

theorem Silenced.censusDone {w : State} (h : Silenced n w) (x : Exchange) (m : Move) : Silenced n (w.censusDone x m) := by
  unfold State.censusDone
  split
  · split
    · exact h.of_same rfl fun _ => rfl
    · exact h
  · exact h

theorem changes_censusDone (w : State) (x : Exchange) (m : Move) : (w.censusDone x m).dir = w.dir := by
  unfold State.censusDone
  split
  · split <;> rfl
  · rfl

/-- A FILLING record with its mark waits for its fill to end, whatever stops. -/
theorem Stop.marked_star {x y : Exchange} (h : ReflTransGen Stop x y) (filling : x.state = .filling)
    (mark : x.fillEnd ≠ none) : y = x := by
  induction h with
  | refl => rfl
  | tail _ step ih =>
    subst ih
    cases step with
    | cancel _ state => rcases state with e | e <;> rw [filling] at e <;> cases e
    | mark m => exact if_neg fun h => mark h.2

/-- What the end of a step and a move to SILENT before it leave of the other records: one that is lost is COMPLETE, its tag
with its channel (R15, R19). -/
theorem lost_completes {s before : State} {n : Stn} {t' : Tag} {y y' : Exchange} {c : Chan} (hb : before.xchg t' = some y)
    (hy : s.xchg t' = some y') (same : SameRequest y y') (dest : y.dest = .station n) (owner : y.owner = .list c)
    (census : y.kind ≠ .census) (open' : y.state ≠ .complete) (live : y'.live = true) (filling : y'.state ≠ .filling)
    (mem : t' ∈ s.table.creation (.list c)) :
    t' ∈ ((s.declareSilent n).endStep before).table.compl c ∧
      ((s.declareSilent n).endStep before).xchg t' = some (y'.finish (Completion.plain .stationLost)) := by
  have record : (s.declareSilent n).xchg t' = some (y'.finish (Completion.plain .stationLost)) := by
    rw [declareSilent_eq]
    refine (mended_stopOnFailures _).finished ?_ rfl
    rw [xchg_lost, hy, Option.map_some,
      lostRecord_completed (same.dest ▸ dest) live filling (same.kind ▸ census)]
  refine ⟨mem_compl_endStep (newlyDone_of hb open' record rfl) ?_, ?_⟩
  · rw [(reacts_declareSilent s n).creation]
    exact mem
  · rw [xchg_endStep, record, retiresNow_of hb open' record rfl, retiredAtOnce_of (x := y)]
    · simp [Exchange.retiredAtOnce, owner]
    · exact same.trans ⟨rfl, rfl, rfl, rfl, rfl, rfl, rfl, rfl⟩

theorem lost_marks {s before : State} {n : Stn} {t' : Tag} {y : Exchange} (hy : s.xchg t' = some y)
    (dest : y.dest = .station n) (filling : y.state = .filling) (mark : y.fillEnd = none) :
    ((s.declareSilent n).endStep before).xchg t' = some { y with fillEnd := some .stationLost } := by
  have record : (s.declareSilent n).xchg t' = some { y with fillEnd := some .stationLost } := by
    have lost : (s.lost n).xchg t' = some { y with fillEnd := some .stationLost } := by
      rw [xchg_lost, hy, Option.map_some, lostRecord_kept dest (.inr (.inl filling)), Exchange.markFill,
        if_pos ⟨filling, mark⟩]
    have step := (reacts_stopOnFailures (s.lost n)).xchg t'
    rw [lost, ← declareSilent_eq] at step
    generalize (s.declareSilent n).xchg t' = b at step
    cases step with
    | some step => rw [Stop.marked_star step filling (by simp)]
  have going : (s.declareSilent n).newlyDone before t' = false := by
    rw [State.newlyDone, record]
    simp [filling]
  rw [xchg_endStep, State.retiresNow, going, record]
  rfl

theorem enterGuard_xchg (s : State) (tag : Tag) : s.enterGuard.xchg tag = s.xchg tag := rfl

/-- The same where the attempt would have been retried: the record is back in BACKOFF when the station is lost. -/
theorem expiry_retried {s : State} {tag : Tag} {ph : Phase} {q : ReqKind} {x : Exchange} {n : Stn}
    (st : s.line.state = .await) (job : s.line.job = some (.attempt tag ph q)) (hx : s.xchg tag = some x)
    (onLine : x.state = .onLine) (dest : x.dest = .station n) (left : x.attempts < s.regs.retryLimit + 1)
    (fresh : ¬(x.phase = .collect ∧ x.expired = true)) (cancel : s.cancelOf x.owner = .none)
    (known : (s.entry n).state = .present ∨ (s.entry n).state = .suspect ∨ (s.entry n).state = .held)
    (reached : s.regs.silentThreshold ≤ min 15 ((s.entry n).failures + 1)) :
    ∃ before s1 : State, exec .replyWindowExpiry s = .next ((s1.declareSilent n).endStep before).enterGuard ∧
      (∀ t', before.xchg t' = s.xchg t') ∧
      (∀ t', s1.xchg t' = if t' = tag then some (x.retried s.regs) else s.xchg t') ∧
      ∀ o, s1.table.creation o = s.table.creation o := by
  let s' := s.faulted .timeout (.station n) tag
  let s1 := (s'.setXchg tag (some (x.retried s.regs))).countOutcome n (.lost .timeout)
  have moved : s'.movedBy tag x (.lost .timeout) = s1.declareSilent n :=
    (movedBy_retried (s := s') dest left fresh cancel).trans
      (if_pos (thresholdSilent_counted (s := s'.setXchg tag (some (x.retried s.regs))) rfl known reached))
  obtain ⟨_, _, run⟩ := expiry_silent st job hx onLine dest known reached
  have table : s1.table = (s'.setXchg tag (some (x.retried s.regs))).table := countOutcome_table _ n _
  refine ⟨s', s1, run.trans (by rw [moved]), fun _ => rfl, fun t' => ?_, fun o => ?_⟩
  · rw [xchg_of_table table, xchg_setXchg]
    rfl
  · rw [table, setXchg_creation]
    rfl

/-- Settles O43: the counted failure reaches the threshold, so the directory's part ends with the station declared SILENT; the
record that would have been retried is lost with the others. -/
theorem failuresMakeAStationSilent : Obligations.FailuresMakeAStationSilent := by
  constructor
  · intro s tag ph q x n st job hx onLine dest known reached
    obtain ⟨u, moved, run⟩ := expiry_silent st job hx onLine dest known reached
    refine ⟨_, run, ?_⟩
    have outer := movedBy_lost_outer (s.faulted .timeout (.station n) tag) tag x .timeout
    have silent := (silenced_declareSilent u n).censusDone x ((s.faulted .timeout (.station n) tag).moveOf x (.lost .timeout)).1
    have changes := changes_declareSilent u n
    rw [← changes_censusDone _ x ((s.faulted .timeout (.station n) tag).moveOf x (.lost .timeout)).1] at changes
    rw [moved] at outer ⊢
    generalize (u.declareSilent n).censusDone x ((s.faulted .timeout (.station n) tag).moveOf x (.lost .timeout)).1 = w
      at outer silent changes ⊢
    rw [← endStep_outer w (s.faulted .timeout (.station n) tag)] at outer
    have silent := silent.endStep (s.faulted .timeout (.station n) tag)
    obtain ⟨es, dir⟩ := dir_endStep w (s.faulted .timeout (.station n) tag)
    have line : (w.endStep (s.faulted .timeout (.station n) tag)).line = (s.faulted .timeout (.station n) tag).line :=
      congrArg Outer.line outer
    exact ⟨rfl, congrArg Outer.store outer, congrArg Outer.events outer, congrArg Outer.regs outer,
      congrArg Outer.sweep outer, congrArg Outer.pointer outer, congrArg Outer.portLast outer, congrArg Outer.bus outer,
      congrArg Outer.views outer, congrArg Outer.enable outer, congrArg Outer.rediscovery outer, (congrArg Line.rate line :),
      (congrArg Line.readyPending line :), silent.state, silent.event, silent.purge, silent.ready, silent.timer,
      silent.recovery, (congrArg (fun d : Directory => maskHas d.changes n) dir).trans changes, silent.records⟩
  · intro s tag ph q x n lists st job hx onLine dest left fresh cancel known reached
    obtain ⟨before, s1, run, same, record, creation⟩ := expiry_retried st job hx onLine dest left fresh cancel known reached
    refine ⟨_, run, fun t' y c hy dest' owner census => ?_⟩
    simp only [enterGuard_xchg, State.enterGuard_table]
    have record := record t'
    have hb : before.xchg t' = some y := (same t').trans hy
    have mem : t' ∈ s1.table.creation (.list c) := by
      rw [creation]
      exact (lists.mem (.list c) t').mpr ⟨y, hy, owner⟩
    refine ⟨fun live filling => ?lost, fun filling mark => ?marked⟩
    case lost =>
      have open' : y.state ≠ .complete := by
        rintro e
        simp [Exchange.live, e] at live
      by_cases own : t' = tag
      · subst own
        rw [hx] at hy
        cases hy
        rw [if_pos rfl] at record
        obtain ⟨joins, done⟩ := lost_completes (n := n) hb record ⟨rfl, rfl, rfl, rfl, rfl, rfl, rfl, rfl⟩ dest' owner
          census open' rfl (by simp [Exchange.retried]) mem
        exact ⟨joins, _, done, rfl, ⟨rfl, rfl, rfl, rfl, rfl, rfl, rfl, rfl, fun e => by simp [live] at e⟩, rfl⟩
      · rw [if_neg own, hy] at record
        obtain ⟨joins, done⟩ := lost_completes (n := n) hb record (.refl y) dest' owner census open' live filling mem
        exact ⟨joins, _, done, rfl, ⟨rfl, rfl, rfl, rfl, rfl, rfl, rfl, rfl, fun e => by simp [live] at e⟩, rfl⟩
    case marked =>
      have other : t' ≠ tag := by
        rintro rfl
        rw [hx] at hy
        cases hy
        rw [onLine] at filling
        cases filling
      rw [if_neg other, hy] at record
      exact ⟨_, lost_marks record dest' filling mark, filling, rfl⟩

end Sys2Proof.Machine
end

section
/-! PROOF. The completion of one exchange by its own outcome: the records, the window and the directory. -/

namespace Sys2Proof.Machine

open Relation (ReflTransGen)

/-! ## One completion -/

/-- The exchange with this tag completes. -/
def onlySel (tag : Tag) (c : Completion) : Sel := fun t' _ => if t' = tag then some c else none

/-- An outcome that completes its exchange, before the channels react. -/
def State.completed (s : State) (tag : Tag) (y : Exchange) (c : Completion) : State :=
  (s.setXchg tag (some y)).complete (onlySel tag c)

theorem applyMove_complete (s : State) (tag : Tag) (y : Exchange) (c : Completion) (p : Bool) :
    s.applyMove tag (.complete c p, y) = (s.completed tag y c).stopOnFailures := rfl

theorem xchg_completed (s : State) (tag : Tag) (y : Exchange) (c : Completion) (t' : Tag) :
    (s.completed tag y c).xchg t' = if t' = tag then some (y.finish c) else s.xchg t' := by
  rw [State.completed, xchg_complete, xchg_setXchg]
  by_cases h : t' = tag
  · rw [if_pos h, if_pos h, Option.map_some, afterSel, onlySel, if_pos h]
  · rw [if_neg h, if_neg h]
    cases s.xchg t' with
    | none => rfl
    | some z => rw [Option.map_some, afterSel, onlySel, if_neg h]

theorem uncertainStns_onlySel {s : State} {tag : Tag} {y : Exchange} {c : Completion} (hy : s.xchg tag = some y)
    (sure : y.uncertain = false) : s.uncertainStns (onlySel tag c) = [] := by
  refine List.eq_nil_iff_forall_not_mem.mpr fun n h => ?_
  obtain ⟨t', z, hz, sel, unc, _⟩ := mem_uncertainStns h
  by_cases e : t' = tag
  · rw [e, hy] at hz
    cases hz
    rw [sure] at unc
    cases unc
  · simp [onlySel, e] at sel

/-- A completion whose request is not in doubt leaves the directory alone. -/
theorem dir_completed {s : State} {tag : Tag} {y : Exchange} (c : Completion) (sure : y.uncertain = false) :
    (s.completed tag y c).dir = s.dir := by
  rw [State.completed, State.complete, uncertainStns_onlySel (by rw [xchg_setXchg, if_pos rfl]) sure]
  rfl

/-! ## The channels stop their own exchanges alone -/

theorem afterSel_cancelSel_other {c : Chan} {x : Exchange} (h : x.owner ≠ .list c) (tag : Tag) :
    afterSel (cancelSel c) tag x = x := by
  rw [afterSel, cancelSel, if_neg fun k => h k.1]

theorem xchg_setPurges (l : List Stn) (s : State) (tag : Tag) : (l.foldl State.setPurge s).xchg tag = s.xchg tag :=
  xchg_of_table (foldl_table (fun u n => (onlyDir_setPurge u n).table) l s) tag

theorem xchg_cancelIssue_other {s : State} {c : Chan} {tag : Tag} {x : Exchange} (hx : s.xchg tag = some x)
    (h : x.owner ≠ .list c) : (s.cancelIssue c).xchg tag = some x := by
  rw [State.cancelIssue, xchg_mapX, xchg_setPurges, xchg_complete, hx, Option.map_some, Option.map_some,
    afterSel_cancelSel_other h, if_neg h]

theorem xchg_enterStopping_other {s : State} {c : Chan} {k : HaltCause} {tag : Tag} {x : Exchange} (hx : s.xchg tag = some x)
    (h : x.owner ≠ .list c) : (s.enterStopping c k).xchg tag = some x := by
  rw [State.enterStopping, xchg_of_table (haltIfDone_table _ c), xchg_of_table (settleCancel_table _ c)]
  exact xchg_cancelIssue_other (by rw [xchg_modChan, State.leaveRunning, xchg_modChan]; exact hx) h

/-- An exchange of no channel is as it was after the channels have reacted. -/
theorem xchg_stopOnFailures_other {s : State} {tag : Tag} {x : Exchange} (hx : s.xchg tag = some x)
    (h : ∀ c, x.owner ≠ .list c) : s.stopOnFailures.xchg tag = some x := by
  have one {u : State} (hu : u.xchg tag = some x) (c : Chan) : (u.stopOnFailure c).xchg tag = some x := by
    rcases stopOnFailure_cases u c with e | e <;> rw [e]
    · exact hu
    · exact xchg_enterStopping_other hu (h c)
  exact one (one hx .A) .B

/-- A stopping channel leaves what is not in its queue. -/
theorem stopOnFailures_calm {s : State} (h : ∀ c, (s.chan c).state.isLive = false ∨ s.hasFailure c = false) :
    s.stopOnFailures = s := by
  rw [State.stopOnFailures, stopOnFailure_calm (h .A), stopOnFailure_calm (h .B)]

/-! ## The window at the end of a step -/

theorem window_endStep {s before : State} (h : ∀ tag ∈ s.table.winList, s.newlyDone before tag = false) :
    (s.endStep before).window = s.window := by
  have none' : s.table.winList.filter (s.newlyDone before) = [] :=
    List.filter_eq_nil_iff.mpr fun tag mem => by simp [h tag mem]
  show (s.handOver before).window = s.window
  rw [State.handOver, none']
  rfl

theorem creation_completed (s : State) (tag : Tag) (y : Exchange) (c : Completion) (o : Owner) :
    (s.completed tag y c).table.creation o = s.table.creation o := by
  rw [State.completed, complete_table, completeBatch_creation, setXchg_creation]

theorem creation_stopOnFailures (s : State) (o : Owner) : s.stopOnFailures.table.creation o = s.table.creation o :=
  (reacts_stopOnFailures s).creation o

/-- The completion of a channel's exchange, and what the channels do then, complete nothing of the window. -/
theorem newlyDone_window {s : State} (lists : ListsAgree s) {tag : Tag} {x : Exchange} {d : Chan} (hx : s.xchg tag = some x)
    (owner : x.owner = .list d) (y : Exchange) (c : Completion) :
    ∀ t' ∈ (s.completed tag y c).stopOnFailures.table.winList, (s.completed tag y c).stopOnFailures.newlyDone s t' = false := by
  intro t' mem
  have mem' : t' ∈ s.table.creation .window := by
    have e : (s.completed tag y c).stopOnFailures.table.creation .window = s.table.creation .window :=
      (creation_stopOnFailures _ _).trans (creation_completed s tag y c _)
    rw [← e]
    exact mem
  obtain ⟨z, hz, window⟩ := (lists.mem .window t').mp mem'
  have other : t' ≠ tag := by
    rintro rfl
    rw [hx] at hz
    cases hz
    rw [owner] at window
    cases window
  have same : (s.completed tag y c).stopOnFailures.xchg t' = some z :=
    xchg_stopOnFailures_other (by rw [xchg_completed, if_neg other, hz]) fun e => by simp [window]
  rw [State.newlyDone, same, hz]
  simp

/-- An exchange that completes has its result at the end of the step, or is FREE where its owner retires it at once. -/
theorem completed_xchg {s t : State} {tag : Tag} {x y : Exchange} {c : Completion}
    (table : t.table = (s.completed tag y c).stopOnFailures.table) (hx : s.xchg tag = some x) (open' : x.state ≠ .complete)
    (same : SameRequest x y) :
    t.newlyDone s tag = true ∧ t.xchg tag = some (y.finish c) ∧
      (t.endStep s).xchg tag = if x.retiredAtOnce then none else some (y.finish c) := by
  have record : t.xchg tag = some (y.finish c) := by
    rw [xchg_of_table table]
    exact (mended_stopOnFailures _).finished (by rw [xchg_completed, if_pos rfl]) rfl
  refine ⟨newlyDone_of hx open' record rfl, record, ?_⟩
  rw [xchg_endStep, record, retiresNow_of hx open' record rfl, retiredAtOnce_of (x := x)]
  exact same.trans ⟨rfl, rfl, rfl, rfl, rfl, rfl, rfl, rfl⟩

/-- A channel's exchange that completes keeps its record with the result, and its tag joins the completion list (R15). -/
theorem completed_endStep {s t : State} (lists : ListsAgree s) {tag : Tag} {x y : Exchange} {d : Chan} {c : Completion}
    (hx : s.xchg tag = some x) (owner : x.owner = .list d) (open' : x.state ≠ .complete) (same : SameRequest x y)
    (table : t.table = (s.completed tag y c).stopOnFailures.table) :
    (t.endStep s).xchg tag = some (y.finish c) ∧ tag ∈ (t.endStep s).table.compl d := by
  obtain ⟨done, _, record⟩ := completed_xchg table hx open' same
  constructor
  · rw [record, if_neg (by simp [Exchange.retiredAtOnce, owner])]
  · refine mem_compl_endStep done ?_
    rw [table, creation_stopOnFailures, creation_completed]
    exact (lists.mem (.list d) tag).mpr ⟨x, hx, owner⟩

end Sys2Proof.Machine
end

section
/-! PROOF. A BCAST_WRITE: contention, its last attempt, and its frame sent. -/

namespace Sys2Proof.Machine

/-! ## The channels after a completion -/

theorem finishRecs_mem {ts : List Tag} {q : List QRec} {r : QRec} (h : r ∈ finishRecs ts q) :
    r ∈ q ∨ ∃ t ∈ ts, r.tag = some t := by
  obtain ⟨r', hr', e⟩ := List.mem_map.mp h
  split at e
  · rename_i t ht
    split at e
    · rename_i hit
      simp only [Bool.and_eq_true, List.contains_iff_mem] at hit
      subst e
      exact .inr ⟨t, hit.1.1, ht⟩
    · exact .inl (e ▸ hr')
  · exact .inl (e ▸ hr')

/-- A completion that is no failure stops no channel that was not to stop. -/
theorem hasFailure_completed {s : State} {tag : Tag} {y : Exchange} {c : Completion} {d : Chan}
    (ok : c.status.isFailure = false) (h : s.hasFailure d = false) : (s.completed tag y c).hasFailure d = false := by
  refine List.any_eq_false.mpr fun r mem fails => ?_
  rw [State.completed, chan_complete, chan_setXchg] at mem
  have status : (s.completed tag y c).recStatus r = if r.tag = some tag then some c.status else s.recStatus r := by
    unfold State.recStatus
    cases ht : r.tag with
    | none => rfl
    | some t' =>
      dsimp only
      rw [xchg_completed]
      by_cases e : t' = tag
      · rw [if_pos e, if_pos (by rw [e])]
        rfl
      · rw [if_neg e, if_neg (by simpa using e)]
  rw [status] at fails
  have other : r.tag ≠ some tag := by
    intro e
    rw [if_pos e] at fails
    simp [ok] at fails
  rw [if_neg other] at fails
  refine absurd fails (List.any_eq_false.mp h r ?_)
  rcases finishRecs_mem mem with old | ⟨t', hit, ht⟩
  · exact old
  · have sel := (List.mem_filter.mp hit).2
    obtain ⟨z, _, some'⟩ := (Option.any_eq_true _ _).mp sel
    have own : t' = tag := by
      by_contra e
      simp [onlySel, e] at some'
    exact absurd (own ▸ ht) other

/-- Counting again at the end of a step leaves the directory as it was where no deferral has ended. -/
theorem dir_endStep_of {s t : State} (counts : CountsAgree s) (dir : t.dir = s.dir)
    (deferred : ∀ n, (t.endStep s).deferredOf n = s.deferredOf n) : (t.endStep s).dir = s.dir := by
  have agree (n : Stn) : (t.endStep s).entry n = s.entry n := by
    have hand : (t.handOver s).entry n = s.entry n := entry_of_dir ((dir_handOver t s).trans dir) n
    have same : (t.endStep s).deferredOf n = (t.handOver s).deferredOf n :=
      deferredOf_of_xchg (fun tag => xchg_recount (t.handOver s) tag) n
    rw [State.endStep, entry_recount, hand, ← same, deferred, ← counts n]
  obtain ⟨es, eq⟩ := dir_endStep t s
  have entries : es = s.dir.entries := by
    rw [← entries_ext agree, eq]
  rw [eq, entries, dir]

/-- A broadcast defers nothing, so that its completion leaves the directory as it was where no channel stops. -/
theorem dir_broadcast {s : State} {tag : Tag} {x y : Exchange} (counts : CountsAgree s) (hx : s.xchg tag = some x)
    (dest : x.dest = .broadcast) (sure : y.uncertain = false) (c : Completion)
    (calm : (s.completed tag y c).stopOnFailures = s.completed tag y c) :
    ((s.completed tag y c).stopOnFailures.endStep s).dir = s.dir := by
  rw [calm]
  refine dir_endStep_of counts (dir_completed c sure) fun n => countX_congr fun t' => ?_
  rw [xchg_endStep, State.retiresNow, State.newlyDone, xchg_completed]
  by_cases e : t' = tag
  · rw [if_pos e, e, hx]
    have none' : (y.finish c).isDeferred = false := rfl
    split <;> simp [none', dest]
  · rw [if_neg e, Bool.and_not_self, Bool.false_and, if_neg (by decide)]

/-! ## The moves -/

theorem moveOf_exhausted {s : State} {x : Exchange} (k : FaultKind) (phase : x.phase = .issue)
    (used : s.regs.retryLimit + 1 ≤ x.attempts) (ends : ¬(x.kind = .read ∧ 1 ≤ s.capacityOf x.dest)) :
    s.moveOf x (.lost k) = (.complete (faultCompletion .retryExhausted k) false, x) := by
  have collect : ¬(Phase.issue = .collect ∧ x.expired = true) := by simp
  simp only [State.moveOf, heard, outcomeMove, lostMove, phase, collect, Nat.not_lt.mpr used, if_false, exhaustedIssue, ends,
    cancelMove]

theorem moveOf_sent (s : State) (x : Exchange) : s.moveOf x .sent = (.complete (Completion.plain .ok) false, x) := rfl

/-- The outcome that ends a broadcast. -/
theorem broadcast_ends {s : State} {tag : Tag} {x : Exchange} {v : Verdict} {c : Completion} (dest : x.dest = .broadcast)
    (payload : s.keepPayload x v = s) (move : s.moveOf x v = (.complete c false, x)) :
    s.movedBy tag x v = (s.completed tag x c).stopOnFailures := by
  simp only [State.movedBy, dest, payload, move]
  rfl

theorem completed_outer (s : State) (tag : Tag) (y : Exchange) (c : Completion) :
    ((s.completed tag y c).stopOnFailures.endStep s).outer = s.outer := by
  rw [endStep_outer, stopOnFailures_outer, State.completed, complete_outer, setXchg_outer]

theorem completed_window (s : State) (tag : Tag) (y : Exchange) (c : Completion) :
    (s.completed tag y c).stopOnFailures.window = s.window :=
  (reacts_stopOnFailures _).window.trans
    (reacts_complete (s.setXchg tag (some y)) (R := fun _ _ => True) fun _ _ _ => .single trivial).window

theorem window_completed {s : State} (lists : ListsAgree s) {tag : Tag} {x : Exchange} {d : Chan} (hx : s.xchg tag = some x)
    (owner : x.owner = .list d) (y : Exchange) (c : Completion) :
    ((s.completed tag y c).stopOnFailures.endStep s).window = s.window := by
  rw [window_endStep (newlyDone_window lists hx owner y c), completed_window]

/-- The line in GUARD, from the line and the registers before. -/
theorem enterGuard_line {s u : State} (line : u.line = s.line) (regs : u.regs = s.regs) : u.enterGuard.line =
    { s.line with
      state := .guard, job := none, txFrame := none, timer := some s.regs.guardTime, settling := false
      contentionWait := false, breakKind := none, breakCause := none } := by
  rw [State.enterGuard, line, regs]

theorem isLive_eq_false {st : ChanState} (h : st ≠ .running ∧ st ≠ .paused) : st.isLive = false := by
  cases st with
  | running => exact absurd rfl h.1
  | paused => exact absurd rfl h.2
  | idle | stopping | halted | aborting => rfl

/-- Settles O33: back to BACKOFF where the channel has retries left; else the record completes, which the window does not
see, and the directory neither where the channels go on. -/
theorem broadcastCompletes : Obligations.BroadcastCompletes := by
  intro s tag ph x c lists counts st job hx onLine owner kind dest backs
  have cancelled : s.cancelOf x.owner = (s.chan c).cancel := by rw [owner]; rfl
  have sure : x.uncertain = false := by rw [Exchange.uncertain, kind]; rfl
  have keeps (cp : Completion) : KeepsRequest x (x.finish cp) :=
    ⟨rfl, rfl, rfl, rfl, rfl, rfl, rfl, rfl, fun e => by simp [Exchange.live, onLine] at e⟩
  have open' : x.state ≠ .complete := by simp [onLine]
  let s' := s.faulted .contention .broadcast tag
  have lists' : ListsAgree s' := ⟨lists.nodup, lists.mem⟩
  have reported : s.report tag (.lost .contention) = (s'.movedBy tag x (.lost .contention)).endStep s' :=
    report_eq (by rw [recordFault_attempt (k := .contention) job hx rfl, dest]) hx onLine
  refine ⟨fun phase left cancel wait => ?lost, fun phase used wait => ?exhausted, ?sent⟩
  case lost =>
    have fresh : ¬(x.phase = .collect ∧ x.expired = true) := by simp [phase]
    have moved : s'.movedBy tag x (.lost .contention) = s'.setXchg tag (some (x.retried s.regs)) := by
      simp only [State.movedBy, dest, moveOf_retried (s := s') .contention left fresh (cancelled.trans cancel)]
      rfl
    rw [exec_contention_attempt st wait job, reported, moved,
      endStep_setXchg (s := s') (counts.of_same rfl rfl) hx (retried_open x _) (retried_isDeferred onLine _) rfl rfl
        fun _ => rfl]
    rfl
  case exhausted =>
    have move := moveOf_exhausted (s := s') .contention phase used (by simp [kind])
    have run := exec_contention_attempt st wait job
    rw [reported, broadcast_ends dest rfl move] at run
    obtain ⟨record, joins⟩ := completed_endStep (c := faultCompletion .retryExhausted .contention) lists' hx owner open' (.refl x) rfl
    have outer := completed_outer s' tag x (faultCompletion .retryExhausted .contention)
    have window := window_completed lists' hx owner x (faultCompletion .retryExhausted .contention)
    refine ⟨_, _, run, record, keeps _, rfl, ?_, joins, ?_, congrArg Outer.store outer, congrArg Outer.events outer, window,
      congrArg Outer.regs outer, congrArg Outer.sweep outer, fun idle => ?_⟩
    · simp [Exchange.finish, faultCompletion, sure]
    · have line := congrArg Outer.line outer
      exact congrArg (fun l : Line => { l with contentionWait := true, job := none, txFrame := none }) line
    · refine dir_broadcast (s := s') (counts.of_same rfl rfl) hx dest sure _ (stopOnFailures_calm fun c' => .inl ?_)
      rw [State.completed, chan_complete, chan_setXchg]
      exact isLive_eq_false (idle c')
  case sent =>
    have run := exec_bcastWriteSent st job
    rw [applyVerdict_eq .sent hx onLine, broadcast_ends dest rfl (moveOf_sent s x)] at run
    obtain ⟨record, joins⟩ := completed_endStep (c := Completion.plain .ok) lists hx owner open' (.refl x) rfl
    have outer := completed_outer s tag x (Completion.plain .ok)
    have window := window_completed lists hx owner x (Completion.plain .ok)
    refine ⟨_, _, run, record, keeps _, rfl, ?_, joins, ?_, congrArg Outer.store outer, congrArg Outer.events outer, window,
      congrArg Outer.regs outer, congrArg Outer.sweep outer, fun calm => ?_⟩
    · simp [Exchange.finish, Completion.plain, sure]
    · exact congrArg (fun l : Line => { l with frameWhole := true })
        (enterGuard_line (congrArg Outer.line outer) (congrArg Outer.regs outer))
    · refine dir_broadcast counts hx dest sure _ (stopOnFailures_calm fun c' => ?_)
      by_cases live : (s.chan c').state = .running ∨ (s.chan c').state = .paused
      · exact .inr (hasFailure_completed rfl (calm c' live))
      · refine .inl ?_
        rw [State.completed, chan_complete, chan_setXchg]
        exact isLive_eq_false (not_or.mp live)

end Sys2Proof.Machine
end

section
/-! PROOF. The last retry of an attempt. -/

namespace Sys2Proof.Machine

open Relation (ReflTransGen)

/-! ## The line after the outcome of an attempt -/

/-- What a command that ends an attempt leaves of the state its report has made: all but the line, and of the line what is not
the attempt's own. -/
structure LineOnly (u t : State) : Prop where
  table : t.table = u.table
  dir : t.dir = u.dir
  window : t.window = u.window
  outer : { t.outer with line := u.line } = u.outer
  job : t.line.job = none
  txFrame : t.line.txFrame = none
  settling : t.line.settling = u.line.settling ∨ t.line.settling = false
  rate : t.line.rate = u.line.rate
  readyPending : t.line.readyPending = u.line.readyPending
  frameWhole : t.line.frameWhole = u.line.frameWhole
  lastFault : t.line.lastFault = u.line.lastFault

theorem lineOnly_enterGuard (s : State) : LineOnly s s.enterGuard :=
  ⟨rfl, rfl, rfl, rfl, rfl, rfl, .inr rfl, rfl, rfl, rfl, rfl⟩

theorem lineOnly_enterBreak (s : State) (k : BreakKind) (c : BreakCause) (m : Word) :
    LineOnly s ((s.raise m).enterBreak k c) := ⟨rfl, rfl, rfl, rfl, rfl, rfl, .inr rfl, rfl, rfl, rfl, rfl⟩

theorem lineOnly_lineAfterReply (s : State) (v : Verdict) : LineOnly s (s.lineAfterReply v) := by
  unfold State.lineAfterReply
  split
  · exact lineOnly_enterBreak s _ _ _
  · exact ⟨rfl, rfl, rfl, rfl, rfl, rfl, .inr rfl, rfl, rfl, rfl, rfl⟩

/-- A command that ends the attempt reports its verdict, and then changes the line alone (R70, R71, R72, R75). -/
theorem exec_endsAttempt {s : State} {i : Instr} {tag : Tag} {ph : Phase} {q : ReqKind} {x : Exchange} {v : Verdict}
    (job : s.line.job = some (.attempt tag ph q)) (hx : s.xchg tag = some x) (h : s.endsAttempt i tag x v) :
    ∃ t, exec i s = .next t ∧ LineOnly (s.report tag v) t ∧ (v = .lost .timeout → t.line.state = .guard) := by
  rcases h with ⟨rfl, st, rfl⟩ | ⟨bytes, rfl, st, settling, judged⟩ | ⟨rfl | rfl, st, settling, rfl⟩ | ⟨rfl, st, wait, rfl⟩
  · exact ⟨_, exec_replyWindowExpiry st job, lineOnly_enterGuard _, fun _ => rfl⟩
  · refine ⟨_, exec_replyReceived st settling job hx judged, lineOnly_lineAfterReply _ _, fun e => ?_⟩
    subst e
    rcases judgeReply_lost judged with e | e | e <;> cases e
  · exact ⟨_, exec_lineSettled st settling job, lineOnly_lineAfterReply _ _, fun e => by cases e⟩
  · refine ⟨_, exec_stuckLineTimeout st settling job, ?_, fun e => by cases e⟩
    split
    · exact lineOnly_enterBreak _ _ _ _
    · exact ⟨rfl, rfl, rfl, rfl, rfl, rfl, .inr rfl, rfl, rfl, rfl, rfl⟩
  · exact ⟨_, exec_contention_attempt st wait job, ⟨rfl, rfl, rfl, rfl, rfl, rfl, .inl rfl, rfl, rfl, rfl, rfl⟩,
      fun e => by cases e⟩

/-! ## The failures of the station -/

theorem failures_of_marked {e f : Entry} (h : Marked e f) : f.failures = e.failures := by
  obtain ⟨_, _, _, _, rfl⟩ := h
  rfl

theorem failures_declareSilent (s : State) (n : Stn) : ((s.declareSilent n).entry n).failures = (s.entry n).failures := by
  rw [failures_of_marked ((reacts_declareSilent s n).entry n), entry_shut]

theorem failures_counted (s : State) (n : Stn) (k : FaultKind) (lost : k ≠ .overrun ∧ k ≠ .unexpected) :
    ((s.countOutcome n (.lost k)).entry n).failures =
      if k = .contention then (s.entry n).failures else min 15 ((s.entry n).failures + 1) := by
  by_cases e : k = .contention
  · rw [if_pos e, countOutcome_other s n rfl (by rw [e]; rfl)]
  · have counts : (Verdict.lost k).counts = true := by
      cases k with
      | contention => exact absurd rfl e
      | overrun => exact absurd rfl lost.1
      | unexpected => exact absurd rfl lost.2
      | timeout | crc | framing | wrongStation => rfl
    rw [if_neg e, countOutcome_counted s n counts, entry_counted, if_pos rfl]

/-- The failures after an outcome without a reply: those the count leaves. -/
theorem failures_movedBy (s : State) (tag : Tag) (x : Exchange) {n : Stn} (dest : x.dest = .station n) (k : FaultKind)
    (lost : k ≠ .overrun ∧ k ≠ .unexpected) : ((s.movedBy tag x (.lost k)).entry n).failures =
      if k = .contention then (s.entry n).failures else min 15 ((s.entry n).failures + 1) := by
  have moved := failures_of_marked (marked_applyMove s tag (s.moveOf x (.lost k)) n)
  generalize hu : s.applyMove tag (s.moveOf x (.lost k)) = u at moved
  have owner : ((u.ownerActs n tag x false (s.moveOf x (.lost k)).1 (.lost k)).entry n).failures = (s.entry n).failures := by
    rcases ownerActs_lost u n tag x false (s.moveOf x (.lost k)).1 k with e | ⟨st, e⟩ <;> rw [e]
    · exact moved
    · rw [censusFailed_entry]
      exact moved
  have counted := failures_counted (u.ownerActs n tag x false (s.moveOf x (.lost k)).1 (.lost k)) n k lost
  rw [owner] at counted
  have acts : (s.movedBy tag x (.lost k)) = u.directoryActs n tag x (s.moveOf x (.lost k)).1 (.lost k) := by
    simp only [State.movedBy, dest, State.keepPayload, hu]
  rw [acts, ← counted]
  have restart : u.showsRestart n (.lost k) = false := rfl
  have take : u.takeRestart n tag x (.lost k) = u := by rw [State.takeRestart, restart]; rfl
  have bit (w : State) : w.setSeqBit n x false (.lost k) = w := by simp [State.setSeqBit, confirms]
  have attention (w : State) : w.takeAttention n tag (.lost k) = w := rfl
  simp only [State.directoryActs, take, restart, bit, attention]
  rw [entry_of_dir (changes_censusDone _ _ _)]
  have purged (w : State) (b : Bool) : ((if b then w.setPurge n else w).entry n).failures = (w.entry n).failures := by
    split
    · exact failures_of_marked ((reacts_setPurge (R := Stop) w n).entry n)
    · rfl
  split
  · rw [failures_declareSilent, purged]
  · rw [purged]

/-! ## The directory below SILENT_THRESHOLD -/

theorem thresholdSilent_low {s : State} {n : Stn} {k : FaultKind}
    (low : k ≠ .contention → min 15 ((s.entry n).failures + 1) < s.regs.silentThreshold) :
    (s.countOutcome n (.lost k)).thresholdSilent n (.lost k) = false := by
  cases counts : (Verdict.lost k).counts with
  | false => rw [State.thresholdSilent, counts]; rfl
  | true =>
    have same : (s.counted n).regs = s.regs := rfl
    have other : k ≠ .contention := by rintro rfl; cases counts
    rw [countOutcome_counted s n counts, State.thresholdSilent, same, entry_counted, if_pos rfl]
    exact Bool.and_eq_false_imp.mpr fun _ => decide_eq_false (Nat.not_le.mpr (low other))

section
variable {s : State} {tag : Tag} {x : Exchange} {n : Stn} {k : FaultKind}

/-- An outcome without a reply below SILENT_THRESHOLD on which the exchange goes on. -/
theorem movedBy_stays {y z : Exchange} (dest : x.dest = .station n) (move : s.moveOf x (.lost k) = (.stays y, z))
    (low : k ≠ .contention → min 15 ((s.entry n).failures + 1) < s.regs.silentThreshold) :
    s.movedBy tag x (.lost k) = (s.setXchg tag (some y)).countOutcome n (.lost k) := by
  simp only [State.movedBy, dest, State.keepPayload, move, State.applyMove]
  rw [directoryActs_lost (.inl ⟨y, rfl⟩)]
  exact if_neg (Bool.eq_false_iff.mp (thresholdSilent_low (s := s.setXchg tag (some y)) low))

/-- The same where it completes an exchange that is not the directory's. -/
theorem movedBy_ends {c : Completion} (dest : x.dest = .station n) (kind : x.kind.internalKind = false)
    (move : s.moveOf x (.lost k) = (.complete c false, x))
    (low : k ≠ .contention → min 15 ((s.entry n).failures + 1) < s.regs.silentThreshold) :
    s.movedBy tag x (.lost k) = ((s.completed tag x c).stopOnFailures).countOutcome n (.lost k) := by
  have marked := marked_applyMove s tag (.complete c false, x) n
  have regs : (s.applyMove tag (.complete c false, x)).regs = s.regs := congrArg Outer.regs (applyMove_outer s _ _)
  simp only [State.movedBy, dest, State.keepPayload, move]
  rw [directoryActs_lost (.inr kind)]
  refine if_neg (Bool.eq_false_iff.mp (thresholdSilent_low fun e => ?_))
  rw [failures_of_marked marked, regs]
  exact low e

end

/-! ## The window -/

theorem filter_eq_one {α : Type} {p : α → Bool} {a : α} {l : List α} (nodup : l.Nodup) (mem : a ∈ l) (pa : p a = true)
    (others : ∀ b ∈ l, b ≠ a → p b = false) : l.filter p = [a] := by
  obtain ⟨l₁, l₂, rfl⟩ := List.append_of_mem mem
  have apart := List.nodup_middle.mp nodup
  have none' (l' : List α) (h : ∀ b ∈ l', b ∈ l₁ ++ l₂) : l'.filter p = [] :=
    List.filter_eq_nil_iff.mpr fun b hb => by
      have ne : b ≠ a := fun e => (List.nodup_cons.mp apart).1 (e ▸ h b hb)
      simp [others b (by have := h b hb; simp only [List.mem_append, List.mem_cons] at this ⊢; tauto) ne]
  rw [List.filter_append, List.filter_cons_of_pos pa, none' l₁ fun b => List.mem_append_left _,
    none' l₂ fun b => List.mem_append_right _]
  rfl

end Sys2Proof.Machine
end

section
/-! PROOF. A WRITE of the window that fails, and a request in doubt; the last retry of an attempt. -/

namespace Sys2Proof.Machine

open Relation (ReflTransGen)

/-! ## A WRITE of the window that fails -/

section
variable {s t : State} {tag : Tag} {x : Exchange} {n : Stn} {c : Completion}

/-- Of the window's exchanges the completion, and what the channels do then, complete the one alone. -/
theorem newlyDone_window_one (lists : ListsAgree s) (table : t.table = (s.completed tag x c).stopOnFailures.table) :
    ∀ t' ∈ t.table.winList, t' ≠ tag → t.newlyDone s t' = false := by
  intro t' mem other
  have mem' : t' ∈ s.table.creation .window := by
    have e : t.table.creation .window = s.table.creation .window := by
      rw [table, creation_stopOnFailures, creation_completed]
    rw [← e]
    exact mem
  obtain ⟨z, hz, window⟩ := (lists.mem .window t').mp mem'
  have same : t.xchg t' = some z := by
    rw [xchg_of_table table]
    exact xchg_stopOnFailures_other (by rw [xchg_completed, if_neg other, hz]) fun e => by simp [window]
  rw [State.newlyDone, same, hz]
  simp

/-- The window's fault record takes a WRITE that fails (R157, R161). -/
theorem window_writeFails (lists : ListsAgree s) (hx : s.xchg tag = some x) (owner : x.owner = .window)
    (kind : x.kind = .write) (dest : x.dest = .station n) (open' : x.state ≠ .complete) (fails : c.status ≠ .ok)
    (table : t.table = (s.completed tag x c).stopOnFailures.table) (window : t.window = s.window) :
    (t.endStep s).xchg tag = none ∧
    (s.window.fault = none → (t.endStep s).window.fault = some
      { station := n, reg := x.regAddr.getD 0#16, dir := .write, status := c.status, detail := c.detail
        uncertain := x.unanswered }) ∧
    (s.window.fault ≠ none →
      (t.endStep s).window.fault = s.window.fault ∧ (t.endStep s).window.overflow = true) := by
  obtain ⟨done, record, ends⟩ := completed_xchg table hx open' (.refl x)
  have creation : t.table.creation .window = s.table.creation .window := by
    rw [table, creation_stopOnFailures, creation_completed]
  have only : t.table.winList.filter (t.newlyDone s) = [tag] :=
    filter_eq_one (by rw [show t.table.winList = t.table.creation .window from rfl, creation]; exact lists.nodup .window)
      (by
        rw [show t.table.winList = t.table.creation .window from rfl, creation]
        exact (lists.mem .window tag).mpr ⟨x, hx, owner⟩)
      done (newlyDone_window_one lists table)
  have taken : (t.endStep s).window = (t.enterWindowFault
      { station := n, reg := x.regAddr.getD 0#16, dir := .write, status := c.status, detail := c.detail
        uncertain := x.unanswered }).window := by
    have unc : x.uncertain = x.unanswered := by simp [Exchange.uncertain, kind, Kind.nonIdem]
    have hand : (t.endStep s).window = (t.windowTakeTag tag).window := by
      show (t.handOver s).window = _
      rw [State.handOver, only]
      rfl
    rw [hand, State.windowTakeTag, record]
    simp only [dest, Exchange.finish, State.windowTake, kind, unc, fails, if_false]
  refine ⟨by rw [ends, if_pos (by simp [Exchange.retiredAtOnce, owner, kind])], fun free => ?_, fun used => ?_⟩
  · rw [taken, State.enterWindowFault, window, free]
    rfl
  · rw [taken, State.enterWindowFault, window]
    split
    · rename_i free
      exact absurd free used
    · exact ⟨by rw [← window], rfl⟩

/-! ## A request in doubt -/

theorem mem_census_noteUnknowns {l : List Stn} (mem : n ∈ l) {u : State} (state : (u.entry n).state ≠ .disabled) :
    n ∈ (l.foldl State.noteUnknown u).dir.census := by
  induction l generalizing u with
  | nil => cases mem
  | cons m l ih =>
    have kept : ((u.noteUnknown m).entry n).state = (u.entry n).state := by
      rw [entry_noteUnknown]
      split
      · rename_i e; rw [e]
      · rfl
    have later {u : State} (old : n ∈ u.dir.census) : n ∈ (l.foldl State.noteUnknown u).dir.census := by
      obtain ⟨more, e⟩ := (Reacts.foldl (R := Stop) reacts_noteUnknown l u).census
      rw [e]
      exact List.mem_append_left _ old
    rw [List.foldl_cons]
    rcases List.mem_cons.mp mem with rfl | mem
    · refine later ?_
      have joined : ((u.modEntry n fun e => { e with seqUncertain := true }).entry n).state ≠ .disabled := by
        rw [entry_modEntry, if_pos rfl]
        exact state
      rw [State.noteUnknown, joinCensus_of_open joined]
      show n ∈ if n ∈ _ then _ else _
      split
      · assumption
      · exact List.mem_append_right _ (List.mem_singleton_self n)
    · exact ih mem (by rw [kept]; exact state)

/-- The station of a completion in doubt has the mark, and stands in the census list (R126). -/
theorem completed_doubt (lists : ListsAgree s) (hx : s.xchg tag = some x) (dest : x.dest = .station n)
    (doubt : x.uncertain = true) (c : Completion) : ((s.completed tag x c).entry n).seqUncertain = true ∧
      ((s.entry n).state ≠ .disabled → n ∈ (s.completed tag x c).dir.census) := by
  have hit : n ∈ (s.setXchg tag (some x)).uncertainStns (onlySel tag c) := by
    refine List.mem_filterMap.mpr ⟨tag, ?_, ?_⟩
    · have mem := (lists.mem x.owner tag).mpr ⟨x, hx, rfl⟩
      have same : (s.setXchg tag (some x)).table.creation x.owner = s.table.creation x.owner := setXchg_creation ..
      rw [← same] at mem
      simp only [List.mem_append]
      match h : x.owner, mem with
      | .window, mem => exact .inl (.inl (.inl mem))
      | .list .A, mem => exact .inl (.inl (.inr mem))
      | .list .B, mem => exact .inl (.inr mem)
      | .internal, mem => exact .inr mem
    · have own : (s.setXchg tag (some x)).xchg tag = some x := by rw [xchg_setXchg, if_pos rfl]
      simp [own, onlySel, doubt, dest]
  constructor
  · rw [State.completed, entry_complete]
    simp [hit]
  · exact fun state => mem_census_noteUnknowns hit (u := (s.setXchg tag (some x)).completeBatch (onlySel tag c)) state

end

/-! ## The count of an outcome -/

theorem countOutcome_window (s : State) (n : Stn) (v : Verdict) : (s.countOutcome n v).window = s.window := by
  unfold State.countOutcome
  dsimp only
  repeat' split
  all_goals rfl

theorem countOutcome_census (s : State) (n : Stn) (v : Verdict) : (s.countOutcome n v).dir.census = s.dir.census := by
  unfold State.countOutcome
  dsimp only
  repeat' split
  all_goals rfl

theorem countOutcome_seqUncertain (s : State) (n : Stn) (v : Verdict) :
    ((s.countOutcome n v).entry n).seqUncertain = (s.entry n).seqUncertain := by
  unfold State.countOutcome
  dsimp only
  repeat' split
  all_goals simp

/-! ## The obligation -/

section
variable {s : State} {tag : Tag} {x : Exchange} {n : Stn} {k : FaultKind}

theorem moveOf_abandons (phase : x.phase = .issue) (used : s.regs.retryLimit + 1 ≤ x.attempts) (kind : x.kind = .read)
    (capacity : 1 ≤ s.capacityOf x.dest) (cancel : s.cancelOf x.owner = .none) :
    s.moveOf x (.lost k) = (.stays (x.toAbandon { status := .retryExhausted, fault := some k }), x) := by
  have collect : ¬(Phase.issue = .collect ∧ x.expired = true) := by simp
  simp only [State.moveOf, heard, outcomeMove, lostMove, phase, collect, Nat.not_lt.mpr used, if_false, exhaustedIssue, kind,
    capacity, and_self, if_true, cancelMove, cancel]
  rfl

/-- The outer blocks of a command that ends an attempt without a reply. -/
theorem LineOnly.unchanged {u t : State} (h : LineOnly u t) (outer : u.outer = (s.faulted k (.station n) tag).outer) :
    t.store = s.store ∧ t.events = s.events ∧ t.regs = s.regs ∧ t.sweep = s.sweep ∧ t.pointer = s.pointer ∧
      t.portLast = s.portLast ∧ t.bus = s.bus ∧ t.views = s.views ∧ t.irq.enable = s.irq.enable ∧
      t.dir.rediscovery = s.dir.rediscovery ∧ t.line.rate = s.line.rate ∧ t.line.readyPending = s.line.readyPending ∧
      t.line.lastFault = some { kind := k, station := stnField n, tag := tag } := by
  have o := h.outer.trans outer
  have line := congrArg Outer.line outer
  exact ⟨congrArg Outer.store o, congrArg Outer.events o, congrArg Outer.regs o, congrArg Outer.sweep o,
    congrArg Outer.pointer o, congrArg Outer.portLast o, congrArg Outer.bus o, congrArg Outer.views o,
    congrArg Outer.enable o, congrArg Outer.rediscovery o, h.rate.trans ((congrArg Line.rate line :)),
    h.readyPending.trans (congrArg Line.readyPending line :), h.lastFault.trans (congrArg Line.lastFault line :)⟩

end

/-- Settles O35: the command reports its verdict and changes the line alone; the verdict's move is to ABANDON or a
completion, and the directory counts. -/
theorem retriesUsedUp : Obligations.RetriesUsedUp := by
  intro s tag ph q x n i k lists job hx onLine dest phase used ends low
  have ordinary : k ≠ .overrun ∧ k ≠ .unexpected := by
    rcases ends with ⟨_, _, e⟩ | ⟨_, _, _, _, judged⟩ | ⟨_, _, _, e⟩ | ⟨_, _, _, e⟩
    · cases e; decide
    · rcases judgeReply_lost judged with rfl | rfl | rfl <;> decide
    · cases e; decide
    · cases e; decide
  have fault : s.recordFault (.lost k) = s.faulted k (.station n) tag := by
    rw [recordFault_attempt (k := k) job hx rfl, dest]
  obtain ⟨t, run, line, guard⟩ := exec_endsAttempt job hx ends
  obtain ⟨store, events, regs, sweep, pointer, portLast, bus, views, enable, rediscovery, rate, ready, last⟩ :=
    line.unchanged (report_lost_outer s fault hx onLine)
  have table := line.table
  have dir := line.dir
  have window := line.window
  generalize hs' : s.faulted k (.station n) tag = s' at fault
  have same (t' : Tag) : s'.xchg t' = s.xchg t' := by rw [← hs']; rfl
  have entry (m : Stn) : s'.entry m = s.entry m := by rw [← hs']; rfl
  have hx' : s'.xchg tag = some x := (same tag).trans hx
  have lists' : ListsAgree s' := by subst hs'; exact ⟨lists.nodup, lists.mem⟩
  have open' : x.state ≠ .complete := by simp [onLine]
  have low' : k ≠ .contention → min 15 ((s'.entry n).failures + 1) < s'.regs.silentThreshold := by subst hs'; exact low
  have used' : s'.regs.retryLimit + 1 ≤ x.attempts := by subst hs'; exact used
  have capacity : s'.capacityOf x.dest = (s.entry n).capacity := by rw [dest, State.capacityOf, entry]
  have cancel : s'.cancelOf x.owner = s.cancelOf x.owner := by
    subst hs'
    cases x.owner with
    | list c => cases c <;> rfl
    | window | internal => rfl
  have firstFault : s'.window = s.window := by subst hs'; rfl
  rw [report_eq fault hx onLine] at table dir window
  have record (t' : Tag) := xchg_of_table table t'
  refine ⟨t, run, fun e => guard (by rw [e]), line.job, store, events, regs, sweep, pointer, portLast, bus, views, enable,
    rediscovery, rate, ready, last, ?failures, fun kind cap none' => ?abandons, fun c owner kind => ?completes,
    fun kind owner => ?ofWindow⟩
  case failures =>
    obtain ⟨d, e⟩ := entry_endStep (s'.movedBy tag x (.lost k)) s' n
    rw [entry_of_dir dir, e, ← entry n]
    exact failures_movedBy s' tag x dest k ordinary
  case abandons =>
    have move := moveOf_abandons (s := s') (k := k) phase used' kind (by rw [capacity]; exact cap) (by rw [cancel, none'])
    have moved := movedBy_stays (tag := tag) dest move low'
    have waits : (s'.movedBy tag x (.lost k)).xchg tag =
        some (x.toAbandon { status := .retryExhausted, fault := some k }) := by
      rw [moved, xchg_of_table (countOutcome_table _ n _), xchg_setXchg, if_pos rfl]
    have going : (s'.movedBy tag x (.lost k)).newlyDone s' tag = false := by
      rw [State.newlyDone, waits]
      rfl
    rw [record, xchg_endStep, State.retiresNow, going, waits]
    rfl
  case completes =>
    have external : x.kind.internalKind = false := by rcases kind with e | e | ⟨e, _⟩ <;> rw [e] <;> rfl
    have move := moveOf_exhausted (s := s') k phase used' (by
      rw [capacity]
      rcases kind with e | e | ⟨_, e⟩
      · simp [e]
      · simp [e]
      · simp [e])
    have moved := movedBy_ends (tag := tag) dest external move low'
    have ended := (congrArg State.table moved).trans (countOutcome_table _ n _)
    obtain ⟨done, joins⟩ := completed_endStep lists' hx' owner open' (.refl x) ended
    exact ⟨by rw [table]; exact joins, _, (record tag).trans done, rfl, rfl⟩
  case ofWindow =>
    have move := moveOf_exhausted (s := s') k phase used' (by simp [kind])
    have moved := movedBy_ends (tag := tag) dest (by rw [kind]; rfl) move low'
    have ended := (congrArg State.table moved).trans (countOutcome_table _ n _)
    have before : (s'.movedBy tag x (.lost k)).window = s'.window := by
      rw [moved, countOutcome_window, completed_window]
    obtain ⟨gone, free, full⟩ := window_writeFails lists' hx' owner kind dest open' (by simp [faultCompletion]) ended before
    rw [firstFault] at free full
    refine ⟨(record tag).trans gone, fun h => ?_, fun h => ?_, fun doubt => ?_⟩
    · rw [window]
      exact free h
    · rw [window]
      exact full h
    · obtain ⟨mark, joins⟩ := completed_doubt lists' hx' dest (by simp [Exchange.uncertain, kind, Kind.nonIdem, doubt])
        (faultCompletion .retryExhausted k)
      generalize hu : s'.completed tag x (faultCompletion .retryExhausted k) = u at mark joins moved
      have reacts := reacts_stopOnFailures u
      obtain ⟨d, e⟩ := entry_endStep (s'.movedBy tag x (.lost k)) s' n
      obtain ⟨es, census⟩ := dir_endStep (s'.movedBy tag x (.lost k)) s'
      obtain ⟨more, joined⟩ := reacts.census
      obtain ⟨_, _, kept, _, marked⟩ := reacts.entry n
      refine ⟨?_, fun state => ?_⟩
      · rw [entry_of_dir dir, e, moved]
        exact (countOutcome_seqUncertain _ n (.lost k)).trans (by rw [marked]; exact kept mark)
      · rw [dir, census, moved]
        show n ∈ ((u.stopOnFailures).countOutcome n (.lost k)).dir.census
        rw [countOutcome_census, joined]
        exact List.mem_append_left _ (joins (by rw [entry]; exact state))

end Sys2Proof.Machine
end

section
/-! PROOF. The report of any outcome; the attention flags of a sound reply; and the line after a reply. -/

namespace Sys2Proof.Machine

open Relation (ReflTransGen)

/-! ## The report -/

/-- A report leaves the blocks outside the table, the directory and the channels as the fault's record leaves them, the store
and the event queue apart. -/
theorem report_outer (s : State) (tag : Tag) (v : Verdict) : (s.report tag v).outer =
    { (s.recordFault v).outer with store := (s.report tag v).store, events := (s.report tag v).events } :=
  applyVerdict_outer (s.recordFault v) tag v

theorem movedBy_store (s : State) (tag : Tag) (x : Exchange) (v : Verdict) :
    (s.movedBy tag x v).store = (s.keepPayload x v).store := by
  have moved : ((s.keepPayload x v).applyMove tag (s.moveOf x v)).store = (s.keepPayload x v).store :=
    congrArg Outer.store (applyMove_outer _ _ _)
  unfold State.movedBy
  split
  · exact (congrArg Outer.store (directoryActs_outer _ _ tag x (s.moveOf x v).1 v) :).trans moved
  · exact moved

/-- Only an accepted reply brings bytes to the store (R14, R72). -/
theorem report_store (s : State) (tag : Tag) {v : Verdict} (h : ∀ r, v ≠ .reply r) : (s.report tag v).store = s.store := by
  have fault : (s.recordFault v).store = s.store := by
    unfold State.recordFault
    split <;> rfl
  have payload (u : State) (x : Exchange) : u.keepPayload x v = u := by
    cases v with
    | reply r => exact absurd rfl (h r)
    | sound _ _ | lost _ | sent => rfl
  refine Eq.trans ?_ fault
  cases hx : (s.recordFault v).xchg tag with
  | none => rw [State.report, State.applyVerdict, hx]
  | some x =>
    by_cases onLine : x.state = .onLine
    · rw [State.report, applyVerdict_eq v hx onLine, endStep_store, movedBy_store, payload]
    · rw [State.report, State.applyVerdict, hx]
      exact congrArg State.store (if_neg onLine)

/-! ## The attention flags (R102 to R104) -/

theorem xchg_readySign (s : State) (n : Stn) (own : Option Tag) (t' : Tag) : (s.readySign n own).xchg t' =
    (s.xchg t').map fun x => if (s.entry n).state.known = true ∧ x.dest = .station n ∧ x.state = .parked ∧ some t' ≠ own then
      { x with state := .waiting } else x := by
  cases st : (s.entry n).state <;> simp [State.readySign, st, StnState.known]

theorem entry_readySign (s : State) (n : Stn) (own : Option Tag) : (s.readySign n own).entry n =
    { s.entry n with keptReady := (s.entry n).keptReady || (s.entry n).state.kept } := by
  cases kept : (s.entry n).state.kept with
  | true => rw [readySign_kept kept, entry_modEntry, if_pos rfl, Bool.or_true]
  | false =>
    rw [Bool.or_false]
    unfold State.readySign
    split <;> rename_i st <;> rw [st] at kept <;> first | rfl | cases kept

theorem entry_eventSign (s : State) (n : Stn) : (s.eventSign n).entry n =
    { s.entry n with
      eventPending := (s.entry n).eventPending || ((s.entry n).state.known || (s.entry n).state.kept) } := by
  cases in' : ((s.entry n).state.known || (s.entry n).state.kept) with
  | true => rw [eventSign_in (Bool.or_eq_true_iff.mp in'), entry_modEntry, if_pos rfl, Bool.or_true]
  | false =>
    obtain ⟨known, kept⟩ := Bool.or_eq_false_iff.mp in'
    rw [(signs_out known kept none).2, Bool.or_false]

/-- The records after the attention flags: READY wakes the station's other PARKED exchanges. -/
theorem xchg_takeAttention (s : State) (n : Stn) (own : Tag) {v : Verdict} {h : ReplyHead} (head : v.head = some h) (t' : Tag) :
    (s.takeAttention n own v).xchg t' = (s.xchg t').map fun x =>
      if h.attReady = true ∧ (s.entry n).state.known = true ∧ x.dest = .station n ∧ x.state = .parked ∧ t' ≠ own then
        { x with state := .waiting } else x := by
  have event (u : State) : ((if h.attEvent then u.eventSign n else u)).xchg t' = u.xchg t' := by
    split
    · exact xchg_of_table (eventSign_table u n) t'
    · rfl
  simp only [State.takeAttention, head, event]
  cases h.attReady with
  | false => simp
  | true => simp [xchg_readySign]

/-- The entry after the attention flags. -/
theorem entry_takeAttention (s : State) (n : Stn) (own : Tag) {v : Verdict} {h : ReplyHead} (head : v.head = some h) :
    (s.takeAttention n own v).entry n = { s.entry n with
      keptReady := (s.entry n).keptReady || (h.attReady && (s.entry n).state.kept)
      eventPending := (s.entry n).eventPending || (h.attEvent && ((s.entry n).state.known || (s.entry n).state.kept)) } := by
  simp only [State.takeAttention, head]
  cases h.attReady <;> cases h.attEvent <;> simp [entry_readySign, entry_eventSign]

/-! ## A sound reply of the recorded epoch -/

/-- The directory's part of a sound reply of the recorded epoch to an exchange that is not the directory's. -/
theorem directoryActs_sound {s : State} {n : Stn} {own : Tag} {x : Exchange} {m : Move} {v : Verdict} {h : ReplyHead}
    (head : v.head = some h) (epoch : (s.entry n).epoch = some h.epoch) (kind : x.kind.internalKind = false) :
    s.directoryActs n own x m v =
      (if m.purges then ((s.heardFrom n).setSeqBit n x false v).setPurge n
        else (s.heardFrom n).setSeqBit n x false v).takeAttention n own v := by
  have restart : s.showsRestart n v = false := showsRestart_same head epoch
  have take : s.takeRestart n own x v = s := by rw [State.takeRestart, restart]; rfl
  have counts : v.counts = false := by cases v <;> first | rfl | cases head
  have quiet (u : State) : u.thresholdSilent n v = false := by rw [State.thresholdSilent, counts]; rfl
  have acts : s.ownerActs n own x false m v = s ∧ s.ownSilent n x m v = false ∧ ∀ u : State, u.censusDone x m = u := by
    cases m with
    | stays y => exact ⟨rfl, rfl, fun _ => rfl⟩
    | complete c p => exact acts_external kind c p
  obtain ⟨owner, silent, done⟩ := acts
  simp only [State.directoryActs, take, restart, owner, silent, done, quiet, countOutcome_sound s n head]
  rfl

end Sys2Proof.Machine
end

section
/-! PROOF. The line after a reply, and what its attention flags do. -/

namespace Sys2Proof.Machine

open Relation (ReflTransGen)

/-! ## The line -/

theorem exec_replyReceived_early {s : State} {tag : Tag} {ph : Phase} {q : ReqKind} {x : Exchange} {bytes : List Byte}
    (st : s.line.state = .receiving) (settling : s.line.settling = false) (job : s.line.job = some (.attempt tag ph q))
    (hx : s.xchg tag = some x) (judged : judgeReply tag x bytes = .early) :
    exec (.replyReceived bytes) s = .next { s with line := { s.line with settling := true } } := by
  show execReplyReceived bytes s = _
  simp only [execReplyReceived, st, settling, job, hx, judged]

theorem lineAfterReply_settling (s : State) (v : Verdict) : (s.lineAfterReply v).line.settling = false := by
  unfold State.lineAfterReply
  split <;> rfl

theorem lineAfterReply_sound (s : State) (k : FaultKind) (h : ReplyHead) : s.lineAfterReply (.sound k h) =
    { s.enterGuard with line.faultCount := 0 } := rfl

/-- The line-fault count at its limit (R77). -/
theorem lineFault_edge (s : State) (k : BreakKind) (c : BreakCause) :
    ((s.raise causeLineFault).enterBreak k c).irq.edge.getLsbD 5 = true := by
  have bit : causeLineFault.getLsbD 5 = true := by decide
  show (s.irq.edge ||| causeLineFault).getLsbD 5 = true
  rw [BitVec.getLsbD_or, bit, Bool.or_true]

/-! ## PARKED exchanges -/

/-- A PARKED exchange in the COLLECT phase is no concern of a stopping channel. -/
theorem Stop.parked_star {x y : Exchange} (h : ReflTransGen Stop x y) (parked : x.state = .parked) : y = x := by
  induction h with
  | refl => rfl
  | tail _ step ih =>
    subst ih
    cases step with
    | cancel _ state => rcases state with e | e <;> rw [parked] at e <;> cases e
    | mark m => exact if_neg fun h => by rw [parked] at h; cases h.1

theorem parked_applyMove {s : State} {tag t' : Tag} {y : Exchange} (m : Move × Exchange) (other : t' ≠ tag)
    (hy : s.xchg t' = some y) (parked : y.state = .parked) : (s.applyMove tag m).xchg t' = some y := by
  obtain ⟨m, z⟩ := m
  cases m with
  | stays w =>
    show (s.setXchg tag (some w)).xchg t' = some y
    rw [xchg_setXchg, if_neg other, hy]
  | complete c p =>
    have step := (reacts_stopOnFailures (s.completed tag z c)).xchg t'
    rw [xchg_completed, if_neg other, hy] at step
    show (s.completed tag z c).stopOnFailures.xchg t' = some y
    generalize (s.completed tag z c).stopOnFailures.xchg t' = b at step
    cases step with
    | some step => rw [Stop.parked_star step parked]

theorem xchg_endStep_open {s before : State} {tag : Tag} {x : Exchange} (hx : s.xchg tag = some x)
    (open' : x.state ≠ .complete) : (s.endStep before).xchg tag = some x := by
  have going : s.newlyDone before tag = false := by
    rw [State.newlyDone, hx]
    simp [open']
  rw [xchg_endStep, State.retiresNow, going, hx]
  rfl

theorem recordFault_eq (s : State) (v : Verdict) :
    ∃ f, s.recordFault v = { s with line := { s.line with lastFault := f } } := by
  unfold State.recordFault
  split
  · exact ⟨_, rfl⟩
  · exact ⟨s.line.lastFault, rfl⟩

/-- The entry after a sound reply has been counted and the bit and the purge-needed mark are set. -/
def State.soundEntry (s : State) (n : Stn) (x : Exchange) (m : Move) (v : Verdict) : State :=
  if m.purges then ((s.heardFrom n).setSeqBit n x false v).setPurge n else (s.heardFrom n).setSeqBit n x false v

theorem soundEntry_table (s : State) (n : Stn) (x : Exchange) (m : Move) (v : Verdict) :
    (s.soundEntry n x m v).table = s.table := by
  have bit : ((s.heardFrom n).setSeqBit n x false v).table = s.table := setSeqBit_table _ n x false v
  unfold State.soundEntry
  split
  · rw [(onlyDir_setPurge _ n).table, bit]
  · exact bit

/-- Those steps leave the station in the same class for signs, and its marks of READY and EVENT alone. -/
theorem soundEntry_signs (s : State) (n : Stn) (x : Exchange) (m : Move) (v : Verdict) :
    ((s.soundEntry n x m v).entry n).state.known = (s.entry n).state.known ∧
    ((s.soundEntry n x m v).entry n).state.kept = (s.entry n).state.kept ∧
    ((s.soundEntry n x m v).entry n).keptReady = (s.entry n).keptReady ∧
    ((s.soundEntry n x m v).entry n).eventPending = (s.entry n).eventPending := by
  have bit : ∃ b, ((s.heardFrom n).setSeqBit n x false v).entry n = { (s.heardFrom n).entry n with seqBit := b } := by
    unfold State.setSeqBit
    split
    · exact ⟨_, by rw [entry_modEntry, if_pos rfl]⟩
    · exact ⟨_, rfl⟩
  have marked : ∃ b p u, (s.soundEntry n x m v).entry n =
      { (s.heardFrom n).entry n with seqBit := b, purgeNeeded := p, seqUncertain := u } := by
    obtain ⟨b, e⟩ := bit
    unfold State.soundEntry
    split
    · obtain ⟨u, p, _, _, e'⟩ := (reacts_setPurge (R := Stop) ((s.heardFrom n).setSeqBit n x false v) n).entry n
      exact ⟨b, p, u, by rw [e', e]⟩
    · exact ⟨b, _, _, e⟩
  obtain ⟨b, p, u, e⟩ := marked
  rw [e, entry_heardFrom, if_pos rfl]
  refine ⟨?_, ?_, rfl, rfl⟩ <;>
  · dsimp only
    split
    · rename_i st
      rw [st]
      rfl
    · rfl

theorem known_iff (st : StnState) : st.known = true ↔ st = .present ∨ st = .suspect ∨ st = .resync := by
  cases st <;> simp [StnState.known]

theorem kept_iff (st : StnState) : st.kept = true ↔ st = .held ∨ st = .recovering := by
  cases st <;> simp [StnState.kept]

/-- Settles O37: the report and then the line by its rule; for the flags, the directory's part of a reply of the recorded
epoch ends with the signs, which no later step undoes. -/
theorem lineAfterAReply : Obligations.LineAfterAReply := by
  constructor
  · intro s tag ph q x n bytes st settling job hx dest
    refine ⟨exec_replyReceived_early st settling job hx, fun v judged => ⟨_, exec_replyReceived st settling job hx judged, ?_⟩⟩
    have only := lineOnly_lineAfterReply (s.report tag v) v
    have outer := report_outer s tag v
    have still := lineAfterReply_settling (s.report tag v) v
    have store := report_store s tag (v := v)
    have attempt {k : FaultKind} (h : v.fault = some k) : s.recordFault v = s.faulted k (.station n) tag := by
      rw [recordFault_attempt job hx h, dest]
    obtain ⟨f, fault⟩ := recordFault_eq s v
    have line : (s.report tag v).line = (s.recordFault v).line := congrArg Outer.line outer
    have regs : (s.report tag v).regs = s.regs := (congrArg Outer.regs outer).trans (by rw [fault]; rfl)
    rw [fault] at outer
    generalize s.report tag v = u at only outer still store line regs ⊢
    have o := only.outer.trans outer
    have lineF : u.line = { s.line with lastFault := f } := congrArg Outer.line outer
    refine ⟨only.job, only.txFrame, still, only.rate.trans (by rw [lineF]), only.readyPending.trans (by rw [lineF]),
      only.frameWhole.trans (by rw [lineF]), congrArg Outer.regs o, congrArg Outer.sweep o, congrArg Outer.pointer o,
      congrArg Outer.portLast o, congrArg Outer.bus o, congrArg Outer.views o, congrArg Outer.enable o,
      congrArg Outer.rediscovery o, ?reply, ?sound, ?counted, ?wrong⟩
    case reply =>
      rintro ⟨r, rfl⟩
      rw [recordFault_none rfl] at line
      exact ⟨only.lastFault.trans (by rw [line]), rfl, rfl, congrArg (fun r : Regs => some r.guardTime) regs⟩
    case sound =>
      rintro k h rfl
      exact ⟨rfl, rfl, store nofun, only.lastFault.trans (by rw [line, attempt rfl]; rfl)⟩
    case counted =>
      have both {k : FaultKind} (hk : k = .crc ∨ k = .framing) (e : v = .lost k) :
          (u.lineAfterReply v).line.lastFault = some { kind := k, station := stnField n, tag := tag } ∧
          (s.line.faultCount + 1 < s.regs.lineFaultLimit →
            (u.lineAfterReply v).line.state = .guard ∧ (u.lineAfterReply v).line.faultCount = s.line.faultCount + 1 ∧
              (u.lineAfterReply v).store = s.store) ∧
          (s.regs.lineFaultLimit ≤ s.line.faultCount + 1 →
            (u.lineAfterReply v).line.state = .break ∧ (u.lineAfterReply v).line.breakKind = some .short ∧
              (u.lineAfterReply v).line.breakCause = some .lineFault ∧ (u.lineAfterReply v).line.faultCount = 0 ∧
              (u.lineAfterReply v).line.timer = some 32 ∧ (u.lineAfterReply v).irq.edge.getLsbD 5 = true ∧
              (u.lineAfterReply v).store = s.store) := by
        subst e
        refine ⟨only.lastFault.trans (by rw [line, attempt rfl]; rfl), fun below => ?_, fun limit => ?_⟩
        · rw [lineAfterReply_counted u hk, regs, lineF, if_neg (Nat.not_le.mpr below)]
          exact ⟨rfl, rfl, store nofun⟩
        · rw [lineAfterReply_counted u hk, regs, lineF, if_pos limit]
          exact ⟨rfl, rfl, rfl, rfl, rfl, lineFault_edge u _ _, store nofun⟩
      rintro (e | e)
      · obtain ⟨last, rest⟩ := both (.inl rfl) e
        exact ⟨⟨_, e, last⟩, rest⟩
      · obtain ⟨last, rest⟩ := both (.inr rfl) e
        exact ⟨⟨_, e, last⟩, rest⟩
    case wrong =>
      rintro rfl
      exact ⟨rfl, rfl, store nofun, only.lastFault.trans (by rw [line, attempt rfl]; rfl)⟩
  · intro s tag ph q x n bytes v h st settling job hx onLine dest kind judged sound epoch heardIn known kept
    have external : x.kind.internalKind = false := by rcases kind with e | e | e <;> rw [e] <;> rfl
    have head : v.head = some h := by
      rcases sound with ⟨r, rfl, rfl⟩ | ⟨k, rfl⟩ <;> rfl
    refine ⟨_, exec_replyReceived st settling job hx judged, ?_⟩
    have only := lineOnly_lineAfterReply (s.report tag v) v
    obtain ⟨f, fault⟩ := recordFault_eq s v
    rw [report_eq fault hx onLine] at only ⊢
    generalize hs' : ({ s with line := { s.line with lastFault := f } } : State) = s' at only ⊢
    have same (t' : Tag) : (s'.keepPayload x v).xchg t' = s.xchg t' := by
      rw [xchg_of_table (keepPayload_table s' x v), ← hs']
      rfl
    have entry : (s'.keepPayload x v).entry n = s.entry n := by
      rw [← hs']
      cases v <;> rfl
    obtain ⟨u, p, _, _, marked⟩ := marked_applyMove (s'.keepPayload x v) tag (s'.moveOf x v) n
    have moved : s'.movedBy tag x v = ((((s'.keepPayload x v).applyMove tag (s'.moveOf x v)).soundEntry n x
        (s'.moveOf x v).1 v)).takeAttention n tag v := by
      simp only [State.movedBy, dest]
      exact directoryActs_sound head (by rw [marked, entry]; exact epoch) external
    obtain ⟨knownSame, keptSame, ready, event⟩ := soundEntry_signs ((s'.keepPayload x v).applyMove tag (s'.moveOf x v)) n x
      (s'.moveOf x v).1 v
    have table := soundEntry_table ((s'.keepPayload x v).applyMove tag (s'.moveOf x v)) n x (s'.moveOf x v).1 v
    rw [marked, entry] at knownSame keptSame ready event
    have attention := xchg_takeAttention (((s'.keepPayload x v).applyMove tag (s'.moveOf x v)).soundEntry n x
      (s'.moveOf x v).1 v) n tag head
    have signs := entry_takeAttention (((s'.keepPayload x v).applyMove tag (s'.moveOf x v)).soundEntry n x
      (s'.moveOf x v).1 v) n tag head
    rw [← moved, knownSame, keptSame, ready, event] at signs
    rw [← moved, knownSame] at attention
    obtain ⟨d, ended⟩ := entry_endStep (s'.movedBy tag x v) s' n
    refine ⟨fun t' y other hy destY parked _ => ?woken, fun r e notReady fresh collect cancel => ?own, ?kept, ?pending⟩
    case woken =>
      have before := parked_applyMove (s'.moveOf x v) other ((same t').trans hy) parked
      have after : (s'.movedBy tag x v).xchg t' =
          some (if h.attReady = true ∧ heardIn known then { y with state := .waiting } else y) := by
        rw [attention, xchg_of_table table, before, Option.map_some]
        refine congrArg some (if_congr ?_ rfl rfl)
        simp [destY, parked, other, heardIn, known, known_iff]
      rw [xchg_of_table only.table, xchg_endStep_open after]
      split
      · simp
      · simp [parked]
    case own =>
      subst e
      have move : s'.moveOf x (.reply r) = (.stays { heard x (.reply r) with state := .parked, attempts := 0 },
          heard x (.reply r)) := by
        have cancel' : s'.cancelOf x.owner = .none := by
          rw [← hs', ← cancel]
          cases x.owner with
          | list c => cases c <;> rfl
          | window | internal => rfl
        have fresh' : (heard x (.reply r)).expired = false := fresh
        simp only [State.moveOf, outcomeMove, replyMove, notReady, fresh', cancel', cancelMove]
        simp
      have after : (s'.movedBy tag x (.reply r)).xchg tag =
          some { heard x (.reply r) with state := .parked, attempts := 0 } := by
        rw [attention, xchg_of_table table, move]
        show Option.map _ ((State.setXchg _ tag _).xchg tag) = _
        rw [xchg_setXchg, if_pos rfl, Option.map_some, if_neg (by simp)]
      exact ⟨_, (xchg_of_table only.table tag).trans (xchg_endStep_open after (by simp)), rfl⟩
    case kept =>
      have in' : (s.entry n).state.kept = decide (heardIn kept) := by
        rw [Bool.eq_iff_iff, decide_eq_true_iff, kept_iff]
        simp [heardIn, kept]
      rw [entry_of_dir only.dir, ended, signs, in']
    case pending =>
      have in' : ((s.entry n).state.known || (s.entry n).state.kept) = decide (heardIn (known ++ kept)) := by
        rw [Bool.eq_iff_iff, decide_eq_true_iff, Bool.or_eq_true, known_iff, kept_iff]
        simp [heardIn, known, kept, or_assoc]
      rw [entry_of_dir only.dir, ended, signs, in']

end Sys2Proof.Machine
end

section
/-! PROOF. LINK_RESET stage by stage: the line, the table's completions and marks, the directory, the census and the station
reset that it ends, the unknown outcomes, the channels. -/

namespace Sys2Proof.Machine

open Relation (ReflTransGen)

/-! ## The stages -/

/-- A record at a link reset (R21). -/
def Exchange.wasReset (x : Exchange) : Exchange :=
  if x.live ∧ x.state ≠ .filling then x.finish (Completion.plain .linkReset) else x.markFill .linkReset

/-- The table after a link reset, before its channels react. -/
def State.resetTable (s : State) : State :=
  (s.resetLine.completeBatch linkResetSel).mapX fun _ x => x.markFill .linkReset

/-- The census and the station reset that the reset ends are back in their lists. -/
def State.resetLists (s : State) : State :=
  (s.endedStns .stationReset).foldl State.resetToHead
    ((s.endedStns .census).foldl State.censusReset s.resetTable.resetDirectory)

/-- The unknown outcomes of a link reset, in the order in which they join the census list. -/
def State.resetUnknowns (s : State) : List Stn := rankSort s.freeCount (s.uncertainStns linkResetSel)

/-- The directory after a link reset. -/
def State.resetOutcomes (s : State) : State := s.resetUnknowns.foldl State.noteUnknown s.resetLists

/-- The channels after a link reset. -/
def State.resetChannels (s : State) : State := (s.resetOutcomes.resetChannel .A).resetChannel .B

theorem linkWasReset_eq (s : State) : s.linkWasReset = s.resetChannels.endStep s := rfl

theorem exec_linkReset_accepted {s : State} {f : CmdFields} (on : s.line.state ≠ .off)
    (short : ¬(s.line.state = .break ∧ s.line.breakKind = some .long)) :
    exec (.linkReset f) s = .next (s.linkWasReset.command .accepted 0x03 f) := by
  show execLinkReset f s = _
  rw [execLinkReset, if_neg on, if_neg short]

/-! ## Records -/

/-- A fill end mark stands unless an earlier one does (R18). -/
theorem markFill_filling {x : Exchange} (filling : x.state = .filling) (m : FillMark) :
    x.markFill m = { x with fillEnd := if x.fillEnd = none then some m else x.fillEnd } := by
  rw [Exchange.markFill]
  cases mark : x.fillEnd with
  | none => rw [if_pos ⟨filling, rfl⟩]; rfl
  | some k =>
    have same : (if x.fillEnd = none then some m else x.fillEnd) = x.fillEnd := if_neg (by simp [mark])
    rw [if_neg (by simp), ← mark, same]

theorem afterSel_linkResetSel (tag : Tag) (x : Exchange) :
    (afterSel linkResetSel tag x).markFill .linkReset = x.wasReset := by
  unfold afterSel linkResetSel Exchange.wasReset
  split
  · rename_i h
    split at h
    · cases h
    · rename_i k
      rw [if_neg k]
  · rename_i h
    split at h
    · rename_i k
      cases h
      rw [if_pos k]
      rfl
    · cases h

theorem xchg_resetTable (s : State) (tag : Tag) : s.resetTable.xchg tag = (s.xchg tag).map Exchange.wasReset := by
  have line : s.resetLine.xchg tag = s.xchg tag := rfl
  rw [State.resetTable, xchg_mapX, xchg_completeBatch, line, Option.map_map]
  exact congrArg (fun f => (s.xchg tag).map f) (funext fun x => afterSel_linkResetSel tag x)

/-- The record is finished, or its fill has an end mark: stopping a channel leaves it alone. -/
def Exchange.settled (x : Exchange) : Prop := x.live = false ∨ x.state = .filling ∧ x.fillEnd ≠ none

theorem wasReset_settled (x : Exchange) : x.wasReset.settled := by
  unfold Exchange.wasReset
  split
  · exact .inl rfl
  · rename_i h
    unfold Exchange.markFill
    split
    · rename_i k
      exact .inr ⟨k.1, by simp⟩
    · rename_i k
      by_cases live : x.live = true
      · have filling : x.state = .filling := by_contra fun e => h ⟨live, e⟩
        exact .inr ⟨filling, fun e => k ⟨filling, e⟩⟩
      · exact .inl (by simpa using live)

theorem Exchange.settled.stop {x y : Exchange} (h : x.settled) (k : Stop x y) : y = x := by
  rcases h with h | ⟨filling, mark⟩
  · exact k.live h
  · cases k with
    | cancel _ state => rw [filling] at state; rcases state with s | s <;> cases s
    | mark m => rw [Exchange.markFill, if_neg fun e => mark e.2]

theorem Exchange.settled.stops {x y : Exchange} (h : x.settled) (k : ReflTransGen Stop x y) : y = x := by
  induction k with
  | refl => rfl
  | tail _ step ih => subst ih; exact h.stop step

theorem onlyDir_resetToHead (s : State) (n : Stn) : OnlyDir s (s.resetToHead n) := by
  unfold State.resetToHead
  split <;> rfl

theorem onlyDir_resetDirectory (s : State) : OnlyDir s s.resetDirectory := by
  have noted (l : List Stn) : OnlyDir s (l.foldl State.noteChange (s.mapEntries fun _ e => e.linkReset)) :=
    (onlyDir_mapEntries s _).trans (.foldl onlyDir_noteChange l _)
  exact (noted _).trans rfl

theorem onlyDir_censusReset (s : State) (n : Stn) : OnlyDir s (s.censusReset n) :=
  (onlyDir_modEntry s n _).trans (onlyDir_censusToHead _ n)

theorem onlyDir_resetOutcomes (s : State) : OnlyDir s.resetTable s.resetOutcomes :=
  (onlyDir_resetDirectory s.resetTable).trans
    ((OnlyDir.foldl onlyDir_censusReset _ _).trans
      ((OnlyDir.foldl onlyDir_resetToHead _ _).trans (OnlyDir.foldl onlyDir_noteUnknown _ _)))

theorem xchg_resetOutcomes (s : State) (tag : Tag) : s.resetOutcomes.xchg tag = (s.xchg tag).map Exchange.wasReset :=
  ((onlyDir_resetOutcomes s).xchg tag).trans (xchg_resetTable s tag)

/-- The channels' reaction to a link reset leaves settled records alone. -/
theorem xchg_resetChannel {s : State} (settled : ∀ tag x, s.xchg tag = some x → x.settled) (c : Chan) (tag : Tag) :
    (s.resetChannel c).xchg tag = s.xchg tag := by
  have step := (reacts_resetChannel s c).xchg tag
  cases hx : s.xchg tag with
  | none =>
    rw [hx] at step
    generalize (s.resetChannel c).xchg tag = o at step ⊢
    cases step
    rfl
  | some x =>
    rw [hx] at step
    generalize (s.resetChannel c).xchg tag = o at step ⊢
    cases step with
    | some step => rw [(settled tag x hx).stops step]

theorem resetOutcomes_settled (s : State) : ∀ tag y, s.resetOutcomes.xchg tag = some y → y.settled := by
  intro tag y hy
  rw [xchg_resetOutcomes] at hy
  obtain ⟨x, _, rfl⟩ := Option.map_eq_some_iff.mp hy
  exact wasReset_settled x

theorem xchg_resetChannels (s : State) (tag : Tag) : s.resetChannels.xchg tag = (s.xchg tag).map Exchange.wasReset := by
  have first := xchg_resetChannel (resetOutcomes_settled s) .A
  have second : ∀ t' y, (s.resetOutcomes.resetChannel .A).xchg t' = some y → y.settled :=
    fun t' y hy => resetOutcomes_settled s t' y (by rwa [first] at hy)
  rw [State.resetChannels, xchg_resetChannel second, first, xchg_resetOutcomes]

theorem wasReset_complete (x : Exchange) (open' : x.state ≠ .complete) :
    (x.wasReset.state == .complete) = (x.live && x.state != .filling) := by
  unfold Exchange.wasReset
  split
  · rename_i h
    simp [Exchange.finish, h.1, h.2]
  · rename_i h
    have stays : (x.markFill .linkReset).state = x.state := by
      unfold Exchange.markFill
      split <;> rfl
    rw [stays, beq_false_of_ne open']
    simpa using h

theorem wasReset_of_done {x : Exchange} (done : x.live = false) : x.wasReset = x := by
  have off : x.state ≠ .filling := fun e => by simp [Exchange.live, e] at done
  rw [Exchange.wasReset, if_neg (by simp [done]), Exchange.markFill, if_neg fun h => off h.1]

theorem newlyDone_resetChannels {s : State} {tag : Tag} {x : Exchange} (hx : s.xchg tag = some x) :
    s.resetChannels.newlyDone s tag = (x.live && x.state != .filling) := by
  rw [State.newlyDone, xchg_resetChannels, hx, Option.map_some, Option.any_some, Option.any_some]
  by_cases done : x.state = .complete
  · simp [Exchange.live, done]
  · rw [wasReset_complete x done, beq_false_of_ne done, Bool.not_false, Bool.and_true]

theorem xchg_linkWasReset {s : State} {tag : Tag} {x : Exchange} (hx : s.xchg tag = some x) :
    s.linkWasReset.xchg tag = if x.live && x.state != .filling && x.retiredAtOnce then none else some x.wasReset := by
  have same : (s.resetChannels.xchg tag).any Exchange.retiredAtOnce = x.retiredAtOnce := by
    rw [xchg_resetChannels, hx]
    refine retiredAtOnce_of (x := x) ?_
    unfold Exchange.wasReset
    split
    · exact ⟨rfl, rfl, rfl, rfl, rfl, rfl, rfl, rfl⟩
    · exact sameRequest_markFill x _
  rw [linkWasReset_eq, xchg_endStep, State.retiresNow, newlyDone_resetChannels hx, same, xchg_resetChannels, hx,
    Option.map_some]

theorem xchg_linkWasReset_none {s : State} {tag : Tag} (hx : s.xchg tag = none) : s.linkWasReset.xchg tag = none := by
  rw [linkWasReset_eq, xchg_endStep, xchg_resetChannels, hx, Option.map_none, ite_self]

/-! ## The blocks around them -/

theorem resetToHead_outer (s : State) (n : Stn) : (s.resetToHead n).outer = s.outer := by
  unfold State.resetToHead
  split <;> rfl

theorem censusReset_outer (s : State) (n : Stn) : (s.censusReset n).outer = s.outer :=
  censusToHead_outer _ n

theorem resetDirectory_outer (s : State) : s.resetDirectory.outer = s.outer :=
  foldl_outer (f := State.noteChange) (fun _ _ => rfl) (allStns.filter fun n => (s.entry n).state == .suspect || (s.entry n).state == .resync)
    (s.mapEntries fun _ e => e.linkReset)

theorem resetChannel_outer (s : State) (c : Chan) : (s.resetChannel c).outer = s.outer := (reacts_resetChannel s c).outer

theorem linkWasReset_outer (s : State) : s.linkWasReset.outer = s.resetLine.outer := by
  have outcomes : s.resetOutcomes.outer = s.resetLine.outer :=
    (foldl_outer noteUnknown_outer _ _).trans ((foldl_outer resetToHead_outer _ _).trans
      ((foldl_outer censusReset_outer _ _).trans (resetDirectory_outer _)))
  rw [linkWasReset_eq, endStep_outer, State.resetChannels, resetChannel_outer, resetChannel_outer, outcomes]

/-- Settles O9: the outer blocks are those of `resetLine`; a record is settled by the reset, so the channels leave it. -/
theorem linkResetLineAndRecords : Obligations.LinkResetLineAndRecords := by
  constructor
  · refine fun f s => ⟨fun off => ?_, fun st long => ?_, fun on short => ?_⟩
    · show execLinkReset f s = _
      rw [execLinkReset, if_pos off]
    · show execLinkReset f s = _
      rw [execLinkReset, if_neg (by simp [st]), if_pos ⟨st, long⟩]
    · have o := linkWasReset_outer s
      have timer : loadKbt s.regs.sweepInterval = if s.regs.sweepInterval = 0 then none else
          some (s.regs.sweepInterval * 1024) := loadKbt_eq _
      refine ⟨_, exec_linkReset_accepted on short, congrArg Outer.line o, ?sweep, congrArg Outer.store o,
        congrArg Outer.pointer o, congrArg Outer.portLast o, congrArg Outer.events o, congrArg Outer.enable o,
        congrArg Outer.views o, congrArg Outer.rediscovery o, ?regs⟩
      case sweep =>
        rw [← timer]
        exact congrArg Outer.sweep o
      case regs =>
        exact congrArg (fun r : Regs => { r with commandStatus := commandStatusWord .accepted 0x03 f }) (congrArg Outer.regs o)
  · intro f s on short
    refine ⟨_, exec_linkReset_accepted on short, fun tag hx => (xchg_command _ _ _ _ _).trans (xchg_linkWasReset_none hx),
      fun tag x hx => ?_⟩
    rw [xchg_command, xchg_linkWasReset hx]
    refine ⟨fun done => ?done, fun filling => ?filling, fun live st own => ?retired, fun live st own => ?kept⟩
    case done =>
      have ended : x.live = false := by rcases done with e | e <;> simp [Exchange.live, e]
      simp [ended, wasReset_of_done ended]
    case filling =>
      rw [if_neg (by simp [filling]), Exchange.wasReset, if_neg fun h => h.2 filling, markFill_filling filling]
    case retired =>
      have once : x.retiredAtOnce = true := by
        rcases own with e | ⟨e, kind⟩ <;> simp [Exchange.retiredAtOnce, *]
      rw [if_pos (by simp [live, st, once])]
    case kept =>
      have stays : x.retiredAtOnce = false := by
        rcases own with ⟨c, e⟩ | ⟨e, kind⟩ <;> simp [Exchange.retiredAtOnce, *]
      rw [if_neg (by simp [stays]), Exchange.wasReset, if_pos ⟨live, st⟩]
      rfl

end Sys2Proof.Machine
end

section
/-! PROOF. LINK_RESET on the directory and the channels: the entries and the lists stage by stage, and what the channels'
reaction leaves of both. -/

namespace Sys2Proof.Machine

open Relation (ReflTransGen)

/-! ## A step of no cancellation leaves the directory alone -/

theorem dir_cancelIssue {s : State} {c : Chan} (none' : ∀ tag x, s.xchg tag = some x → cancelSel c tag x = none) :
    (s.cancelIssue c).dir = s.dir := by
  have sure : s.uncertainStns (cancelSel c) = [] := List.eq_nil_iff_forall_not_mem.mpr fun n mem => by
    obtain ⟨tag, x, hx, sel, _⟩ := mem_uncertainStns mem
    simp [none' tag x hx] at sel
  have reads : s.cancelledReadStns c = [] := List.eq_nil_iff_forall_not_mem.mpr fun n mem => by
    simp only [State.cancelledReadStns, List.mem_filterMap] at mem
    obtain ⟨tag, _, mem⟩ := mem
    split at mem
    · cases mem
    · rename_i x hx
      cases hd : x.dest <;> simp [none' tag x hx, hd] at mem
  simp only [State.cancelIssue, State.complete, sure, reads, List.foldl_nil]
  rfl

theorem cancelSel_of_settled {x : Exchange} (h : x.settled) (c : Chan) (tag : Tag) : cancelSel c tag x = none := by
  rw [cancelSel, if_neg]
  rintro ⟨_, _, state⟩
  rcases h with h | ⟨h, _⟩ <;> rcases state with e | e <;> simp [Exchange.live, e] at h

theorem dir_settleCancel (s : State) (c : Chan) : (s.settleCancel c).dir = s.dir := by
  obtain ⟨k, e⟩ := settleCancel_eq s c
  rw [e]
  cases c <;> rfl

theorem dir_haltIfDone (s : State) (c : Chan) : (s.haltIfDone c).dir = s.dir := by
  unfold State.haltIfDone
  split
  · cases c <;> rfl
  · rfl

theorem xchg_leaveRunning (s : State) (c : Chan) (f : Channel → Channel) (tag : Tag) :
    ((s.leaveRunning c).modChan c f).xchg tag = s.xchg tag := by
  cases c <;> rfl

theorem dir_enterStopping {s : State} (settled : ∀ tag x, s.xchg tag = some x → x.settled) (c : Chan) (k : HaltCause) :
    (s.enterStopping c k).dir = s.dir := by
  refine (dir_haltIfDone _ c).trans ((dir_settleCancel _ c).trans ((dir_cancelIssue fun tag x hx => ?_).trans ?_))
  · exact cancelSel_of_settled (settled tag x (by rwa [xchg_leaveRunning] at hx)) c tag
  · cases c <;> rfl

theorem dir_resetChannel {s : State} (settled : ∀ tag x, s.xchg tag = some x → x.settled) (c : Chan) :
    (s.resetChannel c).dir = s.dir := by
  unfold State.resetChannel
  split
  · exact dir_enterStopping settled c _
  · rfl

theorem dir_resetChannels (s : State) : s.resetChannels.dir = s.resetOutcomes.dir := by
  have first := dir_resetChannel (resetOutcomes_settled s) .A
  refine (dir_resetChannel (fun tag y hy => ?_) .B).trans first
  rw [xchg_resetChannel (resetOutcomes_settled s) .A] at hy
  exact resetOutcomes_settled s tag y hy

/-! ## Entries -/

theorem dir_resetTable (s : State) : s.resetTable.dir = s.dir := rfl

/-- The directory as the reset begins with it: the marks, the PURGE records and the change summary. -/
theorem resetDirectory_eq (s : State) : ∃ m, s.resetDirectory = { s with dir := { s.dir with
    entries := (s.mapEntries fun _ e => e.linkReset).dir.entries
    recovery := s.dir.recovery.filter fun r => r.2 != .purge
    changes := m } } ∧
    ∀ n, maskHas m n = true ↔ (s.entry n).state = .suspect ∨ (s.entry n).state = .resync ∨ maskHas s.dir.changes n = true := by
  obtain ⟨m, e, mask⟩ := noteChange_foldl (s.mapEntries fun _ e => e.linkReset)
    (allStns.filter fun n => (s.entry n).state == .suspect || (s.entry n).state == .resync)
  refine ⟨m, by rw [State.resetDirectory, e]; rfl, fun n => ?_⟩
  have old : (s.mapEntries fun _ e => e.linkReset).dir.changes = s.dir.changes := rfl
  rw [mask, old]
  simp only [Bool.or_eq_true, List.contains_iff_mem, List.mem_filter, mem_allStns, true_and, beq_iff_eq]
  tauto

theorem entry_resetDirectory (s : State) (n : Stn) : s.resetDirectory.entry n = (s.entry n).linkReset := by
  obtain ⟨m, e, _⟩ := resetDirectory_eq s
  have entries : s.resetDirectory.dir.entries = (s.mapEntries fun _ e => e.linkReset).dir.entries := by rw [e]
  rw [entry_of_entries entries, entry_mapEntries]

theorem entry_resetToHead (s : State) (n m : Stn) : (s.resetToHead n).entry m = s.entry m := by
  unfold State.resetToHead
  split <;> rfl

theorem entry_censusToHead (s : State) (n m : Stn) : (s.censusToHead n).entry m = s.entry m := by
  unfold State.censusToHead
  split <;> rfl

theorem entry_censusReset (s : State) (n m : Stn) : (s.censusReset n).entry m = if m = n then
    { s.entry n with lastCensus := some { status := .linkReset, stationFault := false } } else s.entry m := by
  rw [State.censusReset, entry_censusToHead, entry_modEntry]

theorem entry_censusResets (l : List Stn) (s : State) (n : Stn) : (l.foldl State.censusReset s).entry n = { s.entry n with
    lastCensus := if n ∈ l then some { status := .linkReset, stationFault := false } else (s.entry n).lastCensus } := by
  induction l generalizing s with
  | nil => rw [List.foldl_nil, if_neg List.not_mem_nil]
  | cons a l ih =>
    rw [List.foldl_cons, ih, entry_censusReset]
    by_cases h : n = a
    · subst h
      simp
    · simp [h]

theorem entry_foldl {α : Type} {f : State → α → State} {n : Stn} (h : ∀ s a, (f s a).entry n = s.entry n) (l : List α)
    (s : State) : (l.foldl f s).entry n = s.entry n := by
  induction l generalizing s with
  | nil => rfl
  | cons a l ih => exact (ih _).trans (h s a)

theorem entry_resetLists (s : State) (n : Stn) : s.resetLists.entry n = { (s.entry n).linkReset with
    lastCensus := if n ∈ s.endedStns .census then some { status := .linkReset, stationFault := false }
      else (s.entry n).lastCensus } := by
  have first : s.resetTable.resetDirectory.entry n = (s.entry n).linkReset := entry_resetDirectory s.resetTable n
  rw [State.resetLists, entry_foldl fun u a => entry_resetToHead u a n, entry_censusResets, first]
  rfl

theorem entry_resetChannels (s : State) (n : Stn) : s.resetChannels.entry n = { s.resetLists.entry n with
    seqUncertain := (s.entry n).seqUncertain || s.resetUnknowns.contains n } := by
  have same : (s.resetLists.entry n).seqUncertain = (s.entry n).seqUncertain := by
    rw [entry_resetLists]
    rfl
  rw [entry_of_dir (dir_resetChannels s), State.resetOutcomes, entry_noteUnknowns, same]

/-! ## The stations of the exchanges that end -/

theorem mem_endedStns {s : State} {k : Kind} {n : Stn} : n ∈ s.endedStns k ↔
    ∃ tag x, s.xchg tag = some x ∧ x.kind = k ∧ x.live = true ∧ x.dest = .station n := by
  simp only [State.endedStns, List.mem_filterMap, mem_allTags, true_and]
  refine exists_congr fun tag => ?_
  cases s.xchg tag with
  | none => simp
  | some x => cases hd : x.dest <;> simp [hd, and_assoc]

theorem filterMap_one {α β : Type} {f : α → Option β} {a : α} {b : β} {l : List α} (nodup : l.Nodup) (mem : a ∈ l)
    (own : f a = some b) (others : ∀ a' ∈ l, a' ≠ a → f a' = none) : l.filterMap f = [b] := by
  have none' {m : List α} (sub : ∀ a' ∈ m, a' ∈ l) (fresh : a ∉ m) : m.filterMap f = [] :=
    List.filterMap_eq_nil_iff.mpr fun a' h => others a' (sub a' h) fun e => fresh (e ▸ h)
  obtain ⟨l₁, l₂, rfl⟩ := List.append_of_mem mem
  have fresh := List.nodup_middle.mp nodup
  rw [List.nodup_cons, List.mem_append, not_or] at fresh
  rw [List.filterMap_append, List.filterMap_cons_some own, none' (fun _ h => List.mem_append_left _ h) fresh.1.1,
    none' (fun _ h => List.mem_append_right _ (List.mem_cons_of_mem _ h)) fresh.1.2, List.nil_append]

/-- Of records of which there is at most one, two are the same. -/
theorem tag_eq_of_countX {s : State} {p : Exchange → Bool} (one : s.countX p ≤ 1) {t₁ t₂ : Tag} {x y : Exchange}
    (hx : s.xchg t₁ = some x) (hy : s.xchg t₂ = some y) (px : p x = true) (py : p y = true) : t₁ = t₂ := by
  rw [State.countX, List.countP_eq_length_filter] at one
  have mem {tag : Tag} {z : Exchange} (hz : s.xchg tag = some z) (pz : p z = true) :
      tag ∈ allTags.filter fun t => (s.xchg t).any p := List.mem_filter.mpr ⟨mem_allTags tag, by simp [hz, pz]⟩
  have first := mem hx px
  have second := mem hy py
  generalize allTags.filter (fun t => (s.xchg t).any p) = l at one first second
  match l with
  | [] => cases first
  | [a] => rw [List.mem_singleton.mp first, List.mem_singleton.mp second]
  | _ :: _ :: _ => simp at one

theorem endedStns_nil {s : State} {k : Kind} (h : ∀ tag x, s.xchg tag = some x → x.kind = k → x.live = false) :
    s.endedStns k = [] := List.eq_nil_iff_forall_not_mem.mpr fun n mem => by
  obtain ⟨tag, x, hx, kind, live, _⟩ := mem_endedStns.mp mem
  rw [h tag x hx kind] at live
  cases live

theorem endedStns_one {s : State} {k : Kind} {p : Exchange → Bool} (one : s.countX p ≤ 1)
    (of_kind : ∀ x : Exchange, x.kind = k → p x = true) {tag : Tag} {x : Exchange} {n : Stn} (hx : s.xchg tag = some x)
    (kind : x.kind = k) (live : x.live = true) (dest : x.dest = .station n) : s.endedStns k = [n] := by
  refine filterMap_one allTags_nodup (mem_allTags tag) ?_ fun t' _ other => ?_
  · simp [hx, kind, live, dest]
  · cases hy : s.xchg t' with
    | none => rfl
    | some y =>
      have off : y.kind ≠ k := fun e => other (tag_eq_of_countX one hy hx (of_kind y e) (of_kind x kind))
      cases hd : y.dest <;> simp [hd, off]

/-! ## The stations of unknown outcomes -/

theorem mem_uncertainStns_of {s : State} (lists : ListsAgree s) {sel : Sel} {tag : Tag} {x : Exchange} {n : Stn}
    (hx : s.xchg tag = some x) (hit : (sel tag x).isSome = true) (doubt : x.uncertain = true) (dest : x.dest = .station n) :
    n ∈ s.uncertainStns sel := by
  refine List.mem_filterMap.mpr ⟨tag, ?_, by simp [hx, hit, doubt, dest]⟩
  have mem := (lists.mem x.owner tag).mpr ⟨x, hx, rfl⟩
  simp only [List.mem_append]
  match h : x.owner, mem with
  | .window, mem => exact .inl (.inl (.inl mem))
  | .list .A, mem => exact .inl (.inl (.inr mem))
  | .list .B, mem => exact .inl (.inr mem)
  | .internal, mem => exact .inr mem

theorem mem_rankInsert {c : Nat} {n m : Stn} {l : List Stn} : m ∈ rankInsert c n l ↔ m = n ∨ m ∈ l := by
  induction l with
  | nil => simp [rankInsert]
  | cons a l ih =>
    unfold rankInsert
    split
    · simp
    · simp only [List.mem_cons, ih]
      tauto

theorem mem_rankSort {c : Nat} {m : Stn} {l : List Stn} : m ∈ rankSort c l ↔ m ∈ l := by
  induction l with
  | nil => simp [rankSort]
  | cons a l ih => simp [rankSort, mem_rankInsert, ih]

theorem linkResetSel_isSome {tag : Tag} {x : Exchange} : (linkResetSel tag x).isSome = true ↔
    x.live = true ∧ x.state ≠ .filling := by
  unfold linkResetSel
  split <;> simp_all

/-- The unfinished exchange has an outcome that the reset leaves unknown (R17, R47). -/
def Exchange.unknownOutcome (x : Exchange) : Prop :=
  x.live = true ∧ x.state ≠ .filling ∧ x.kind.nonIdem = true ∧ x.unanswered = true

theorem mem_resetUnknowns {s : State} (lists : ListsAgree s) {n : Stn} : n ∈ s.resetUnknowns ↔
    ∃ tag x, s.xchg tag = some x ∧ x.unknownOutcome ∧ x.dest = .station n := by
  rw [State.resetUnknowns, mem_rankSort]
  constructor
  · intro mem
    obtain ⟨tag, x, hx, sel, doubt, dest⟩ := mem_uncertainStns mem
    rw [linkResetSel_isSome] at sel
    simp only [Exchange.uncertain, Bool.and_eq_true] at doubt
    exact ⟨tag, x, hx, ⟨sel.1, sel.2, doubt⟩, dest⟩
  · rintro ⟨tag, x, hx, ⟨live, off, nonIdem, unanswered⟩, dest⟩
    exact mem_uncertainStns_of lists hx (linkResetSel_isSome.mpr ⟨live, off⟩) (by simp [Exchange.uncertain, *]) dest

/-! ## No deferral is left -/

theorem wasReset_isDeferred {s : State} (phases : PhasesAgree s) {tag : Tag} {x : Exchange} (hx : s.xchg tag = some x) :
    x.wasReset.isDeferred = false := by
  unfold Exchange.wasReset
  split
  · rfl
  · rename_i h
    have kept : (x.markFill .linkReset).isDeferred = x.isDeferred := by
      unfold Exchange.markFill
      split <;> rfl
    rw [kept]
    by_cases filling : x.state = .filling
    · simp [Exchange.isDeferred, phases.filling tag x hx filling]
    · have done : x.live = false := by
        by_contra live
        exact h ⟨by simpa using live, filling⟩
      simp [Exchange.isDeferred, done]

/-- The records that a link reset leaves. -/
theorem linkWasReset_recs {s : State} {tag : Tag} {y : Exchange} (hy : s.linkWasReset.xchg tag = some y) :
    ∃ x, s.xchg tag = some x ∧ y = x.wasReset := by
  cases hx : s.xchg tag with
  | none => rw [xchg_linkWasReset_none hx] at hy; cases hy
  | some x =>
    rw [xchg_linkWasReset hx] at hy
    split at hy
    · cases hy
    · cases hy
      exact ⟨x, rfl, rfl⟩

theorem entry_linkWasReset {s : State} (phases : PhasesAgree s) (n : Stn) : s.linkWasReset.entry n =
    { s.resetChannels.entry n with deferred := 0 } := by
  have none' : (s.resetChannels.handOver s).deferredOf n = 0 := countX_eq_zero (anyX_eq_false_iff.mpr fun tag y hy => by
    obtain ⟨x, hx, rfl⟩ := linkWasReset_recs (s := s) (tag := tag) (y := y)
      (by rw [linkWasReset_eq, State.endStep, xchg_recount]; exact hy)
    rw [wasReset_isDeferred phases hx, Bool.false_and])
  rw [linkWasReset_eq, State.endStep, entry_recount, none', entry_of_dir (dir_handOver _ _)]

/-! ## The lists -/

theorem dir_of_endStep (s before : State) : (s.endStep before).dir.census = s.dir.census ∧
    (s.endStep before).dir.recovery = s.dir.recovery ∧ (s.endStep before).dir.changes = s.dir.changes := by
  obtain ⟨es, e⟩ := dir_endStep s before
  rw [e]
  exact ⟨rfl, rfl, rfl⟩

theorem changes_foldl {α : Type} {f : State → α → State} (h : ∀ s a, (f s a).dir.changes = s.dir.changes) (l : List α)
    (s : State) : (l.foldl f s).dir.changes = s.dir.changes := by
  induction l generalizing s with
  | nil => rfl
  | cons a l ih => exact (ih _).trans (h s a)

theorem census_resetToHeads (l : List Stn) (s : State) : (l.foldl State.resetToHead s).dir.census = s.dir.census := by
  induction l generalizing s with
  | nil => rfl
  | cons a l ih =>
    refine (ih _).trans ?_
    unfold State.resetToHead
    split <;> rfl

theorem recovery_censusResets (l : List Stn) (s : State) : (l.foldl State.censusReset s).dir.recovery = s.dir.recovery := by
  induction l generalizing s with
  | nil => rfl
  | cons a l ih =>
    refine (ih _).trans ?_
    unfold State.censusReset State.censusToHead
    split <;> rfl

theorem recovery_noteUnknowns (l : List Stn) (s : State) : (l.foldl State.noteUnknown s).dir.recovery = s.dir.recovery := by
  induction l generalizing s with
  | nil => rfl
  | cons n l ih => exact (ih _).trans (recovery_noteUnknown s n)

theorem census_resetDirectory (s : State) : s.resetDirectory.dir.census = s.dir.census := by
  obtain ⟨m, e, _⟩ := resetDirectory_eq s
  rw [e]

theorem recovery_resetDirectory (s : State) : s.resetDirectory.dir.recovery = s.dir.recovery.filter fun r => r.2 != .purge := by
  obtain ⟨m, e, _⟩ := resetDirectory_eq s
  rw [e]

theorem census_linkWasReset (s : State) : s.linkWasReset.dir.census = s.resetOutcomes.dir.census := by
  rw [linkWasReset_eq, (dir_of_endStep _ s).1, dir_resetChannels]

theorem census_resetLists (s : State) : s.resetLists.dir.census =
    ((s.endedStns .census).foldl State.censusReset s.resetTable.resetDirectory).dir.census := census_resetToHeads _ _

theorem recovery_linkWasReset (s : State) : s.linkWasReset.dir.recovery = s.resetLists.dir.recovery := by
  rw [linkWasReset_eq, (dir_of_endStep _ s).2.1, dir_resetChannels, State.resetOutcomes, recovery_noteUnknowns]

/-- Without an unknown outcome the census list is the one that the reset's own census leaves. -/
theorem census_of_certain {s : State} (lists : ListsAgree s) (certain : ∀ tag x, s.xchg tag = some x → ¬x.unknownOutcome) :
    s.linkWasReset.dir.census =
      ((s.endedStns .census).foldl State.censusReset s.resetTable.resetDirectory).dir.census := by
  have none' : s.resetUnknowns = [] := List.eq_nil_iff_forall_not_mem.mpr fun n mem => by
    obtain ⟨tag, x, hx, unknown, _⟩ := (mem_resetUnknowns lists).mp mem
    exact certain tag x hx unknown
  rw [census_linkWasReset, State.resetOutcomes, none', List.foldl_nil, census_resetLists]

theorem changes_linkWasReset (s : State) (n : Stn) : maskHas s.linkWasReset.dir.changes n = true ↔
    (s.entry n).state = .suspect ∨ (s.entry n).state = .resync ∨ maskHas s.dir.changes n = true := by
  have heads (l : List Stn) (u : State) : (l.foldl State.resetToHead u).dir.changes = u.dir.changes :=
    changes_foldl (fun u a => by unfold State.resetToHead; split <;> rfl) l u
  have census (l : List Stn) (u : State) : (l.foldl State.censusReset u).dir.changes = u.dir.changes :=
    changes_foldl (fun u a => by unfold State.censusReset State.censusToHead; split <;> rfl) l u
  have unknowns (l : List Stn) (u : State) : (l.foldl State.noteUnknown u).dir.changes = u.dir.changes :=
    changes_foldl (fun u a => (reacts_noteUnknown (R := Stop) u a).changes) l u
  obtain ⟨m, e, mask⟩ := resetDirectory_eq s.resetTable
  have first : s.resetTable.resetDirectory.dir.changes = m := by rw [e]
  rw [linkWasReset_eq, (dir_of_endStep _ s).2.2, dir_resetChannels, State.resetOutcomes, unknowns, State.resetLists, heads,
    census, first]
  exact mask n

theorem recoveryOf_filtered {s : State} {n : Stn} {l : List (Stn × RecAction)} (dir : s.dir.recovery = l.filter fun r => r.2 != .purge)
    (h : ∀ r ∈ l, r.1 = n → r.2 = .purge) : s.recoveryOf n = none := by
  rw [State.recoveryOf, dir, Option.map_eq_none_iff, List.find?_eq_none]
  intro r mem own
  obtain ⟨mem, off⟩ := List.mem_filter.mp mem
  rw [beq_iff_eq] at own
  rw [h r mem own] at off
  cases off

theorem state_linkReset_disabled (e : Entry) : e.linkReset.state = .disabled ↔ e.state = .disabled := by
  unfold Entry.linkReset
  cases h : e.state <;> simp

/-! ## The channels -/

theorem chan_enterStopping_other (s : State) {c d : Chan} (k : HaltCause) (other : d ≠ c) :
    ∃ q, (s.enterStopping c k).chan d = { s.chan d with queue := q } := by
  let s1 := (s.leaveRunning c).modChan c fun ch =>
    { ch with state := .stopping, haltCause := some k, cancel := .stop, queue := cancelNops ch.queue }
  have first : s1.chan d = s.chan d := by
    rw [chan_modChan_other _ _ other, State.leaveRunning, chan_modChan_other _ _ other, chan_withdraw]
  have settled : ((s1.cancelIssue c).settleCancel c).chan d = (s1.cancelIssue c).chan d := by
    obtain ⟨m, e⟩ := settleCancel_eq (s1.cancelIssue c) c
    rw [e, chan_setChan_other _ _ other]
  have halted (u : State) : (u.haltIfDone c).chan d = u.chan d := by
    unfold State.haltIfDone
    split
    · rw [chan_raise, chan_modChan_other _ _ other]
    · rfl
  have cancelled := chan_cancelIssue s1 c d
  rw [first] at cancelled
  exact ⟨_, (halted _).trans (settled.trans cancelled)⟩

/-- What a link reset leaves of a channel (R152). -/
structure ChanReset (a b : Channel) : Prop where
  next : b.next = a.next
  head : b.head = a.head
  retired : b.retired = a.retired
  memFault : b.memFault = a.memFault
  stops : a.state.isLive = true → (b.state = .stopping ∨ b.state = .halted) ∧ b.haltCause = some .linkReset
  stays : a.state.isLive = false → b.state = a.state ∧ b.haltCause = a.haltCause

theorem chan_resetChannel_other (s : State) {c d : Chan} (other : d ≠ c) :
    ∃ q, (s.resetChannel c).chan d = { s.chan d with queue := q } := by
  unfold State.resetChannel
  split
  · exact chan_enterStopping_other s _ other
  · exact ⟨_, rfl⟩

theorem chanReset_resetChannel (s : State) (c : Chan) : ChanReset (s.chan c) ((s.resetChannel c).chan c) := by
  unfold State.resetChannel
  split
  · rename_i live
    have k := enterStopping_stopped s c .linkReset
    obtain ⟨q, _, e⟩ := k.queue
    refine ⟨k.next, k.head, k.retired, k.memFault, fun _ => ⟨?_, k.cause⟩, fun dead => ?_⟩
    · exact e.imp (·.1) (·.1)
    · rw [live] at dead
      cases dead
  · rename_i dead
    exact ⟨rfl, rfl, rfl, rfl, fun live => absurd live dead, fun _ => ⟨rfl, rfl⟩⟩

/-- Up to the reaction of the channels a link reset changes of a channel the queue alone. -/
theorem chan_resetOutcomes (s : State) (c : Chan) : ∃ q, s.resetOutcomes.chan c = { s.chan c with queue := q } := by
  rw [(onlyDir_resetOutcomes s).chan]
  cases c <;> exact ⟨_, rfl⟩

theorem chanReset_linkWasReset (s : State) (c : Chan) : ChanReset (s.chan c) (s.linkWasReset.chan c) := by
  have requeued {a b : Channel} {q q' : List QRec} (h : ChanReset { a with queue := q } b) : ChanReset a { b with queue := q' } :=
    ⟨h.next, h.head, h.retired, h.memFault, h.stops, h.stays⟩
  have requeued' {a b : Channel} {q : List QRec} (h : ChanReset { a with queue := q } b) : ChanReset a b :=
    ⟨h.next, h.head, h.retired, h.memFault, h.stops, h.stays⟩
  obtain ⟨q, e⟩ := chan_resetOutcomes s c
  rw [linkWasReset_eq, chan_endStep, State.resetChannels]
  cases c with
  | A =>
    have own := chanReset_resetChannel s.resetOutcomes .A
    obtain ⟨q', e'⟩ := chan_resetChannel_other (s.resetOutcomes.resetChannel .A) (c := .B) (d := .A) (by simp)
    rw [e] at own
    rw [e']
    exact requeued own
  | B =>
    have own := chanReset_resetChannel (s.resetOutcomes.resetChannel .A) .B
    obtain ⟨q', e'⟩ := chan_resetChannel_other s.resetOutcomes (c := .A) (d := .B) (by simp)
    rw [e', e] at own
    exact requeued' own

end Sys2Proof.Machine
end

section
/-! PROOF. The station window takes the results of a step one after the other; LINK_RESET on the directory, the channels and
the window. -/

namespace Sys2Proof.Machine

open Relation (ReflTransGen)

/-! ## The window takes several results -/

/-- Taking the result of the exchange enters this fault record (R157, R159, R161). -/
def State.entersFault (s : State) (tag : Tag) (f : WinFault) : Prop :=
  ∃ w : State, w.window.fault = s.window.fault ∧ w.window.overflow = s.window.overflow ∧ w.irq.edge = s.irq.edge ∧
    s.windowTakeTag tag = w.enterWindowFault f

/-- A completed WRITE or READ of the window whose result is a failure enters the fault record. -/
theorem entersFault_of {s : State} {tag : Tag} {x : Exchange} {n : Stn} {r : Result} (hx : s.xchg tag = some x)
    (dest : x.dest = .station n) (result : x.result = some r) (kind : x.kind = .write ∨ x.kind = .read)
    (fails : r.status.isFailure = true) : s.entersFault tag
      { station := n, reg := x.regAddr.getD 0#16, dir := if x.kind = .read then .read else .write, status := r.status
        detail := r.detail, uncertain := r.uncertain } := by
  have bad : r.status ≠ .ok := fun e => by rw [e] at fails; cases fails
  have take : s.windowTakeTag tag = s.windowTake tag x n r := by
    rw [State.windowTakeTag, hx]
    dsimp only
    rw [dest, result]
  rcases kind with kind | kind
  · refine ⟨s, rfl, rfl, rfl, ?_⟩
    simp only [take, State.windowTake, kind, if_neg bad, reduceCtorEq, if_false]
  · refine ⟨{ s with window := { s.window with
      hold := .ready n (x.regAddr.getD 0#16) tag, timer := some (s.regs.windowHold * Config.gapUnit) } }, rfl, rfl, rfl, ?_⟩
    simp only [take, State.windowTake, kind, if_pos fails, if_true]

theorem enterWindowFault_used {s : State} {f : WinFault} (used : s.window.fault ≠ none) :
    (s.enterWindowFault f).window.fault = s.window.fault ∧ (s.enterWindowFault f).window.overflow = true ∧
      (s.enterWindowFault f).irq.edge = s.irq.edge := by
  unfold State.enterWindowFault
  split
  · rename_i free
    exact absurd free used
  · exact ⟨rfl, rfl, rfl⟩

theorem enterWindowFault_free {s : State} {f : WinFault} (free : s.window.fault = none) :
    (s.enterWindowFault f).window.fault = some f ∧ (s.enterWindowFault f).window.overflow = s.window.overflow ∧
      (s.enterWindowFault f).irq.edge.getLsbD 4 = true := by
  have bit (e : Word) : (e ||| causeWindowFault).getLsbD 4 = true := by
    rw [BitVec.getLsbD_or, show causeWindowFault.getLsbD 4 = true from rfl, Bool.or_true]
  rw [State.enterWindowFault, free]
  exact ⟨rfl, rfl, bit s.irq.edge⟩

/-- With the fault record in use the failures of a step set the overflow flag alone (R161). -/
theorem takes_used {l : List Tag} {f : Tag → WinFault} {s : State}
    (enters : ∀ u : State, u.table = s.table → ∀ tag ∈ l, u.entersFault tag (f tag)) (used : s.window.fault ≠ none) :
    (l.foldl State.windowTakeTag s).window.fault = s.window.fault ∧
      (l.foldl State.windowTakeTag s).window.overflow = (s.window.overflow || !l.isEmpty) ∧
      (l.foldl State.windowTakeTag s).irq.edge = s.irq.edge := by
  induction l generalizing s with
  | nil => simp
  | cons a l ih =>
    obtain ⟨w, fault, _, edge, take⟩ := enters s rfl a List.mem_cons_self
    obtain ⟨fault', overflow', edge'⟩ := enterWindowFault_used (s := w) (f := f a) (by rwa [fault])
    rw [← take] at fault' overflow' edge'
    obtain ⟨kept, flag, edges⟩ := ih (s := s.windowTakeTag a)
      (fun u table tag mem => enters u (table.trans (windowTakeTag_table s a)) tag (List.mem_cons_of_mem _ mem))
      (by rwa [fault', fault])
    rw [List.foldl_cons]
    exact ⟨kept.trans (fault'.trans fault), by rw [flag, overflow']; simp, edges.trans (edge'.trans edge)⟩

/-- An empty fault record takes the first failure of a step, and the others set the overflow flag (R161). -/
theorem takes_free {a : Tag} {l : List Tag} {f : Tag → WinFault} {s : State}
    (enters : ∀ u : State, u.table = s.table → ∀ tag ∈ a :: l, u.entersFault tag (f tag)) (free : s.window.fault = none) :
    ((a :: l).foldl State.windowTakeTag s).window.fault = some (f a) ∧
      ((a :: l).foldl State.windowTakeTag s).window.overflow = (s.window.overflow || !l.isEmpty) ∧
      ((a :: l).foldl State.windowTakeTag s).irq.edge.getLsbD 4 = true := by
  obtain ⟨w, fault, overflow, _, take⟩ := enters s rfl a List.mem_cons_self
  obtain ⟨fault', overflow', edge'⟩ := enterWindowFault_free (s := w) (f := f a) (by rw [fault, free])
  rw [← take] at fault' overflow' edge'
  obtain ⟨kept, flag, edges⟩ := takes_used (s := s.windowTakeTag a)
    (fun u table tag mem => enters u (table.trans (windowTakeTag_table s a)) tag (List.mem_cons_of_mem _ mem))
    (by rw [fault']; simp)
  rw [List.foldl_cons]
  exact ⟨kept.trans fault', by rw [flag, overflow', overflow], (congrArg (·.getLsbD 4) edges).trans edge'⟩

theorem enterWindowFault_hold (s : State) (f : WinFault) : (s.enterWindowFault f).window.hold = s.window.hold ∧
    (s.enterWindowFault f).window.timer = s.window.timer := by
  unfold State.enterWindowFault
  split <;> exact ⟨rfl, rfl⟩

/-- A result of another kind than READ leaves the read hold alone. -/
theorem hold_take {s : State} {tag : Tag} (other : ∀ x, s.xchg tag = some x → x.kind ≠ .read) :
    (s.windowTakeTag tag).window.hold = s.window.hold ∧ (s.windowTakeTag tag).window.timer = s.window.timer := by
  unfold State.windowTakeTag
  split
  · exact ⟨rfl, rfl⟩
  · rename_i x hx
    split
    · unfold State.windowTake
      dsimp only
      split
      · rename_i kind
        exact absurd kind (other x hx)
      · split
        · exact ⟨rfl, rfl⟩
        · exact enterWindowFault_hold s _
      all_goals exact ⟨rfl, rfl⟩
    all_goals exact ⟨rfl, rfl⟩

theorem hold_takes {l : List Tag} {s : State} (other : ∀ tag ∈ l, ∀ x, s.xchg tag = some x → x.kind ≠ .read) :
    (l.foldl State.windowTakeTag s).window.hold = s.window.hold ∧
      (l.foldl State.windowTakeTag s).window.timer = s.window.timer := by
  induction l generalizing s with
  | nil => exact ⟨rfl, rfl⟩
  | cons a l ih =>
    obtain ⟨hold, timer⟩ := hold_take (s := s) (other a List.mem_cons_self)
    obtain ⟨hold', timer'⟩ := ih (s := s.windowTakeTag a) fun tag mem x hx =>
      other tag (List.mem_cons_of_mem _ mem) x (by rwa [xchg_of_table (windowTakeTag_table s a)] at hx)
    exact ⟨hold'.trans hold, timer'.trans timer⟩

theorem hold_takeRead {s : State} {tag : Tag} {x : Exchange} {n : Stn} {r : Result} (hx : s.xchg tag = some x)
    (kind : x.kind = .read) (dest : x.dest = .station n) (result : x.result = some r) :
    (s.windowTakeTag tag).window.hold = .ready n (x.regAddr.getD 0#16) tag ∧
      (s.windowTakeTag tag).window.timer = some (s.regs.windowHold * Config.gapUnit) := by
  have take : s.windowTakeTag tag = s.windowTake tag x n r := by
    rw [State.windowTakeTag, hx]
    dsimp only
    rw [dest, result]
  rw [take]
  simp only [State.windowTake, kind]
  split
  · exact enterWindowFault_hold _ _
  · exact ⟨rfl, rfl⟩

/-- The one READ among the results makes the hold READY and loads its timer (R159). -/
theorem hold_takesRead {l : List Tag} {s : State} {tag : Tag} {x : Exchange} {n : Stn} {r : Result} (nodup : l.Nodup)
    (mem : tag ∈ l) (hx : s.xchg tag = some x) (kind : x.kind = .read) (dest : x.dest = .station n)
    (result : x.result = some r) (other : ∀ t' ∈ l, t' ≠ tag → ∀ y, s.xchg t' = some y → y.kind ≠ .read) :
    (l.foldl State.windowTakeTag s).window.hold = .ready n (x.regAddr.getD 0#16) tag ∧
      (l.foldl State.windowTakeTag s).window.timer = some (s.regs.windowHold * Config.gapUnit) := by
  obtain ⟨l₁, l₂, rfl⟩ := List.append_of_mem mem
  have fresh := List.nodup_middle.mp nodup
  rw [List.nodup_cons, List.mem_append, not_or] at fresh
  obtain ⟨w, e, before⟩ := foldl_windowTakeTag_eq l₁ s
  rw [List.foldl_append, List.foldl_cons]
  generalize hu : l₁.foldl State.windowTakeTag s = u at before ⊢
  have table : u.table = s.table := by rw [before]
  have regs : u.regs = s.regs := by rw [before]
  obtain ⟨hold, timer⟩ := hold_takeRead (s := u) ((xchg_of_table table tag).trans hx) kind dest result
  have rest := hold_takes (l := l₂) (s := u.windowTakeTag tag) fun t' mem y hy => by
    rw [xchg_of_table (windowTakeTag_table u tag), xchg_of_table table] at hy
    exact other t' (List.mem_append_right _ (List.mem_cons_of_mem _ mem)) (fun e => fresh.1.2 (e ▸ mem)) y hy
  exact ⟨rest.1.trans hold, by rw [rest.2, timer, regs]⟩

/-! ## The window at a link reset -/

theorem resetOutcomes_window (s : State) : s.resetOutcomes.window = s.window := (onlyDir_resetOutcomes s).window

theorem resetChannels_reacts (s : State) : Reacts Stop s.resetOutcomes s.resetChannels :=
  (reacts_resetChannel s.resetOutcomes .A).trans (reacts_resetChannel _ .B)

theorem resetChannels_window (s : State) : s.resetChannels.window = s.window :=
  (resetChannels_reacts s).window.trans (resetOutcomes_window s)

theorem resetChannels_edge (s : State) : s.resetChannels.irq.edge.getLsbD 4 = s.irq.edge.getLsbD 4 := by
  rw [(resetChannels_reacts s).edge 4 (by decide) (by decide), (onlyDir_resetOutcomes s).irq]
  rfl

theorem resetChannels_regs (s : State) : s.resetChannels.regs = s.regs := by
  have r := congrArg Outer.regs (linkWasReset_outer s)
  exact (congrArg Outer.regs (endStep_outer s.resetChannels s)).symm.trans r

theorem resetChannels_winList (s : State) : s.resetChannels.table.winList = s.table.winList := by
  have before : s.resetTable.table.creation .window = s.table.creation .window :=
    (mapX_creation _ _ _).trans (completeBatch_creation _ _ _)
  refine ((resetChannels_reacts s).creation .window).trans ?_
  rw [(onlyDir_resetOutcomes s).table, before]
  rfl

/-- The exchanges of the window that the reset ends, as `LinkResetDirectoryAndChannels` names them. -/
def State.windowEnded (s : State) : List Tag := s.table.winList.filter fun tag => (s.xchg tag).any Exchange.live

/-- No window exchange is FILLING, and each is a WRITE or READ of a station's register. -/
def State.windowPlain (s : State) : Prop := ∀ tag x, s.xchg tag = some x → x.owner = .window →
  (x.kind = .write ∨ x.kind = .read) ∧ x.state ≠ .filling ∧ ∃ n reg, x.dest = .station n ∧ x.regAddr = some reg

theorem windowEnded_nodup {s : State} (lists : ListsAgree s) : s.windowEnded.Nodup := (lists.nodup .window).filter _

theorem mem_windowEnded {s : State} (lists : ListsAgree s) {tag : Tag} : tag ∈ s.windowEnded ↔
    ∃ x, s.xchg tag = some x ∧ x.owner = .window ∧ x.live = true := by
  rw [State.windowEnded, List.mem_filter]
  refine (and_congr_left' (lists.mem .window tag)).trans ?_
  cases hx : s.xchg tag with
  | none => simp
  | some x => simp

theorem window_linkWasReset {s : State} (lists : ListsAgree s) (plain : s.windowPlain) :
    s.linkWasReset.window = (s.windowEnded.foldl State.windowTakeTag s.resetChannels).window ∧
      s.linkWasReset.irq = (s.windowEnded.foldl State.windowTakeTag s.resetChannels).irq := by
  have ended : s.resetChannels.table.winList.filter (s.resetChannels.newlyDone s) = s.windowEnded := by
    rw [resetChannels_winList, State.windowEnded]
    refine List.filter_congr fun tag mem => ?_
    obtain ⟨x, hx, window⟩ := (lists.mem .window tag).mp mem
    rw [newlyDone_resetChannels hx, hx, Option.any_some, bne_iff_ne.mpr (plain tag x hx window).2.1, Bool.and_true]
  have hand : s.linkWasReset.window = (s.resetChannels.handOver s).window ∧
      s.linkWasReset.irq = (s.resetChannels.handOver s).irq := ⟨rfl, rfl⟩
  rw [hand.1, hand.2, State.handOver, ended]
  exact ⟨rfl, rfl⟩

/-- The result that a link reset gives an exchange of the window. -/
theorem xchg_windowEnded {s : State} (lists : ListsAgree s) (plain : s.windowPlain) {tag : Tag} (mem : tag ∈ s.windowEnded) :
    ∃ x, s.xchg tag = some x ∧ x.owner = .window ∧ x.live = true ∧ x.state ≠ .filling ∧
      s.resetChannels.xchg tag = some (x.finish (Completion.plain .linkReset)) := by
  obtain ⟨x, hx, window, live⟩ := (mem_windowEnded lists).mp mem
  have off := (plain tag x hx window).2.1
  refine ⟨x, hx, window, live, off, ?_⟩
  rw [xchg_resetChannels, hx, Option.map_some, Exchange.wasReset, if_pos ⟨live, off⟩]

/-- The fault record of an exchange of the window that a link reset ends. -/
def State.resetFault (s : State) (tag : Tag) : WinFault :=
  match s.xchg tag with
  | some x =>
    { station := (match x.dest with | .station n => n | .broadcast => 0), reg := x.regAddr.getD 0#16
      dir := if x.kind = .read then .read else .write, status := .linkReset, detail := none
      uncertain := x.kind.nonIdem && x.unanswered }
  | none =>
    { station := 0, reg := 0#16, dir := .write, status := .linkReset, detail := none, uncertain := false }

theorem entersFault_windowEnded {s : State} (lists : ListsAgree s) (plain : s.windowPlain) {u : State}
    (table : u.table = s.resetChannels.table) {tag : Tag} (mem : tag ∈ s.windowEnded) :
    u.entersFault tag (s.resetFault tag) := by
  obtain ⟨x, hx, window, _, _, record⟩ := xchg_windowEnded lists plain mem
  obtain ⟨kind, _, n, _, dest, _⟩ := plain tag x hx window
  have enters := entersFault_of (s := u) ((xchg_of_table table tag).trans record) dest rfl kind rfl
  have same : s.resetFault tag =
      { station := n, reg := x.regAddr.getD 0#16, dir := if x.kind = .read then .read else .write, status := .linkReset
        detail := none, uncertain := x.kind.nonIdem && x.unanswered } := by
    simp only [State.resetFault, hx, dest]
  rw [same]
  exact enters

/-- Of the window's exchanges that a link reset ends, a READ is the one that the hold has in flight. -/
theorem read_windowEnded {s : State} (lists : ListsAgree s) (plain : s.windowPlain) (hold : HoldNamesItsRead s) {tag : Tag}
    (mem : tag ∈ s.windowEnded) {y : Exchange} (hy : s.resetChannels.xchg tag = some y) (kind : y.kind = .read) :
    ∃ n reg, s.window.hold = .inFlight n reg tag := by
  obtain ⟨x, hx, own, live, _, record⟩ := xchg_windowEnded lists plain mem
  rw [record] at hy
  cases hy
  obtain ⟨n, reg, flying | ready⟩ := hold.2 tag x hx own kind
  · exact ⟨n, reg, flying⟩
  · have named := hold.1
    rw [ready] at named
    obtain ⟨z, hz, _, done⟩ := named
    rw [hx] at hz
    cases hz
    simp [Exchange.live, done] at live

/-- A hold without a READ in flight is kept (R162). -/
theorem hold_linkWasReset_kept {s : State} (lists : ListsAgree s) (plain : s.windowPlain) (hold : HoldNamesItsRead s)
    (off : ∀ n reg tag, s.window.hold ≠ .inFlight n reg tag) :
    s.linkWasReset.window.hold = s.window.hold ∧ s.linkWasReset.window.timer = s.window.timer := by
  have kept := hold_takes (l := s.windowEnded) (s := s.resetChannels) fun tag mem y hy kind => by
    obtain ⟨n, reg, e⟩ := read_windowEnded lists plain hold mem hy kind
    exact off n reg tag e
  rw [(window_linkWasReset lists plain).1, kept.1, kept.2, resetChannels_window]
  exact ⟨rfl, rfl⟩

/-- A hold with its READ in flight becomes READY (R159, R162). -/
theorem hold_linkWasReset_ready {s : State} (lists : ListsAgree s) (plain : s.windowPlain) (hold : HoldNamesItsRead s)
    {n : Stn} {reg : BitVec 16} {tag : Tag} (flying : s.window.hold = .inFlight n reg tag) :
    s.linkWasReset.window.hold = .ready n reg tag ∧ s.linkWasReset.window.timer = some (s.regs.windowHold * 64) ∧
      ∃ y, s.linkWasReset.xchg tag = some y ∧ y.state = .complete ∧ y.result.map (·.status) = some .linkReset := by
  have named := hold.1
  rw [flying] at named
  obtain ⟨x, hx, ⟨own, kind, dest, addr⟩, live⟩ := named
  have mem : tag ∈ s.windowEnded := (mem_windowEnded lists).mpr ⟨x, hx, own, live⟩
  have off := (plain tag x hx own).2.1
  have record : s.resetChannels.xchg tag = some (x.finish (Completion.plain .linkReset)) := by
    rw [xchg_resetChannels, hx, Option.map_some, Exchange.wasReset, if_pos ⟨live, off⟩]
  have taken := hold_takesRead (s := s.resetChannels) (windowEnded_nodup lists) mem record kind dest rfl
    fun t' mem' other y hy isRead => by
      obtain ⟨_, _, e⟩ := read_windowEnded lists plain hold mem' hy isRead
      rw [flying] at e
      cases e
      exact other rfl
  have regAddr : (x.finish (Completion.plain .linkReset)).regAddr.getD 0#16 = reg := congrArg (·.getD 0#16) addr
  rw [regAddr, ← (window_linkWasReset lists plain).1, resetChannels_regs] at taken
  refine ⟨taken.1, taken.2, x.finish (Completion.plain .linkReset), ?_, rfl, rfl⟩
  rw [xchg_linkWasReset hx, if_neg (by simp [Exchange.retiredAtOnce, own, kind]), Exchange.wasReset, if_pos ⟨live, off⟩]

/-- A fault record in use is kept (R161, R162). -/
theorem fault_linkWasReset_used {s : State} (lists : ListsAgree s) (plain : s.windowPlain) (used : s.window.fault ≠ none) :
    s.linkWasReset.window.fault = s.window.fault ∧
      s.linkWasReset.window.overflow = (s.window.overflow || !s.windowEnded.isEmpty) ∧
      s.linkWasReset.irq.edge.getLsbD 4 = s.irq.edge.getLsbD 4 := by
  obtain ⟨window, irq⟩ := window_linkWasReset lists plain
  obtain ⟨fault, overflow, edge⟩ := takes_used (s := s.resetChannels)
    (fun u table tag mem => entersFault_windowEnded lists plain table mem) (by rwa [resetChannels_window])
  rw [← window, resetChannels_window] at fault overflow
  rw [← irq] at edge
  exact ⟨fault, overflow, (congrArg (·.getLsbD 4) edge).trans (resetChannels_edge s)⟩

/-- An empty fault record takes the exchange created first (R161, R162). -/
theorem fault_linkWasReset_free {s : State} (lists : ListsAgree s) (plain : s.windowPlain) (free : s.window.fault = none)
    {tag : Tag} {rest : List Tag} (first : s.windowEnded = tag :: rest) :
    s.linkWasReset.window.fault = some (s.resetFault tag) ∧
      s.linkWasReset.window.overflow = (s.window.overflow || !rest.isEmpty) ∧
      s.linkWasReset.irq.edge.getLsbD 4 = true := by
  obtain ⟨window, irq⟩ := window_linkWasReset lists plain
  obtain ⟨fault, overflow, edge⟩ := takes_free (s := s.resetChannels) (a := tag) (l := rest)
    (fun u table t' mem => entersFault_windowEnded lists plain table (first ▸ mem)) (by rwa [resetChannels_window])
  rw [← first, ← window] at fault overflow
  rw [← first, ← irq] at edge
  rw [resetChannels_window] at overflow
  exact ⟨fault, overflow, edge⟩

/-! ## The census and the recovery list -/

theorem census_linkWasReset_none {s : State} (lists : ListsAgree s)
    (certain : ∀ tag x, s.xchg tag = some x → ¬x.unknownOutcome)
    (none' : ∀ tag x, s.xchg tag = some x → x.kind = .census → x.live = false) :
    s.linkWasReset.dir.census = s.dir.census := by
  rw [census_of_certain lists certain, endedStns_nil none', List.foldl_nil, census_resetDirectory]
  rfl

/-- The census that the reset ends is back at the head of the list (R33). -/
theorem census_linkWasReset_head {s : State} (lists : ListsAgree s) (quotas : QuotasHold s)
    (certain : ∀ tag x, s.xchg tag = some x → ¬x.unknownOutcome) {tag : Tag} {x : Exchange} {n : Stn}
    (hx : s.xchg tag = some x) (kind : x.kind = .census) (live : x.live = true) (dest : x.dest = .station n)
    (open' : (s.entry n).state ≠ .disabled) (absent : n ∉ s.dir.census) :
    s.linkWasReset.dir.census = n :: s.dir.census := by
  have one : s.endedStns .census = [n] := endedStns_one quotas.census (fun x e => by simp [e]) hx kind live dest
  let marked := s.resetTable.resetDirectory.modEntry n fun e =>
    { e with lastCensus := some { status := .linkReset, stationFault := false } }
  have entry : (marked.entry n).state = (s.entry n).linkReset.state := by
    rw [entry_modEntry, if_pos rfl, entry_resetDirectory]
    rfl
  have old : marked.dir.census = s.dir.census := census_resetDirectory _
  have head : marked.censusToHead n = { marked with dir := { marked.dir with census := n :: marked.dir.census } } := by
    rw [State.censusToHead, if_neg]
    rintro (disabled | mem)
    · exact open' ((state_linkReset_disabled _).mp (entry.symm.trans disabled))
    · exact absent (old ▸ mem)
  rw [census_of_certain lists certain, one, List.foldl_cons, List.foldl_nil]
  exact (congrArg (·.dir.census) head).trans (congrArg (n :: ·) old)

theorem mem_census_linkWasReset {s : State} (lists : ListsAgree s) {tag : Tag} {x : Exchange} {n : Stn}
    (hx : s.xchg tag = some x) (doubt : x.unknownOutcome) (dest : x.dest = .station n)
    (open' : (s.entry n).state ≠ .disabled) : n ∈ s.linkWasReset.dir.census := by
  rw [census_linkWasReset]
  refine mem_census_noteUnknowns ((mem_resetUnknowns lists).mpr ⟨tag, x, hx, doubt, dest⟩) ?_
  rw [entry_resetLists]
  exact fun e => open' ((state_linkReset_disabled _).mp e)

theorem recovery_linkWasReset_none {s : State}
    (none' : ∀ tag x, s.xchg tag = some x → x.kind = .stationReset → x.live = false) :
    s.linkWasReset.dir.recovery = s.dir.recovery.filter fun r => r.2 != .purge := by
  rw [recovery_linkWasReset, State.resetLists, endedStns_nil none', List.foldl_nil, recovery_censusResets,
    recovery_resetDirectory]
  rfl

/-- The STATION_RESET that the reset ends is back at the head of the list (R47). -/
theorem recovery_linkWasReset_head {s : State} (quotas : QuotasHold s) {tag : Tag} {x : Exchange} {n : Stn}
    (hx : s.xchg tag = some x) (kind : x.kind = .stationReset) (live : x.live = true) (dest : x.dest = .station n)
    (purge : ∀ r ∈ s.dir.recovery, r.1 = n → r.2 = .purge) :
    s.linkWasReset.dir.recovery = (n, .reset) :: s.dir.recovery.filter fun r => r.2 != .purge := by
  have one : s.endedStns .stationReset = [n] :=
    endedStns_one quotas.recovery (fun x e => by simp [e]) hx kind live dest
  have old : ((s.endedStns .census).foldl State.censusReset s.resetTable.resetDirectory).dir.recovery =
      s.dir.recovery.filter fun r => r.2 != .purge := by
    rw [recovery_censusResets, recovery_resetDirectory]
    rfl
  rw [recovery_linkWasReset, State.resetLists, one, List.foldl_cons, List.foldl_nil, State.resetToHead,
    recoveryOf_filtered old purge]
  exact congrArg ((n, RecAction.reset) :: ·) old

/-! ## The entries -/

theorem entry_linkReset_full {s : State} (phases : PhasesAgree s) (n : Stn) : s.linkWasReset.entry n = { (s.entry n).linkReset with
    lastCensus := if n ∈ s.endedStns .census then some { status := .linkReset, stationFault := false }
      else (s.entry n).lastCensus
    seqUncertain := (s.entry n).seqUncertain || s.resetUnknowns.contains n } := by
  rw [entry_linkWasReset phases, entry_resetChannels, entry_resetLists]
  rfl

theorem state_linkReset (e : Entry) : e.linkReset.state =
    if e.state = .suspect ∨ e.state = .resync then .present else e.state := by
  unfold Entry.linkReset
  cases h : e.state <;> simp

theorem doubt_linkWasReset {s : State} (lists : ListsAgree s) (phases : PhasesAgree s) (n : Stn) :
    (s.linkWasReset.entry n).seqUncertain = true ↔ (s.entry n).seqUncertain = true ∨
      ∃ tag x, s.xchg tag = some x ∧ x.dest = .station n ∧ x.live = true ∧ x.kind.nonIdem = true ∧ x.unanswered = true ∧
        x.state ≠ .filling := by
  rw [entry_linkReset_full phases]
  simp only [Bool.or_eq_true, List.contains_iff_mem, mem_resetUnknowns lists]
  refine or_congr Iff.rfl (exists₂_congr fun tag x => ⟨?_, ?_⟩)
  · rintro ⟨hx, ⟨live, off, nonIdem, unanswered⟩, dest⟩
    exact ⟨hx, dest, live, nonIdem, unanswered, off⟩
  · rintro ⟨hx, dest, live, nonIdem, unanswered, off⟩
    exact ⟨hx, ⟨live, off, nonIdem, unanswered⟩, dest⟩

/-- Settles O10: entries and lists by the stages of the reset, the channels by entry to STOPPING, the window by the fold over
its exchanges that end. -/
theorem linkResetDirectoryAndChannels : Obligations.LinkResetDirectoryAndChannels := by
  refine ⟨fun f s lists phases on short => ⟨_, exec_linkReset_accepted on short, fun n => ?entries⟩,
    fun f s lists quotas on short => ?lists, fun f s lists hold on short plain => ?window⟩
  case entries =>
    have full := entry_linkReset_full phases n
    have doubt := doubt_linkWasReset lists phases n
    rw [entry_command]
    generalize s.linkWasReset.entry n = e at full doubt ⊢
    subst full
    refine ⟨rfl, rfl, rfl, rfl, state_linkReset _, (changes_linkWasReset s n).symm, doubt, rfl, rfl, rfl, rfl, rfl, rfl, rfl,
      rfl, ?ended, ?kept⟩
    case ended =>
      rintro ⟨tag, x, hx, kind, live, dest⟩
      exact if_pos (mem_endedStns.mpr ⟨tag, x, hx, kind, live, dest⟩)
    case kept =>
      intro none'
      refine if_neg fun mem => ?_
      obtain ⟨tag, x, hx, kind, live, dest⟩ := mem_endedStns.mp mem
      exact none' tag x hx kind live dest
  case lists =>
    intro unknown
    refine ⟨_, exec_linkReset_accepted on short, census_linkWasReset_none lists,
      fun certain tag x n hx kind live dest => census_linkWasReset_head lists quotas certain hx kind live dest,
      fun tag x n hx doubt dest => mem_census_linkWasReset lists hx doubt dest, recovery_linkWasReset_none,
      fun tag x n hx kind live dest => recovery_linkWasReset_head quotas hx kind live dest, fun c => ?channels⟩
    case channels =>
      have k := chanReset_linkWasReset s c
      rw [chan_command]
      refine ⟨k.next, k.head, k.retired, k.memFault, fun live => k.stops ?_,
        fun run pause => k.stays (isLive_eq_false ⟨run, pause⟩)⟩
      rcases live with e | e <;> rw [e] <;> rfl
  case window =>
    intro ended entry
    have plain' : s.windowPlain := plain
    refine ⟨_, exec_linkReset_accepted on short, fun empty => ?empty, fun n reg tag ready => ?ready,
      fun n reg tag flying => ?flying, fun none' => ?none', fun used => fault_linkWasReset_used lists plain' used,
      fun tag rest x free first hx => ?first⟩
    case empty =>
      obtain ⟨e, timer⟩ := hold_linkWasReset_kept lists plain' hold fun n reg t' h => by rw [empty] at h; cases h
      exact ⟨e.trans empty, timer⟩
    case ready =>
      obtain ⟨e, timer⟩ := hold_linkWasReset_kept lists plain' hold fun n reg t' h => by rw [ready] at h; cases h
      refine ⟨e, timer, ?_⟩
      have named := hold.1
      rw [ready] at named
      obtain ⟨z, hz, _, done⟩ := named
      have finished : z.live = false := by simp [Exchange.live, done]
      rw [xchg_command, xchg_linkWasReset hz, hz, if_neg (by simp [finished]), wasReset_of_done finished]
    case flying =>
      obtain ⟨e, timer, y, hy, done⟩ := hold_linkWasReset_ready lists plain' hold flying
      exact ⟨e, timer, y, (xchg_command _ _ _ _ _).trans hy, done⟩
    case none' =>
      have nil : s.windowEnded = [] := none'
      show s.linkWasReset.window.fault = _ ∧ s.linkWasReset.window.overflow = _
      rw [(window_linkWasReset lists plain').1, nil, List.foldl_nil, resetChannels_window]
      exact ⟨rfl, rfl⟩
    case first =>
      obtain ⟨fault, overflow, edge⟩ := fault_linkWasReset_free lists plain' free first
      obtain ⟨y, hy, own, _⟩ := (mem_windowEnded lists (tag := tag)).mp
        (by rw [show s.windowEnded = tag :: rest from first]; exact List.mem_cons_self)
      rw [hx] at hy
      cases hy
      obtain ⟨_, _, n, reg, dest, addr⟩ := plain tag x hx own
      have same : entry x = some (s.resetFault tag) := by
        simp only [entry, State.resetFault, hx, dest, addr, Option.getD_some]
      exact ⟨fault.trans same.symm, overflow, edge⟩

end Sys2Proof.Machine
end

section
/-! PROOF. The marks and records that a cancellation leaves in the directory, and the hand-over of a step that completes
exchanges of channels alone. -/

namespace Sys2Proof.Machine

/-! ## Purge marks -/

theorem entry_setPurge (s : State) (n m : Stn) :
    (s.setPurge n).entry m = if m = n then { s.entry n with purgeNeeded := true } else s.entry m := by
  unfold State.setPurge
  split
  · rename_i marked
    split
    · rename_i own
      rw [own, ← marked]
    · rfl
  · dsimp only
    split <;> simp only [entry_placePurge, entry_modEntry]

theorem entry_setPurges (l : List Stn) (s : State) (n : Stn) : (l.foldl State.setPurge s).entry n = { s.entry n with
    purgeNeeded := (s.entry n).purgeNeeded || l.contains n } := by
  induction l generalizing s with
  | nil => simp
  | cons a l ih =>
    rw [List.foldl_cons, ih, entry_setPurge]
    by_cases h : n = a <;> simp [h]

theorem census_setPurge (s : State) (n : Stn) : (s.setPurge n).dir.census = s.dir.census := by
  unfold State.setPurge
  split
  · rfl
  · dsimp only
    split <;> first | rfl | (unfold State.placePurge; split <;> rfl)

theorem census_setPurges (l : List Stn) (s : State) : (l.foldl State.setPurge s).dir.census = s.dir.census := by
  induction l generalizing s with
  | nil => rfl
  | cons a l ih => exact (ih _).trans (census_setPurge s a)

/-- Setting a purge mark leaves the recovery list, or puts a PURGE record of the station at its tail. -/
theorem recovery_setPurge (s : State) (n : Stn) :
    (s.setPurge n).dir.recovery = s.dir.recovery ∨ (s.setPurge n).dir.recovery = s.dir.recovery ++ [(n, .purge)] := by
  unfold State.setPurge
  split
  · exact .inl rfl
  · dsimp only
    split <;> first
      | exact .inl rfl
      | (unfold State.placePurge; split; exacts [.inl rfl, .inr rfl])

theorem recovery_setPurges (l : List Stn) (s : State) : ∃ more,
    (l.foldl State.setPurge s).dir.recovery = s.dir.recovery ++ more ∧ ∀ r ∈ more, r.2 = .purge ∧ r.1 ∈ l := by
  induction l generalizing s with
  | nil => exact ⟨[], by simp⟩
  | cons a l ih =>
    obtain ⟨more, e, only⟩ := ih (s.setPurge a)
    have later : ∀ r ∈ more, r.2 = .purge ∧ r.1 ∈ a :: l := fun r hr => ⟨(only r hr).1, List.mem_cons_of_mem _ (only r hr).2⟩
    rw [List.foldl_cons, e]
    rcases recovery_setPurge s a with e' | e'
    · exact ⟨more, by rw [e'], later⟩
    · refine ⟨(a, .purge) :: more, by rw [e', List.append_assoc]; rfl, fun r hr => ?_⟩
      rcases List.mem_cons.mp hr with rfl | hr
      · exact ⟨rfl, List.mem_cons_self⟩
      · exact later r hr

/-- A known station that gets the mark has a record in the recovery list (R38, R114). -/
theorem mem_recovery_setPurge {s : State} {n : Stn} (clear : (s.entry n).purgeNeeded = false)
    (state : (s.entry n).state = .present ∨ (s.entry n).state = .suspect ∨ (s.entry n).state = .held) :
    ∃ act, (n, act) ∈ (s.setPurge n).dir.recovery := by
  let marked := s.modEntry n fun e => { e with purgeNeeded := true }
  have placed : s.setPurge n = marked.placePurge n := by
    rw [State.setPurge, clear]
    rcases state with e | e | e <;> rw [e] <;> rfl
  rw [placed, State.placePurge]
  split
  · rename_i has
    rw [State.recoveryOf, Option.isSome_map, List.find?_isSome] at has
    obtain ⟨r, mem, own⟩ := has
    rw [beq_iff_eq] at own
    exact ⟨r.2, own ▸ mem⟩
  · exact ⟨.purge, List.mem_append_right _ (List.mem_singleton_self _)⟩

theorem mem_recovery_setPurges {l : List Stn} {n : Stn} {s : State} (mem : n ∈ l) (clear : (s.entry n).purgeNeeded = false)
    (state : (s.entry n).state = .present ∨ (s.entry n).state = .suspect ∨ (s.entry n).state = .held) :
    ∃ act, (n, act) ∈ (l.foldl State.setPurge s).dir.recovery := by
  induction l generalizing s with
  | nil => cases mem
  | cons a l ih =>
    rw [List.foldl_cons]
    by_cases own : n = a
    · subst own
      obtain ⟨act, got⟩ := mem_recovery_setPurge clear state
      obtain ⟨more, e, _⟩ := recovery_setPurges l (s.setPurge n)
      exact ⟨act, by rw [e]; exact List.mem_append_left _ got⟩
    · have entry : (s.setPurge a).entry n = s.entry n := by rw [entry_setPurge, if_neg own]
      exact ih ((List.mem_cons.mp mem).resolve_left own) (by rwa [entry]) (by rwa [entry])

/-! ## Unknown outcomes and the census list -/

theorem mem_census_noteUnknowns_iff {l : List Stn} {s : State} {n : Stn} :
    n ∈ (l.foldl State.noteUnknown s).dir.census ↔ n ∈ s.dir.census ∨ n ∈ l ∧ (s.entry n).state ≠ .disabled := by
  constructor
  · induction l generalizing s with
    | nil => exact .inl
    | cons a l ih =>
      intro h
      have state : ((s.noteUnknown a).entry n).state = (s.entry n).state := by
        rw [entry_noteUnknown]
        split
        · rename_i e; rw [e]
        · rfl
      rcases ih h with old | ⟨mem, open'⟩
      · rw [State.noteUnknown, joinCensus_eq, List.mem_append] at old
        rcases old with old | new
        · exact .inl old
        · split at new
          · cases new
          · rename_i off
            rw [List.mem_singleton] at new
            subst new
            rw [not_or, entry_modEntry, if_pos rfl] at off
            exact .inr ⟨List.mem_cons_self, off.1⟩
      · exact .inr ⟨List.mem_cons_of_mem _ mem, by rwa [state] at open'⟩
  · rintro (old | ⟨mem, open'⟩)
    · obtain ⟨more, e⟩ := (Reacts.foldl (R := Stop) reacts_noteUnknown l s).census
      rw [e]
      exact List.mem_append_left _ old
    · exact mem_census_noteUnknowns mem open'

/-! ## The ISSUE rows of a cancellation -/

theorem entry_cancelIssue (s : State) (c : Chan) (n : Stn) : (s.cancelIssue c).entry n = { s.entry n with
    seqUncertain := (s.entry n).seqUncertain || (s.uncertainStns (cancelSel c)).contains n
    purgeNeeded := (s.entry n).purgeNeeded || (s.cancelledReadStns c).contains n } := by
  rw [State.cancelIssue, entry_mapX, entry_setPurges, entry_complete]

theorem census_cancelIssue (s : State) (c : Chan) : (s.cancelIssue c).dir.census = (s.complete (cancelSel c)).dir.census :=
  census_setPurges (s.cancelledReadStns c) (s.complete (cancelSel c))

theorem recovery_cancelIssue (s : State) (c : Chan) : (s.cancelIssue c).dir.recovery =
    ((s.cancelledReadStns c).foldl State.setPurge (s.complete (cancelSel c))).dir.recovery := rfl

/-- A cancellation changes records in place, the queues' records, and the directory. -/
theorem cancelIssue_eq (s : State) (c : Chan) : ∃ d, s.cancelIssue c =
    { (s.completeBatch (cancelSel c)).mapX (fun _ x => if x.owner = .list c then x.markFill .cancelled else x) with dir := d } := by
  have step : OnlyDir (s.completeBatch (cancelSel c)) ((s.cancelledReadStns c).foldl State.setPurge (s.complete (cancelSel c))) :=
    (OnlyDir.foldl onlyDir_noteUnknown _ _).trans (OnlyDir.foldl onlyDir_setPurge _ _)
  rw [State.cancelIssue]
  generalize (s.cancelledReadStns c).foldl State.setPurge (s.complete (cancelSel c)) = u at step ⊢
  rw [show u = { s.completeBatch (cancelSel c) with dir := u.dir } from step]
  exact ⟨u.dir, rfl⟩

/-! ## Hand-over to the channels alone -/

/-- Where a step completes exchanges of channels alone, their tags join the completion lists, and nothing goes FREE. -/
theorem handOver_of_lists {s before : State} (lists : ∀ tag x, s.xchg tag = some x → s.newlyDone before tag = true →
    ∃ c, x.owner = .list c) (win : ∀ tag ∈ s.table.winList, s.newlyDone before tag = false) :
    s.handOver before = { s with table := { s.table with
      complA := s.table.complA ++ s.table.listAList.filter (s.newlyDone before)
      complB := s.table.complB ++ s.table.listBList.filter (s.newlyDone before) } } := by
  have retires (tag : Tag) : s.retiresNow before tag = false := by
    rw [State.retiresNow]
    cases hx : s.xchg tag with
    | none => simp
    | some x =>
      cases done : s.newlyDone before tag with
      | false => rfl
      | true =>
        obtain ⟨c, own⟩ := lists tag x hx done
        simp [Exchange.retiredAtOnce, own]
  have none' : s.table.winList.filter (s.newlyDone before) = [] :=
    List.filter_eq_nil_iff.mpr fun tag mem => by simp [win tag mem]
  have all (l : List Tag) : l.filter (fun tag => !s.retiresNow before tag) = l :=
    List.filter_eq_self.mpr fun tag _ => by simp [retires]
  have xs : mapXs (fun t x => if s.retiresNow before t then Option.none else some x) s.table.xs = s.table.xs := by
    refine Vector.ext fun i hi => ?_
    refine (getElem_mapXs (fun t x => if s.retiresNow before t then Option.none else some x) s.table.xs ⟨i, hi⟩).trans ?_
    simp only [retires, Bool.false_eq_true, if_false]
    exact Option.bind_fun_some _
  unfold State.handOver
  dsimp only
  rw [none', all, all, xs]
  rfl

/-- The tags that such a step gives a channel (R15). -/
theorem compl_handOver_of_lists {s before : State} (lists : ∀ tag x, s.xchg tag = some x → s.newlyDone before tag = true →
    ∃ c, x.owner = .list c) (win : ∀ tag ∈ s.table.winList, s.newlyDone before tag = false) (c : Chan) :
    (s.handOver before).table.compl c =
      s.table.compl c ++ (s.table.creation (.list c)).filter (s.newlyDone before) := by
  rw [handOver_of_lists lists win]
  cases c <;> rfl

theorem creation_handOver_of_lists {s before : State} (lists : ∀ tag x, s.xchg tag = some x →
    s.newlyDone before tag = true → ∃ c, x.owner = .list c) (win : ∀ tag ∈ s.table.winList, s.newlyDone before tag = false)
    (o : Owner) : (s.handOver before).table.creation o = s.table.creation o := by
  rw [handOver_of_lists lists win]
  match o with
  | .list .A | .list .B | .window | .internal => rfl

end Sys2Proof.Machine
end

section
/-! PROOF. LIST_ABORT: what it does to every record, to its channel, and to the directory. -/

namespace Sys2Proof.Machine

open Relation (ReflTransGen)

/-! ## Records -/

/-- The exchange is one that a cancellation of its channel completes: ISSUE phase, WAITING or BACKOFF (R20). -/
def Exchange.endsWith (c : Chan) (x : Exchange) : Bool :=
  x.owner == .list c && x.phase == .issue && (x.state == .waiting || x.state == .backoff)

theorem cancelSel_eq (c : Chan) (tag : Tag) (x : Exchange) :
    cancelSel c tag x = if x.endsWith c then some (Completion.plain .cancelled) else none := by
  simp [cancelSel, Exchange.endsWith, and_assoc]

/-- A record at a LIST_ABORT of its channel (R20). -/
def Exchange.aborted (c : Chan) (x : Exchange) : Exchange :=
  if x.owner = .list c then
    if x.endsWith c then x.finish (Completion.plain .cancelled) else abortCollect c (x.markFill .cancelled)
  else x

theorem aborted_eq (c : Chan) (tag : Tag) (x : Exchange) : abortCollect c (if (afterSel (cancelSel c) tag x).owner = .list c then
    (afterSel (cancelSel c) tag x).markFill .cancelled else afterSel (cancelSel c) tag x) = x.aborted c := by
  unfold Exchange.aborted
  rw [afterSel, cancelSel_eq]
  by_cases own : x.owner = .list c
  · rw [if_pos own]
    by_cases ends : x.endsWith c = true
    · rw [if_pos ends, if_pos ends]
      dsimp only
      have kept : (x.finish (Completion.plain .cancelled)).markFill .cancelled = x.finish (Completion.plain .cancelled) := by
        rw [Exchange.markFill, if_neg (by simp [Exchange.finish])]
      have phase : (x.finish (Completion.plain .cancelled)).phase = .issue := by
        simp only [Exchange.endsWith, Bool.and_eq_true, beq_iff_eq] at ends
        exact ends.1.2
      rw [kept, ite_self, abortCollect, if_neg (by simp [phase])]
    · rw [if_neg ends, if_neg ends]
      dsimp only
      rw [if_pos own]
  · have stays : x.endsWith c = false := by simp [Exchange.endsWith, own]
    rw [if_neg own, stays]
    simp [own, abortCollect]

theorem aborted_owner (c : Chan) (x : Exchange) : (x.aborted c).owner = x.owner := by
  unfold Exchange.aborted abortCollect Exchange.markFill
  repeat' split
  all_goals rfl

theorem aborted_dest (c : Chan) (x : Exchange) : (x.aborted c).dest = x.dest := by
  unfold Exchange.aborted abortCollect Exchange.markFill
  repeat' split
  all_goals rfl

/-- What a LIST_ABORT does to an exchange that it does not complete. -/
theorem aborted_of_open {c : Chan} {x : Exchange} (stays : x.endsWith c = false) (own : x.owner = .list c) :
    x.aborted c = abortCollect c (x.markFill .cancelled) := by
  rw [Exchange.aborted, if_pos own, stays, if_neg (by simp)]

theorem markFill_other {x : Exchange} {m : FillMark} (off : x.state ≠ .filling) : x.markFill m = x := by
  rw [Exchange.markFill, if_neg fun h => off h.1]

theorem abortCollect_state {c : Chan} {x : Exchange} : (abortCollect c x).state = .complete ↔ x.state = .complete := by
  unfold abortCollect
  split
  · split <;> simp_all [Exchange.toAbandon]
  · rfl

theorem aborted_complete (c : Chan) (x : Exchange) : (x.aborted c).state = .complete ↔ x.state = .complete ∨ x.endsWith c = true := by
  unfold Exchange.aborted
  by_cases own : x.owner = .list c
  · rw [if_pos own]
    by_cases ends : x.endsWith c = true
    · simp [ends, Exchange.finish]
    · have kept : (x.markFill .cancelled).state = x.state := by
        unfold Exchange.markFill
        split <;> rfl
      rw [if_neg ends, abortCollect_state, kept]
      simp [ends]
  · simp [own, Exchange.endsWith]

theorem aborted_isDeferred (c : Chan) (x : Exchange) : (x.aborted c).isDeferred = x.isDeferred := by
  unfold Exchange.aborted
  split
  · rename_i own
    split
    · rename_i ends
      simp only [Exchange.endsWith, Bool.and_eq_true, beq_iff_eq] at ends
      simp [Exchange.isDeferred, Exchange.finish, ends.1.2]
    · have kept : (x.markFill .cancelled).isDeferred = x.isDeferred := by
        unfold Exchange.markFill
        split <;> rfl
      have collected (y : Exchange) : (abortCollect c y).isDeferred = y.isDeferred := by
        unfold abortCollect
        split
        · rename_i h
          have abandons (live : y.live = true) : (y.toAbandon { status := .cancelled, fault := none }).isDeferred =
              y.isDeferred := by
            rw [Exchange.isDeferred, Exchange.isDeferred, live, h.2]
            rfl
          split
          · exact abandons (by simp [Exchange.live, *])
          · exact abandons (by simp [Exchange.live, *])
          · exact abandons (by simp [Exchange.live, *])
          all_goals rfl
        · rfl
      exact (collected _).trans kept
  · rfl

/-! ## The stages -/

/-- The channel has left RUNNING, and its cancellation is ABORT. -/
def State.aborting (s : State) (c : Chan) : State :=
  (s.leaveRunning c).modChan c fun ch => { ch with state := .aborting, cancel := .abort, queue := cancelNops ch.queue }

/-- The exchanges of the channel have gone by the LIST_ABORT column. -/
def State.abortActs (s : State) (c : Chan) : State := ((s.aborting c).cancelIssue c).mapX fun _ x => abortCollect c x

theorem aborted_stages (s : State) (c : Chan) : s.aborted c = ((s.abortActs c).settleCancel c).endAbortIfDone c := rfl

section
variable (s : State) (c : Chan)

theorem xchg_aborting (tag : Tag) : (s.aborting c).xchg tag = s.xchg tag := xchg_leaveRunning s c _ tag

theorem dir_aborting : (s.aborting c).dir = s.dir := by cases c <;> rfl

theorem creation_aborting (o : Owner) : (s.aborting c).table.creation o = s.table.creation o := by
  have table : (s.aborting c).table = (s.withdraw c).table := by cases c <;> rfl
  rw [table]
  exact (sameTable_withdraw s c).2 o

theorem chan_aborting : (s.aborting c).chan c = { s.chan c with
    state := .aborting, cancel := .abort, pendingDesc := none, queue := cancelNops (s.chan c).queue
    portOp := if ∃ b, (s.chan c).portOp = some (.fetch b) then some (.fetch true) else (s.chan c).portOp } := by
  rw [State.aborting, chan_modChan_same, State.leaveRunning, chan_modChan_same, chan_withdraw]
  rcases h : (s.chan c).portOp with _ | op
  · simp
  · cases op <;> simp

theorem chan_aborting_other {d : Chan} (other : d ≠ c) : (s.aborting c).chan d = s.chan d := by
  rw [State.aborting, chan_modChan_other _ _ other, State.leaveRunning, chan_modChan_other _ _ other, chan_withdraw]

/-- The records, the channels' queues and the directory take the column; the rest stands. -/
theorem abortActs_eq : ∃ d, s.abortActs c = { (((s.aborting c).completeBatch (cancelSel c)).mapX fun _ x =>
    if x.owner = .list c then x.markFill .cancelled else x).mapX (fun _ x => abortCollect c x) with dir := d } := by
  obtain ⟨d, e⟩ := cancelIssue_eq (s.aborting c) c
  rw [State.abortActs, e]
  exact ⟨d, rfl⟩

theorem xchg_abortActs (tag : Tag) : (s.abortActs c).xchg tag = (s.xchg tag).map (·.aborted c) := by
  obtain ⟨d, e⟩ := cancelIssue_eq (s.aborting c) c
  have step : ((s.aborting c).cancelIssue c).xchg tag = (((s.aborting c).completeBatch (cancelSel c)).mapX fun _ x =>
      if x.owner = .list c then x.markFill .cancelled else x).xchg tag := by rw [e]; rfl
  rw [State.abortActs, xchg_mapX, step, xchg_mapX, xchg_completeBatch, xchg_aborting, Option.map_map, Option.map_map]
  exact congrArg (fun f => (s.xchg tag).map f) (funext fun x => aborted_eq c tag x)

theorem creation_abortActs (o : Owner) : (s.abortActs c).table.creation o = s.table.creation o := by
  rw [State.abortActs, mapX_creation, (reacts_cancelIssue (s.aborting c) c).creation, creation_aborting]

theorem compl_abortActs (d : Chan) : (s.abortActs c).table.compl d = s.table.compl d := by
  have table : (s.aborting c).table = (s.withdraw c).table := by cases c <;> rfl
  rw [State.abortActs, mapX_compl, (reacts_cancelIssue (s.aborting c) c).compl, table]
  cases d <;> rfl

theorem waitList_abortActs : (s.abortActs c).table.waitList = s.table.waitList.filter fun e => e.1 != c := by
  obtain ⟨d, e⟩ := abortActs_eq s c
  rw [e]
  cases c <;> rfl

theorem outer_abortActs : (s.abortActs c).outer = s.outer := by
  rw [State.abortActs, mapX_outer, cancelIssue_outer, State.aborting, modChan_outer, leaveRunning_outer]

theorem window_abortActs : (s.abortActs c).window = s.window ∧ (s.abortActs c).irq = s.irq := by
  obtain ⟨d, e⟩ := abortActs_eq s c
  rw [e]
  cases c <;> exact ⟨rfl, rfl⟩

/-- The command changes of the state after the column the channel alone. -/
theorem aborted_chan : ∃ ch, s.aborted c = (s.abortActs c).setChan c ch := by
  obtain ⟨k, e⟩ := settleCancel_eq (s.abortActs c) c
  rw [aborted_stages, e, State.endAbortIfDone]
  split
  · exact ⟨_, setChan_setChan _ c _ _⟩
  · exact ⟨_, rfl⟩

/-! ## The end of the step -/

variable {s c}

theorem newlyDone_aborted {tag : Tag} : (s.aborted c).newlyDone s tag = (s.xchg tag).any (Exchange.endsWith c) := by
  obtain ⟨ch, e⟩ := aborted_chan s c
  rw [State.newlyDone, e, xchg_setChan, xchg_abortActs]
  cases s.xchg tag with
  | none => rfl
  | some x =>
    have step := aborted_complete c x
    rw [Option.map_some, Option.any_some, Option.any_some, Option.any_some, Bool.eq_iff_iff, Bool.and_eq_true, beq_iff_eq, step,
      Bool.not_eq_true', beq_eq_false_iff_ne]
    refine ⟨fun h => h.1.resolve_left h.2, fun ends => ⟨.inr ends, fun done => ?_⟩⟩
    simp [Exchange.endsWith, done] at ends

theorem ends_of_list (tag : Tag) (x : Exchange) (hx : (s.aborted c).xchg tag = some x)
    (done : (s.aborted c).newlyDone s tag = true) : ∃ d, x.owner = .list d := by
  obtain ⟨ch, e⟩ := aborted_chan s c
  rw [newlyDone_aborted] at done
  rw [e, xchg_setChan, xchg_abortActs] at hx
  obtain ⟨y, hy, rfl⟩ := Option.map_eq_some_iff.mp hx
  rw [hy, Option.any_some] at done
  simp only [Exchange.endsWith, Bool.and_eq_true, beq_iff_eq] at done
  exact ⟨c, by rw [aborted_owner]; exact done.1.1⟩

theorem creation_aborted (o : Owner) : (s.aborted c).table.creation o = s.table.creation o := by
  obtain ⟨ch, e⟩ := aborted_chan s c
  rw [e, State.setChan_table, creation_abortActs]

theorem ends_other (lists : ListsAgree s) {o : Owner} (other : o ≠ .list c) {tag : Tag} (mem : tag ∈ s.table.creation o) :
    (s.xchg tag).any (Exchange.endsWith c) = false := by
  obtain ⟨x, hx, rfl⟩ := (lists.mem o tag).mp mem
  simp [hx, Exchange.endsWith, other]

theorem ends_of_window (lists : ListsAgree s) : ∀ tag ∈ (s.aborted c).table.winList, (s.aborted c).newlyDone s tag = false :=
  fun tag mem => newlyDone_aborted.trans (ends_other lists (o := .window) (by simp) ((creation_aborted (c := c) .window) ▸ mem))

/-- What the command leaves before the deferred counts follow: the channel, and the completions in its list. -/
theorem handOver_aborted (lists : ListsAgree s) : ∃ tb, (s.aborted c).handOver s = { s.aborted c with table := tb } ∧
    tb.xs = (s.aborted c).table.xs ∧ tb.waitList = (s.aborted c).table.waitList ∧
    (∀ o, tb.creation o = s.table.creation o) ∧ ∀ d, tb.compl d = s.table.compl d ++
      if d = c then (s.table.creation (.list c)).filter (fun tag => (s.xchg tag).any (Exchange.endsWith c)) else [] := by
  have e := handOver_of_lists ends_of_list (ends_of_window (c := c) lists)
  refine ⟨_, e, rfl, rfl, fun o => ?_, fun d => ?_⟩
  · have kept := creation_handOver_of_lists ends_of_list (ends_of_window (c := c) lists) o
    rw [e] at kept
    exact kept.trans (creation_aborted o)
  · have taken := compl_handOver_of_lists ends_of_list (ends_of_window (c := c) lists) d
    rw [e] at taken
    refine taken.trans ?_
    obtain ⟨ch, e'⟩ := aborted_chan s c
    have old : (s.aborted c).table.compl d = s.table.compl d := by rw [e', State.setChan_table, compl_abortActs]
    rw [old, creation_aborted]
    refine congrArg _ ?_
    split
    · rename_i same
      rw [same]
      exact List.filter_congr fun tag _ => newlyDone_aborted
    · rename_i other
      exact List.filter_eq_nil_iff.mpr fun tag mem => by
        rw [newlyDone_aborted, ends_other lists (fun h => other (by injection h)) mem]
        simp

end

end Sys2Proof.Machine
end

section
/-! PROOF. LIST_ABORT: the channel afterwards, the marks and lists of the directory, and the obligation. -/

namespace Sys2Proof.Machine

variable {s : State} {c : Chan}

/-! ## The channel -/

/-- The channel has nothing in flight (R151). -/
def State.idles (s : State) (c : Chan) : Prop :=
  ¬(∃ tag x, s.xchg tag = some x ∧ x.owner = .list c) ∧ (s.chan c).portOp = none ∧
    ∀ r ∈ (s.chan c).queue, r.written = true ∨ r.faulted = true

/-- A queue record at a LIST_ABORT of its channel (R136, R142). -/
def State.abortedRec (s : State) (c : Chan) (r : QRec) : QRec :=
  if r.tag = none ∧ r.finished = false ∧ r.faulted = false then { r with finished := true, status := some .cancelled }
  else if r.written = false ∧ r.faulted = false ∧ (r.tag.bind s.xchg).any (Exchange.endsWith c) = true then
    { r with finished := true }
  else r

theorem abortedRec_flags (r : QRec) : (s.abortedRec c r).written = r.written ∧ (s.abortedRec c r).faulted = r.faulted := by
  unfold State.abortedRec
  split
  · exact ⟨rfl, rfl⟩
  · split <;> exact ⟨rfl, rfl⟩

theorem mem_hits_cancelSel (lists : ListsAgree s) (tag : Tag) :
    tag ∈ (s.aborting c).hits (cancelSel c) ((s.aborting c).table.creation (.list c)) ↔
      (s.xchg tag).any (Exchange.endsWith c) = true := by
  rw [State.hits, List.mem_filter, xchg_aborting, creation_aborting]
  cases hx : s.xchg tag with
  | none => simp
  | some x =>
    simp only [Option.any_some, cancelSel_eq]
    constructor
    · rintro ⟨_, hit⟩
      by_contra off
      simp [off] at hit
    · intro ends
      have own : x.owner = .list c := by
        simp only [Exchange.endsWith, Bool.and_eq_true, beq_iff_eq] at ends
        exact ends.1.1
      exact ⟨(lists.mem _ tag).mpr ⟨x, hx, own⟩, by simp [ends]⟩

/-- A NOP that has not finished is cancelled, and the records of cancelled exchanges are finished. -/
theorem abortedQueue (lists : ListsAgree s) (q : List QRec) :
    finishRecs ((s.aborting c).hits (cancelSel c) ((s.aborting c).table.creation (.list c))) (cancelNops q) =
      q.map (s.abortedRec c) := by
  rw [finishRecs, cancelNops, List.map_map]
  refine List.map_congr_left fun r _ => ?_
  have hit (tag : Tag) := mem_hits_cancelSel (c := c) lists tag
  generalize (s.aborting c).hits (cancelSel c) ((s.aborting c).table.creation (.list c)) = l at hit
  unfold State.abortedRec
  cases own : r.tag with
  | none =>
    by_cases nop : r.finished = false ∧ r.faulted = false
    · simp [own, nop]
    · rw [if_neg fun h => nop h.2, if_neg (by simp)]
      simp only [Function.comp_apply, own, Bool.not_eq_true', true_and, if_neg nop]
  | some tag =>
    have same : l.contains tag = (s.xchg tag).any (Exchange.endsWith c) := by
      rw [Bool.eq_iff_iff, List.contains_iff_mem]
      exact hit tag
    simp [own, hit, and_comm, and_left_comm, and_assoc]

theorem chan_abortActs (lists : ListsAgree s) : (s.abortActs c).chan c = { (s.aborting c).chan c with
    queue := (s.chan c).queue.map (s.abortedRec c) } := by
  rw [State.abortActs, chan_mapX, chan_cancelIssue, ← abortedQueue lists, chan_aborting]

theorem finishRecs_nil (q : List QRec) : finishRecs [] q = q := by
  rw [finishRecs]
  refine (List.map_congr_left fun r _ => ?_).trans (List.map_id q)
  cases r.tag <;> simp

theorem chan_abortActs_other (lists : ListsAgree s) {d : Chan} (other : d ≠ c) : (s.abortActs c).chan d = s.chan d := by
  have none' : (s.aborting c).hits (cancelSel c) ((s.aborting c).table.creation (.list d)) = [] :=
    List.filter_eq_nil_iff.mpr fun tag mem => by
      rw [creation_aborting] at mem
      obtain ⟨x, hx, own⟩ := (lists.mem _ tag).mp mem
      rw [xchg_aborting, hx, Option.any_some, cancelSel_eq]
      simp [Exchange.endsWith, own, other]
  rw [State.abortActs, chan_mapX, chan_cancelIssue, none', finishRecs_nil, chan_aborting_other s c other]

theorem anyX_abortActs : (s.abortActs c).anyX (fun x => x.owner == .list c) = true ↔
    ∃ tag x, s.xchg tag = some x ∧ x.owner = .list c := by
  rw [← Bool.not_eq_false, anyX_eq_false_iff]
  simp only [xchg_abortActs, Option.map_eq_some_iff]
  push Not
  constructor
  · rintro ⟨tag, y, ⟨x, hx, rfl⟩, own⟩
    rw [aborted_owner] at own
    exact ⟨tag, x, hx, by simpa using own⟩
  · rintro ⟨tag, x, hx, own⟩
    exact ⟨tag, _, ⟨x, hx, rfl⟩, by simp [aborted_owner, own]⟩

/-- The cancellation stands while the channel has an exchange (R20; log entry 16). -/
theorem settle_abortActs (lists : ListsAgree s) : ∃ cn, ((∃ tag x, s.xchg tag = some x ∧ x.owner = .list c) → cn = .abort) ∧
    (¬(∃ tag x, s.xchg tag = some x ∧ x.owner = .list c) → cn = .none) ∧
    (s.abortActs c).settleCancel c = (s.abortActs c).setChan c { (s.aborting c).chan c with
      queue := (s.chan c).queue.map (s.abortedRec c), cancel := cn } := by
  have chan := chan_abortActs (c := c) lists
  by_cases holds : ∃ tag x, s.xchg tag = some x ∧ x.owner = .list c
  · refine ⟨.abort, fun _ => rfl, fun h => absurd holds h, ?_⟩
    have same : { (s.aborting c).chan c with queue := (s.chan c).queue.map (s.abortedRec c), cancel := .abort } =
        (s.abortActs c).chan c := by rw [chan, chan_aborting]
    rw [same, setChan_chan, State.settleCancel, if_pos (anyX_abortActs.mpr holds)]
  · refine ⟨.none, fun h => absurd h holds, fun _ => rfl, ?_⟩
    rw [State.settleCancel, if_neg fun h => holds (anyX_abortActs.mp h), State.modChan, chan]

theorem nothingInFlight_settled {cn : Cancel} : ((s.abortActs c).setChan c { (s.aborting c).chan c with
    queue := (s.chan c).queue.map (s.abortedRec c), cancel := cn }).nothingInFlight c = true ↔ s.idles c := by
  rw [nothingInFlight_iff, chan_setChan_same]
  have records : (∀ tag x, ((s.abortActs c).setChan c { (s.aborting c).chan c with
      queue := (s.chan c).queue.map (s.abortedRec c), cancel := cn }).xchg tag = some x → x.owner ≠ .list c) ↔
      ¬(∃ tag x, s.xchg tag = some x ∧ x.owner = .list c) := by
    rw [← anyX_abortActs, Bool.not_eq_true, anyX_eq_false_iff]
    simp [xchg_setChan]
  have port : ((s.aborting c).chan c).portOp = none ↔ (s.chan c).portOp = none := by
    rw [chan_aborting]
    dsimp only
    split
    · rename_i fetch
      obtain ⟨b, e⟩ := fetch
      simp [e]
    · rfl
  have queue : (∀ r ∈ (s.chan c).queue.map (s.abortedRec c), r.written = true ∨ r.faulted = true) ↔
      ∀ r ∈ (s.chan c).queue, r.written = true ∨ r.faulted = true := by
    simp [abortedRec_flags]
  exact and_congr records (and_congr port queue)

theorem aborted_idle (lists : ListsAgree s) (idles : s.idles c) : (s.aborted c).chan c = { s.chan c with
    state := .idle, haltCause := none, cancel := .none, queue := [], pendingDesc := none } := by
  obtain ⟨cn, _, _, e⟩ := settle_abortActs (c := c) lists
  have none' : ¬∃ b, (s.chan c).portOp = some (.fetch b) := by simp [idles.2.1]
  rw [aborted_stages, e, State.endAbortIfDone, if_pos ⟨by rw [chan_setChan_same, chan_aborting], nothingInFlight_settled.mpr idles⟩,
    chan_modChan_same, chan_setChan_same, chan_aborting, if_neg none']

theorem aborted_busy (lists : ListsAgree s) (busy : ¬s.idles c) : ∃ cn,
    ((∃ tag x, s.xchg tag = some x ∧ x.owner = .list c) → cn = .abort) ∧
    (¬(∃ tag x, s.xchg tag = some x ∧ x.owner = .list c) → cn = .none) ∧ (s.aborted c).chan c = { s.chan c with
      state := .aborting, cancel := cn, pendingDesc := none
      portOp := if ∃ b, (s.chan c).portOp = some (.fetch b) then some (.fetch true) else (s.chan c).portOp
      queue := (s.chan c).queue.map (s.abortedRec c) } := by
  obtain ⟨cn, abort, none', e⟩ := settle_abortActs (c := c) lists
  refine ⟨cn, abort, none', ?_⟩
  rw [aborted_stages, e, State.endAbortIfDone, if_neg fun h => busy (nothingInFlight_settled.mp h.2), chan_setChan_same,
    chan_aborting]

/-! ## The directory -/

/-- A cancelled exchange to the station has an unknown outcome (R126). -/
def State.abortUnknown (s : State) (c : Chan) (n : Stn) : Bool := s.anyX fun x =>
  x.endsWith c && x.kind.nonIdem && x.unanswered && x.dest == .station n

/-- A cancelled READ to the station may have been deferred unheard (R20, R38). -/
def State.abortUnheard (s : State) (c : Chan) (n : Stn) : Bool := s.anyX fun x =>
  x.endsWith c && x.kind == .read && decide (0 < x.attempts) && x.dest == .station n && decide (1 ≤ (s.entry n).capacity)

theorem anyX_iff {p : Exchange → Bool} : s.anyX p = true ↔ ∃ tag x, s.xchg tag = some x ∧ p x = true := by
  rw [← Bool.not_eq_false, anyX_eq_false_iff]
  push Not
  simp

theorem mem_uncertainStns_abort (lists : ListsAgree s) {n : Stn} :
    n ∈ (s.aborting c).uncertainStns (cancelSel c) ↔ s.abortUnknown c n = true := by
  have lists' : ListsAgree (s.aborting c) :=
    ⟨fun o => by rw [creation_aborting]; exact lists.nodup o, fun o tag => by
      rw [creation_aborting, xchg_aborting]; exact lists.mem o tag⟩
  rw [State.abortUnknown, anyX_iff]
  constructor
  · intro mem
    obtain ⟨tag, x, hx, hit, doubt, dest⟩ := mem_uncertainStns mem
    rw [xchg_aborting] at hx
    have ends : x.endsWith c = true := by
      by_contra off
      simp [cancelSel_eq, off] at hit
    simp only [Exchange.uncertain, Bool.and_eq_true] at doubt
    exact ⟨tag, x, hx, by simp [ends, doubt, dest]⟩
  · rintro ⟨tag, x, hx, h⟩
    simp only [Bool.and_eq_true, beq_iff_eq] at h
    obtain ⟨⟨⟨ends, nonIdem⟩, unanswered⟩, dest⟩ := h
    exact mem_uncertainStns_of lists' (by rwa [xchg_aborting]) (by simp [cancelSel_eq, ends])
      (by simp [Exchange.uncertain, nonIdem, unanswered]) dest

theorem mem_cancelledReadStns_abort (lists : ListsAgree s) {n : Stn} :
    n ∈ (s.aborting c).cancelledReadStns c ↔ s.abortUnheard c n = true := by
  have entry (m : Stn) : (s.aborting c).entry m = s.entry m := entry_of_dir (dir_aborting s c) m
  rw [State.abortUnheard, anyX_iff]
  simp only [State.cancelledReadStns, List.mem_filterMap, creation_aborting, xchg_aborting, entry]
  refine exists_congr fun tag => ?_
  cases hx : s.xchg tag with
  | none => simp
  | some x =>
    have mem : x.endsWith c = true → tag ∈ s.table.creation (.list c) := fun ends => by
      simp only [Exchange.endsWith, Bool.and_eq_true, beq_iff_eq] at ends
      exact (lists.mem _ tag).mpr ⟨x, hx, ends.1.1⟩
    cases hd : x.dest with
    | broadcast => simp [hd]
    | station m =>
      by_cases ends : x.endsWith c = true
      · have here := mem ends
        by_cases own : m = n
        · subst own
          simp [hd, cancelSel_eq, ends, here, Nat.one_le_iff_ne_zero, and_assoc]
        · simp [hd, cancelSel_eq, ends, own]
      · simp [hd, cancelSel_eq, ends]

theorem entry_aborted (lists : ListsAgree s) (n : Stn) : (s.aborted c).entry n = { s.entry n with
    seqUncertain := (s.entry n).seqUncertain || s.abortUnknown c n
    purgeNeeded := (s.entry n).purgeNeeded || s.abortUnheard c n } := by
  have unknown : ((s.aborting c).uncertainStns (cancelSel c)).contains n = s.abortUnknown c n := by
    rw [Bool.eq_iff_iff, List.contains_iff_mem]
    exact mem_uncertainStns_abort lists
  have unheard : ((s.aborting c).cancelledReadStns c).contains n = s.abortUnheard c n := by
    rw [Bool.eq_iff_iff, List.contains_iff_mem]
    exact mem_cancelledReadStns_abort lists
  obtain ⟨ch, e⟩ := aborted_chan s c
  rw [e, entry_setChan, State.abortActs, entry_mapX, entry_cancelIssue, unknown, unheard, entry_of_dir (dir_aborting s c)]

theorem dir_aborted : (s.aborted c).dir = ((s.aborting c).cancelIssue c).dir := by
  obtain ⟨ch, e⟩ := aborted_chan s c
  rw [e]
  cases c <;> rfl

theorem mem_census_aborted (lists : ListsAgree s) {n : Stn} : n ∈ (s.aborted c).dir.census ↔
    n ∈ s.dir.census ∨ s.abortUnknown c n = true ∧ (s.entry n).state ≠ .disabled := by
  have before : ((s.aborting c).completeBatch (cancelSel c)).dir = s.dir := dir_aborting s c
  rw [dir_aborted, census_cancelIssue, State.complete, mem_census_noteUnknowns_iff, mem_uncertainStns_abort lists, before,
    entry_of_dir before]

theorem recovery_aborted (lists : ListsAgree s) : ∃ more, (s.aborted c).dir.recovery = s.dir.recovery ++ more ∧
    ∀ r ∈ more, r.2 = .purge ∧ s.abortUnheard c r.1 = true := by
  obtain ⟨more, e, only⟩ := recovery_setPurges ((s.aborting c).cancelledReadStns c) ((s.aborting c).complete (cancelSel c))
  refine ⟨more, ?_, fun r hr => ⟨(only r hr).1, (mem_cancelledReadStns_abort lists).mp (only r hr).2⟩⟩
  rw [dir_aborted, recovery_cancelIssue, e, recovery_complete, dir_aborting]

theorem mem_recovery_aborted (lists : ListsAgree s) {n : Stn} (unheard : s.abortUnheard c n = true)
    (clear : (s.entry n).purgeNeeded = false)
    (state : (s.entry n).state = .present ∨ (s.entry n).state = .suspect ∨ (s.entry n).state = .held) :
    ∃ act, (n, act) ∈ (s.aborted c).dir.recovery := by
  have entry := entry_complete (s.aborting c) (cancelSel c) n
  rw [entry_of_dir (dir_aborting s c)] at entry
  rw [dir_aborted, recovery_cancelIssue]
  exact mem_recovery_setPurges ((mem_cancelledReadStns_abort lists).mpr unheard) (by rw [entry]; exact clear)
    (by rw [entry]; exact state)

theorem reacts_abortActs_blocks : (s.aborted c).dir.changes = s.dir.changes ∧
    ∃ more, (s.aborted c).dir.census = s.dir.census ++ more := by
  have step := reacts_cancelIssue (s.aborting c) c
  rw [dir_aborted]
  refine ⟨step.changes.trans (by rw [dir_aborting]), ?_⟩
  obtain ⟨more, e⟩ := step.census
  exact ⟨more, e.trans (by rw [dir_aborting])⟩

end Sys2Proof.Machine
end

section
/-! PROOF. LIST_ABORT as a whole. -/

namespace Sys2Proof.Machine

variable {s : State} {c : Chan}

/-! ## The end of the step -/

theorem xchg_abortEnds (lists : ListsAgree s) (tag : Tag) :
    ((s.aborted c).endStep s).xchg tag = (s.xchg tag).map (·.aborted c) := by
  obtain ⟨tb, e, xs, _⟩ := handOver_aborted (c := c) lists
  obtain ⟨ch, e'⟩ := aborted_chan s c
  have same : { s.aborted c with table := tb }.xchg tag = (s.aborted c).xchg tag := by simp only [State.xchg, xs]
  rw [State.endStep, xchg_recount, e, same, e', xchg_setChan, xchg_abortActs]

theorem table_abortEnds (lists : ListsAgree s) (f : CmdFields) :
    let t := ((s.aborted c).endStep s).command .accepted 0x14 f
    t.table.compl c = s.table.compl c ++ (s.table.creation (.list c)).filter (fun tag => (s.xchg tag).any (Exchange.endsWith c)) ∧
    t.table.waitList = s.table.waitList.filter (fun e => e.1 != c) ∧ (∀ o, t.table.creation o = s.table.creation o) ∧
    ∀ d, d ≠ c → t.table.compl d = s.table.compl d := by
  intro t
  obtain ⟨tb, e, _, wait, creation, compl⟩ := handOver_aborted (c := c) lists
  have table : t.table = tb := by
    show ((s.aborted c).handOver s).table = tb
    rw [e]
  obtain ⟨ch, e'⟩ := aborted_chan s c
  have wait' : (s.aborted c).table.waitList = s.table.waitList.filter fun e => e.1 != c := by
    rw [e', State.setChan_table, waitList_abortActs]
  rw [table]
  refine ⟨by rw [compl, if_pos rfl], wait.trans wait', creation, fun d other => ?_⟩
  rw [compl, if_neg other, List.append_nil]

theorem entry_abortEnds (lists : ListsAgree s) (counts : CountsAgree s) (n : Stn) :
    ((s.aborted c).endStep s).entry n = { s.entry n with
      seqUncertain := (s.entry n).seqUncertain || s.abortUnknown c n
      purgeNeeded := (s.entry n).purgeNeeded || s.abortUnheard c n } := by
  have count : ((s.aborted c).handOver s).deferredOf n = s.deferredOf n := countX_congr fun tag => by
    have ends := xchg_abortEnds (c := c) lists tag
    rw [State.endStep, xchg_recount] at ends
    rw [ends]
    cases s.xchg tag with
    | none => rfl
    | some x => simp only [Option.map_some, Option.any_some, aborted_isDeferred, aborted_dest]
  rw [State.endStep, entry_recount, entry_of_dir (dir_handOver _ _), entry_aborted lists, count, ← counts n]

/-- The channels afterwards. -/
theorem chan_abortEnds (s : State) (c d : Chan) (f : CmdFields) :
    (((s.aborted c).endStep s).command .accepted 0x14 f).chan d = (s.aborted c).chan d := by
  rw [chan_command, chan_endStep]

theorem aborted_chan_other (lists : ListsAgree s) {d : Chan} (other : d ≠ c) : (s.aborted c).chan d = s.chan d := by
  obtain ⟨ch, e⟩ := aborted_chan s c
  rw [e, chan_setChan_other _ _ other, chan_abortActs_other lists other]

/-- The window and the interrupt causes are left alone. -/
theorem window_abortEnds (lists : ListsAgree s) :
    ((s.aborted c).endStep s).window = s.window ∧ ((s.aborted c).endStep s).irq = s.irq := by
  obtain ⟨tb, e, _⟩ := handOver_aborted (c := c) lists
  obtain ⟨ch, e'⟩ := aborted_chan s c
  obtain ⟨window, irq⟩ := window_abortActs s c
  have hand : ((s.aborted c).endStep s).window = (s.aborted c).window ∧ ((s.aborted c).endStep s).irq = (s.aborted c).irq := by
    show ((s.aborted c).handOver s).window = _ ∧ ((s.aborted c).handOver s).irq = _
    rw [e]
    exact ⟨rfl, rfl⟩
  have chan : (s.aborted c).window = (s.abortActs c).window ∧ (s.aborted c).irq = (s.abortActs c).irq := by
    rw [e']
    cases c <;> exact ⟨rfl, rfl⟩
  exact ⟨hand.1.trans (chan.1.trans window), hand.2.trans (chan.2.trans irq)⟩

theorem exec_listAbort {f : CmdFields} (idle : (s.chan f.chan).state ≠ .idle) (aborting : (s.chan f.chan).state ≠ .aborting) :
    exec (.listAbort f) s = .next (((s.aborted f.chan).endStep s).command .accepted 0x14 f) := by
  show execListAbort f s = _
  unfold execListAbort
  cases h : (s.chan f.chan).state with
  | idle => exact absurd h idle
  | aborting => exact absurd h aborting
  | running | paused | stopping | halted => rfl

/-! ## A record, case by case of R20 -/

section
variable {x : Exchange}

theorem aborted_ends (own : x.owner = .list c) (phase : x.phase = .issue) (state : x.state = .waiting ∨ x.state = .backoff) :
    x.aborted c = x.finish (Completion.plain .cancelled) := by
  have ends : x.endsWith c = true := by rcases state with e | e <;> simp [Exchange.endsWith, own, phase, e]
  rw [Exchange.aborted, if_pos own, if_pos ends]

theorem aborted_collect (own : x.owner = .list c) (phase : x.phase = .collect) :
    x.aborted c = abortCollect c (x.markFill .cancelled) :=
  aborted_of_open (by simp [Exchange.endsWith, phase]) own

/-- A record that is neither cancelled, marked nor abandoned stands. -/
theorem aborted_stands (own : x.owner = .list c) (off : x.state ≠ .filling)
    (stays : x.state = .complete ∨ x.state = .draining ∨ x.phase = .abandon ∨ x.phase = .issue ∧ x.state = .onLine) :
    x.aborted c = x := by
  have open' : x.endsWith c = false := by
    rcases stays with e | e | e | ⟨_, e⟩ <;> simp [Exchange.endsWith, e]
  rw [aborted_of_open open' own, markFill_other off, abortCollect]
  rcases stays with e | e | e | ⟨e, _⟩
  · rw [e, ite_self]
  · rw [e, ite_self]
  · rw [if_neg (by simp [e])]
  · rw [if_neg (by simp [e])]

end

/-- Settles O18: the records by `Exchange.aborted`, the channel by `aborted_idle` and `aborted_busy`, the directory by the
marks of the cancelled exchanges; the step completes exchanges of the channel alone. -/
theorem listAbort : Obligations.ListAbort := by
  intro f s lists
  refine ⟨fun idle => ?_, fun aborting => ?_, fun idle aborting => ?_⟩
  · show execListAbort f s = _
    rw [execListAbort, idle]
  · show execListAbort f s = _
    rw [execListAbort, aborting]
  intro ch ended unknown unheard holds done
  obtain ⟨compl, wait, creation, compl'⟩ := table_abortEnds (c := f.chan) lists f
  obtain ⟨window, irq⟩ := window_abortEnds (c := f.chan) lists
  have outer : ((s.aborted f.chan).endStep s).outer = s.outer := by rw [endStep_outer, aborted_outer]
  obtain ⟨census', recovery', changes'⟩ := dir_of_endStep (s.aborted f.chan) s
  obtain ⟨changes, more⟩ := reacts_abortActs_blocks (s := s) (c := f.chan)
  have xchg (tag : Tag) : (((s.aborted f.chan).endStep s).command .accepted 0x14 f).xchg tag =
      (s.xchg tag).map (·.aborted f.chan) := (xchg_command _ _ _ _ _).trans (xchg_abortEnds lists tag)
  refine ⟨_, exec_listAbort idle aborting, fun idles => ?idle, fun busy => ?busy, compl, wait, creation,
    fun d other => ⟨?other, compl' d other⟩, congrArg Outer.line outer, congrArg Outer.store outer, congrArg Outer.events outer,
    window, irq, congrArg Outer.sweep outer, congrArg Outer.pointer outer, congrArg Outer.portLast outer,
    congrArg Outer.views outer, congrArg Outer.freeCount outer, congrArg Outer.pending outer, ?regs, ?bus,
    changes'.trans changes, congrArg Outer.rediscovery outer, fun counts n => ?entry, fun n => ?census, ?more, ?recovery,
    fun n marked clear state => ?record, fun tag hx => ?free, fun tag x hx => ?records⟩
  case idle => rw [chan_abortEnds, aborted_idle lists idles]
  case busy =>
    obtain ⟨cn, abort, none', e⟩ := aborted_busy (c := f.chan) lists busy
    exact ⟨cn, abort, none', (chan_abortEnds s f.chan f.chan f).trans e⟩
  case other => rw [chan_abortEnds, aborted_chan_other lists other]
  case regs =>
    exact congrArg (fun r : Regs => { r with commandStatus := commandStatusWord .accepted 0x14 f }) (congrArg Outer.regs outer)
  case bus => exact congrArg (fun b : Bus => { b with answer := some .done }) (congrArg Outer.bus outer)
  case entry =>
    rw [entry_command]
    exact entry_abortEnds lists counts n
  case census =>
    show n ∈ ((s.aborted f.chan).endStep s).dir.census ↔ _
    rw [census']
    exact mem_census_aborted lists
  case more =>
    obtain ⟨m, e⟩ := more
    exact ⟨m, census'.trans e⟩
  case recovery =>
    obtain ⟨m, e, only⟩ := recovery_aborted (c := f.chan) lists
    exact ⟨m, recovery'.trans e, only⟩
  case record =>
    obtain ⟨act, mem⟩ := mem_recovery_aborted (c := f.chan) lists marked clear state
    exact ⟨act, by
      show _ ∈ ((s.aborted f.chan).endStep s).dir.recovery
      rwa [recovery']⟩
  case free => rw [xchg, hx, Option.map_none]
  case records =>
    rw [xchg, hx, Option.map_some]
    refine ⟨fun other => by rw [Exchange.aborted, if_neg other], fun own => ⟨fun phase state => ?_, fun phase state => ?_,
      fun phase state => ?_, fun phase state => ?_, fun phase state => ?_, fun phase _ off => ?_, fun state => ?_⟩⟩
    · rw [aborted_ends own phase state]
      rfl
    · rw [aborted_of_open (by simp [Exchange.endsWith, state]) own, markFill_filling state, abortCollect,
        if_neg (by simp [phase])]
    · rw [aborted_stands own (by simp [state]) (.inr (.inr (.inr ⟨phase, state⟩)))]
    · have off : x.state ≠ .filling := by rcases state with e | e | e <;> simp [e]
      rw [aborted_collect own phase, markFill_other off, abortCollect, if_pos ⟨own, phase⟩]
      rcases state with e | e | e <;> rw [e] <;> rfl
    · rw [aborted_collect own phase, markFill_other (by simp [state]), abortCollect, if_pos ⟨own, phase⟩, state]
    · rw [aborted_stands own off (.inr (.inr (.inl phase)))]
    · rw [aborted_stands own (by rcases state with e | e <;> simp [e]) (by tauto)]

end Sys2Proof.Machine
end

section
/-! PROOF. A sound reply that shows a restart: the bit that case 2 chooses, and what the later steps of the outcome leave of the
entry and of the other records. -/

namespace Sys2Proof.Machine

open Relation (ReflTransGen)

/-! ## The unanswered mark and the bit used -/

/-- The record keeps its unanswered mark and its bit used. -/
def SameBit (x y : Exchange) : Prop := y.unanswered = x.unanswered ∧ y.seqUsed = x.seqUsed

theorem SameBit.trans {x y z : Exchange} (h : SameBit x y) (k : SameBit y z) : SameBit x z :=
  ⟨k.1.trans h.1, k.2.trans h.2⟩

theorem Mend.sameBit {x y : Exchange} (h : Mend x y) : SameBit x y := by
  cases h with
  | stop h => cases h with
    | cancel => exact ⟨rfl, rfl⟩
    | mark m =>
      unfold Exchange.markFill
      split <;> exact ⟨rfl, rfl⟩
  | finish => exact ⟨rfl, rfl⟩
  | wake => exact ⟨rfl, rfl⟩

theorem Mend.sameBit_star {x y : Exchange} (h : ReflTransGen Mend x y) : SameBit x y := by
  induction h with
  | refl => exact ⟨rfl, rfl⟩
  | tail _ step ih => exact ih.trans step.sameBit

/-- The move keeps the mark and the bit, whether the exchange stays or completes. -/
def KeepsBit (x : Exchange) (m : Move × Exchange) : Prop := SameBit x m.2 ∧ ∀ y, m.1 = .stays y → SameBit x y

theorem keepsBit_complete {x z : Exchange} (h : SameBit x z) (c : Completion) (p : Bool) : KeepsBit x (.complete c p, z) :=
  ⟨h, fun _ e => by cases e⟩

theorem keepsBit_stays {x y z : Exchange} (h : SameBit x z) (k : SameBit x y) : KeepsBit x (.stays y, z) :=
  ⟨h, fun _ e => by cases e; exact k⟩

theorem keepsBit_lost (regs : Regs) (cap : Nat) (ab : Bool) (x : Exchange) (k : FaultKind) :
    KeepsBit x (lostMove regs cap ab x k, x) := by
  have stay {y : Exchange} (h : SameBit x y) : KeepsBit x (.stays y, x) := keepsBit_stays ⟨rfl, rfl⟩ h
  have comp (c : Completion) (p : Bool) : KeepsBit x (.complete c p, x) := keepsBit_complete ⟨rfl, rfl⟩ c p
  unfold lostMove
  split
  · exact stay ⟨rfl, rfl⟩
  · split
    · exact stay ⟨rfl, rfl⟩
    · split
      · unfold exhaustedIssue
        split
        · exact stay ⟨rfl, rfl⟩
        · exact comp _ _
      · exact stay ⟨rfl, rfl⟩
      · exact comp _ _

theorem keepsBit_soundFault (cap : Nat) (ab : Bool) (x : Exchange) (k : FaultKind) :
    KeepsBit x (soundFaultMove cap ab x k, x) := by
  unfold soundFaultMove
  split
  · exact keepsBit_complete ⟨rfl, rfl⟩ _ _
  · split
    · exact keepsBit_stays ⟨rfl, rfl⟩ ⟨rfl, rfl⟩
    · exact keepsBit_complete ⟨rfl, rfl⟩ _ _
  · exact keepsBit_complete ⟨rfl, rfl⟩ _ _

theorem keepsBit_reply (regs : Regs) (cap : Nat) (ab : Bool) (x : Exchange) (r : Reply) :
    KeepsBit x (replyMove regs cap ab x r) := by
  have stay {y : Exchange} (h : SameBit x y) : KeepsBit x (.stays y, x) := keepsBit_stays ⟨rfl, rfl⟩ h
  have comp (c : Completion) (p : Bool) : KeepsBit x (.complete c p, x) := keepsBit_complete ⟨rfl, rfl⟩ c p
  unfold replyMove
  split
  · unfold busyMove
    dsimp only
    split
    · exact keepsBit_stays ⟨rfl, rfl⟩ ⟨rfl, rfl⟩
    · exact keepsBit_complete ⟨rfl, rfl⟩ _ _
  · exact comp _ _
  · exact comp _ _
  · split
    · exact stay ⟨rfl, rfl⟩
    · exact comp _ _
  · split <;> exact stay ⟨rfl, rfl⟩
  · split
    · exact comp _ _
    · split
      · exact stay ⟨rfl, rfl⟩
      · exact comp _ _
  · split <;> exact comp _ _
  all_goals exact comp _ _

theorem keepsBit_moveOf (s : State) (x : Exchange) (v : Verdict) : KeepsBit (heard x v) (s.moveOf x v) := by
  have outcome : KeepsBit (heard x v) (outcomeMove s.regs (s.capacityOf x.dest) (s.cancelOf x.owner == .abort) (heard x v) v) := by
    unfold outcomeMove
    split
    · exact keepsBit_reply _ _ _ _ _
    · exact keepsBit_soundFault _ _ _ _
    · exact keepsBit_lost _ _ _ _ _
    · exact keepsBit_complete ⟨rfl, rfl⟩ _ _
  unfold State.moveOf
  dsimp only
  generalize outcomeMove s.regs (s.capacityOf x.dest) (s.cancelOf x.owner == .abort) (heard x v) v = m at outcome
  obtain ⟨m, z⟩ := m
  cases m with
  | complete c p => exact outcome
  | stays y =>
    have kept := outcome.2 y rfl
    unfold cancelMove
    split
    · rename_i e
      cases e
    · rename_i e
      cases e
      split
      · exact keepsBit_complete kept _ _
      · split
        · exact keepsBit_stays kept (kept.trans ⟨rfl, rfl⟩)
        · exact outcome

/-! ## The bit of case 2 (R129) -/

theorem findSome?_one {α β : Type} {f : α → Option β} {a : α} {b : β} {l : List α} (mem : a ∈ l) (own : f a = some b)
    (others : ∀ a' ∈ l, a' ≠ a → f a' = none) : l.findSome? f = some b := by
  induction l with
  | nil => cases mem
  | cons c l ih =>
    by_cases h : c = a
    · rw [h, List.findSome?_cons, own]
    · rw [List.findSome?_cons, others c List.mem_cons_self h]
      exact ih ((List.mem_cons.mp mem).resolve_left (Ne.symm h)) fun a' m => others a' (List.mem_cons_of_mem _ m)

theorem unsettledBit_none {s : State} {n : Stn} (own : Tag)
    (answered : ∀ tag x, s.xchg tag = some x → x.unansweredAt n = false) : s.unsettledBit n own = none := by
  have none' (p : Exchange → Bool) (t : Tag) :
      ((s.xchg t).bind fun x => if p x && x.unansweredAt n then x.seqUsed else none) = none := by
    cases hx : s.xchg t with
    | none => rfl
    | some x => simp [answered t x hx]
  unfold State.unsettledBit
  simp only [none', List.findSome?_eq_none_iff.mpr fun _ _ => rfl, Option.or_none]

/-- The one request in doubt gives the bit, finished or not (R129; log entry 35). -/
theorem unsettledBit_one {s : State} {n : Stn} (own : Tag) {tag : Tag} {x : Exchange} {b : Bool} (hx : s.xchg tag = some x)
    (unanswered : x.unansweredAt n = true) (bit : x.seqUsed = some b)
    (others : ∀ t' y, t' ≠ tag → s.xchg t' = some y → y.unansweredAt n = false) : s.unsettledBit n own = some b := by
  have none' (p : Exchange → Bool) {t : Tag} (other : t ≠ tag) :
      ((s.xchg t).bind fun x => if p x && x.unansweredAt n then x.seqUsed else none) = none := by
    cases hy : s.xchg t with
    | none => rfl
    | some y => simp [others t y other hy]
  have here (p : Exchange → Bool) :
      ((s.xchg tag).bind fun x => if p x && x.unansweredAt n then x.seqUsed else none) = if p x then some b else none := by
    simp [hx, unanswered, bit]
  have all : (allTags.findSome? fun t => (s.xchg t).bind fun x => if true && x.unansweredAt n then x.seqUsed else none) = some b :=
    findSome?_one (mem_allTags tag) (here fun _ => true) fun t _ other => none' (fun _ => true) other
  have live : (allTags.findSome? fun t => (s.xchg t).bind fun x => if x.live && x.unansweredAt n then x.seqUsed else none) =
      if x.live then some b else none := by
    split
    · rename_i e
      exact findSome?_one (mem_allTags tag) ((here Exchange.live).trans (if_pos e)) fun t _ other => none' Exchange.live other
    · rename_i e
      refine List.findSome?_eq_none_iff.mpr fun t _ => ?_
      by_cases h : t = tag
      · rw [h]
        exact (here Exchange.live).trans (if_neg e)
      · exact none' Exchange.live h
  have ownBit : ((s.xchg own).bind fun x => if true && x.unansweredAt n then x.seqUsed else none).or (some b) = some b := by
    by_cases h : own = tag
    · rw [h]
      exact (congrArg (·.or (some b)) (here fun _ => true))
    · rw [none' (fun _ => true) h]
      rfl
  unfold State.unsettledBit
  simp only [live, all, ownBit]
  cases x.live <;> rfl

/-! ## The later steps of the outcome -/

/-- What the steps after a restart leave: the epoch that the reply brought, the change summary's mark, and the sequence bit
where the reply is not a census (`bit`). -/
structure After (n : Stn) (e : BitVec 4) (bit : Prop) (s t : State) : Prop where
  epoch : (s.entry n).epoch = some e → (t.entry n).epoch = some e
  changes : maskHas s.dir.changes n = true → maskHas t.dir.changes n = true
  seqBit : bit → (t.entry n).seqBit = (s.entry n).seqBit

section
variable {n : Stn} {e : BitVec 4} {bit : Prop}

theorem After.refl (s : State) : After n e bit s s := ⟨id, id, fun _ => rfl⟩

theorem After.trans {s t u : State} (h : After n e bit s t) (k : After n e bit t u) : After n e bit s u :=
  ⟨k.epoch ∘ h.epoch, k.changes ∘ h.changes, fun b => (k.seqBit b).trans (h.seqBit b)⟩

theorem After.of_entry {s t : State} (epoch : (t.entry n).epoch = (s.entry n).epoch)
    (seqBit : (t.entry n).seqBit = (s.entry n).seqBit)
    (changes : maskHas s.dir.changes n = true → maskHas t.dir.changes n = true) : After n e bit s t :=
  ⟨fun h => epoch.trans h, changes, fun _ => seqBit⟩

theorem After.of_reacts {R : Exchange → Exchange → Prop} {s t : State} (h : Reacts R s t) : After n e bit s t := by
  obtain ⟨u, p, _, _, marked⟩ := h.entry n
  exact .of_entry (by rw [marked]) (by rw [marked]) fun k => by rwa [h.changes]

theorem After.of_dir {s t : State} (h : t.dir = s.dir) : After n e bit s t :=
  .of_entry (by rw [entry_of_dir h]) (by rw [entry_of_dir h]) fun k => by rwa [h]

theorem changes_moveTo (s : State) (st : StnState) (m : Stn) (h : maskHas s.dir.changes n = true) :
    maskHas (s.moveTo m st).dir.changes n = true := by
  show (s.dir.changes ||| maskOf m).getLsbD (addrOf n) = true
  rw [BitVec.getLsbD_or, show s.dir.changes.getLsbD (addrOf n) = true from h, Bool.true_or]

theorem After.moveTo (s : State) (st : StnState) : After n e bit s (s.moveTo n st) :=
  .of_entry (by simp) (by simp) (changes_moveTo s st n)

/-- An update of the entry that keeps its epoch and its bit. -/
theorem After.modEntry (s : State) {f : Entry → Entry} (epoch : (f (s.entry n)).epoch = (s.entry n).epoch)
    (seqBit : (f (s.entry n)).seqBit = (s.entry n).seqBit) : After n e bit s (s.modEntry n f) :=
  .of_entry (by simp [epoch]) (by simp [seqBit]) id

theorem After.takeIdent (s : State) (b : Bool) (i : Identity) : After n e False s (s.takeIdent n b e i) := by
  have entry (u : State) : ((u.placePurge n).entry n) = u.entry n := entry_placePurge u n n
  have dir (u : State) : (u.placePurge n).dir.changes = u.dir.changes := by
    unfold State.placePurge
    split <;> rfl
  have adopt (s : State) : After n e False s (s.modEntry n fun en => { en.adopt i with epoch := some e }) :=
    ⟨fun _ => by simp, id, False.elim⟩
  have resync (u : State) : After n e False u ((u.moveTo n .resync).placePurge n) :=
    (After.moveTo u .resync).trans (.of_entry (by rw [entry]) (by rw [entry]) fun k => by rwa [dir])
  have comes : After n e False s (s.comesIn n e i) := by
    unfold State.comesIn
    dsimp only
    refine (adopt s).trans ?_
    split
    · exact (After.modEntry _ rfl rfl).trans (.moveTo _ _)
    · split
      · exact resync _
      · exact (After.modEntry _ rfl rfl).trans (.moveTo _ _)
    all_goals exact resync _
  have checks : After n e False s (s.checkIdent n b i) := by
    have noted (u : State) : After n e False u (u.noteChange n) := ⟨id, changes_moveTo u .present n, False.elim⟩
    have mod (f : Entry → Entry) (h : (f (s.entry n)).epoch = (s.entry n).epoch) : After n e False s (s.modEntry n f) :=
      ⟨fun k => by simpa [h] using k, id, False.elim⟩
    unfold State.checkIdent
    dsimp only
    split
    · exact mod _ rfl
    · split
      · exact mod _ rfl
      · exact (mod _ rfl).trans (noted _)
  unfold State.takeIdent
  split <;> first | exact comes | exact checks

theorem After.censusFailed (s : State) (st : CensusStatus) : After n e bit s (s.censusFailed n st) := by
  unfold State.censusFailed
  dsimp only
  split
  · exact (After.modEntry _ rfl rfl).trans (.of_reacts (reacts_joinCensus (R := Stop) _ n))
  · exact .modEntry _ rfl rfl

theorem After.purgeAccepted (s : State) : After n e bit s (s.purgeAccepted n) := by
  unfold State.purgeAccepted
  dsimp only
  split
  · exact (After.modEntry _ rfl rfl).trans (.moveTo _ _)
  · exact .modEntry _ rfl rfl

theorem After.eventFetched (s : State) (r : Reply) : After n e bit s (s.eventFetched n r) := by
  have first : After n e bit s (s.modEntry n fun e => { e with eventPending := false }) := .modEntry s rfl rfl
  unfold State.eventFetched
  dsimp only
  split
  · exact first.trans (.of_dir rfl)
  all_goals exact first

theorem After.ownerActs (s : State) {x : Exchange} {v : Verdict} {h : ReplyHead} (head : v.head = some h)
    (kind : x.kind ≠ .stationReset) (own : Tag) (b : Bool) (m : Move) :
    After n h.epoch (x.kind ≠ .census) s (s.ownerActs n own x b m v) := by
  unfold State.ownerActs
  split
  · exact .refl s
  · split
    · rename_i census
      cases head
      exact ⟨(After.takeIdent s b _).epoch, (After.takeIdent s b _).changes, fun off => absurd census off⟩
    · exact .censusFailed s _
    · exact .purgeAccepted s
    · rename_i reset
      exact absurd reset kind
    · split
      · exact .eventFetched s _
      · exact .refl s
    · exact .refl s

theorem After.heardFrom (s : State) : After n e bit s (s.heardFrom n) := by
  refine .of_entry (by simp) (by simp) fun h => ?_
  show maskHas (if _ then s.dir.changes ||| 1#32 <<< addrOf n else s.dir.changes) n = true
  split
  · show (s.dir.changes ||| 1#32 <<< addrOf n).getLsbD (addrOf n) = true
    rw [BitVec.getLsbD_or, show s.dir.changes.getLsbD (addrOf n) = true from h, Bool.true_or]
  · exact h

theorem After.declareSilent (s : State) : After n e bit s (s.declareSilent n) := by
  have shut : After n e bit s (s.shut n) :=
    .of_entry (by rw [entry_shut]) (by rw [entry_shut]) (changes_moveTo s .silent n)
  exact shut.trans (.of_reacts (reacts_declareSilent s n))

theorem After.takeAttention (s : State) (own : Tag) {v : Verdict} {h : ReplyHead} (head : v.head = some h) :
    After n e bit s (s.takeAttention n own v) := by
  refine .of_entry (by rw [entry_takeAttention s n own head]) (by rw [entry_takeAttention s n own head]) fun k => ?_
  have ready (u : State) : (u.readySign n (some own)).dir.changes = u.dir.changes := by
    unfold State.readySign
    split <;> rfl
  have event (u : State) : (u.eventSign n).dir.changes = u.dir.changes := by
    unfold State.eventSign
    split <;> rfl
  simp only [State.takeAttention, head]
  split <;> split <;> simpa only [event, ready] using k

end

/-! ## The outcome from the restart on -/

/-- The rest of the outcome after the restart leaves the epoch, the change summary's mark and, but for a census, the bit; and
records change by reactions alone. -/
theorem after_directoryActs {s : State} {n : Stn} {own : Tag} {x : Exchange} {m : Move} {v : Verdict} {h : ReplyHead}
    (head : v.head = some h) (restart : s.showsRestart n v = true) (kind : x.kind ≠ .stationReset) :
    After n h.epoch (x.kind ≠ .census) (s.takeRestart n own x v) (s.directoryActs n own x m v) ∧
      Mended (s.takeRestart n own x v) (s.directoryActs n own x m v) := by
  have counted (u : State) : u.countOutcome n v = u.heardFrom n := countOutcome_sound u n head
  have bit (u : State) : u.setSeqBit n x (s.showsRestart n v) v = u := by simp [State.setSeqBit, restart]
  have purged (u : State) : After n h.epoch (x.kind ≠ .census) u (if m.purges then u.setPurge n else u) ∧
      Mended u (if m.purges then u.setPurge n else u) := by
    split
    · exact ⟨.of_reacts (reacts_setPurge (R := Stop) u n), .of_table (onlyDir_setPurge u n).table⟩
    · exact ⟨.refl u, .refl u⟩
  have silent (u : State) (b : Bool) : After n h.epoch (x.kind ≠ .census) u (if b then u.declareSilent n else u) ∧
      Mended u (if b then u.declareSilent n else u) := by
    split
    · exact ⟨.declareSilent u, mended_declareSilent u n⟩
    · exact ⟨.refl u, .refl u⟩
  unfold State.directoryActs
  dsimp only
  rw [counted, bit]
  generalize s.takeRestart n own x v = w
  have acts := After.ownerActs (n := n) w head kind own (s.showsRestart n v) m
  have acts' := mended_ownerActs w n own x (s.showsRestart n v) m v
  generalize w.ownerActs n own x (s.showsRestart n v) m v = a at acts acts' ⊢
  obtain ⟨p, p'⟩ := purged (a.heardFrom n)
  generalize (if m.purges = true then (a.heardFrom n).setPurge n else a.heardFrom n) = b at p p' ⊢
  obtain ⟨q, q'⟩ := silent b (w.ownSilent n x m v || (a.heardFrom n).thresholdSilent n v)
  generalize (if (w.ownSilent n x m v || (a.heardFrom n).thresholdSilent n v) = true then b.declareSilent n else b) = c
    at q q' ⊢
  have done : ((c.takeAttention n own v).censusDone x m).dir = (c.takeAttention n own v).dir := changes_censusDone _ x m
  exact ⟨(((acts.trans (.heardFrom a)).trans p).trans q).trans ((After.takeAttention c own head).trans (.of_dir done)),
    (((acts'.trans (.of_table rfl)).trans p').trans q').trans
      ((mended_takeAttention c n own v).trans (.of_table (censusDone_table _ x m)))⟩

end Sys2Proof.Machine
end

section
/-! PROOF. A restart ends the station's deferred exchanges; the sequence bit afterwards, and the two faults of the window. -/

namespace Sys2Proof.Machine

open Relation (ReflTransGen)

/-! ## The restart -/

/-- The station's other deferred exchanges have ended, and the channels have reacted (R19, R128). -/
def State.restarted (s : State) (n : Stn) (own : Tag) : State := (s.complete (restartSel n own)).stopOnFailures

section
variable {s : State} {n : Stn} {own : Tag} {x : Exchange} {v : Verdict} {h : ReplyHead}

theorem takeRestart_table (restart : s.showsRestart n v = true) : (s.takeRestart n own x v).table = (s.restarted n own).table := by
  rw [State.takeRestart, if_pos restart]
  rfl

theorem takeRestart_entry (restart : s.showsRestart n v = true) (head : v.head = some h) :
    ((s.takeRestart n own x v).entry n).epoch = some h.epoch ∧ maskHas (s.takeRestart n own x v).dir.changes n = true ∧
      ((s.takeRestart n own x v).entry n).seqBit =
        if confirms x.kind v then !(x.seqUsed.getD false) else ((s.restarted n own).unsettledBit n own).getD false := by
  rw [State.takeRestart, if_pos restart]
  dsimp only
  refine ⟨?_, maskHas_maskAdd _ n, ?_⟩
  · rw [entry_noteChange, entry_modEntry, if_pos rfl, head]
    rfl
  · rw [entry_noteChange, entry_modEntry, if_pos rfl]
    rfl

/-- A deferred exchange of the station other than the reply's own has ended STATION_RESTARTED. -/
theorem restarted_ends {tag : Tag} {y : Exchange} (hy : s.xchg tag = some y) (dest : y.dest = .station n)
    (deferred : y.isDeferred = true) (other : tag ≠ own) :
    (s.restarted n own).xchg tag = some (y.finish (Completion.plain .stationRestarted)) := by
  refine (mended_stopOnFailures _).finished ?_ rfl
  rw [xchg_complete, hy, Option.map_some, afterSel, restartSel, if_pos ⟨dest, deferred, other⟩]

/-- Any other record of the window is left alone. -/
theorem restarted_stays {tag : Tag} {y : Exchange} (hy : s.xchg tag = some y) (window : y.owner = .window)
    (off : y.isDeferred = false ∨ tag = own ∨ y.dest ≠ .station n) : (s.restarted n own).xchg tag = some y := by
  refine xchg_stopOnFailures_other ?_ fun c => by simp [window]
  rw [xchg_complete, hy, Option.map_some, afterSel, restartSel, if_neg]
  rintro ⟨dest, deferred, other⟩
  rcases off with e | e | e
  · rw [e] at deferred
    cases deferred
  · exact other e
  · exact e dest

end

/-- What stopping a channel does to a deferred exchange. -/
theorem Stop.deferred_star {x y : Exchange} (h : ReflTransGen Stop x y) (live : x.live = true) (phase : x.phase ≠ .issue) :
    y.isDeferred = true ∧ y.dest = x.dest := by
  have first : x.isDeferred = true := by simp [Exchange.isDeferred, live, phase]
  suffices y.isDeferred = true ∧ y.dest = x.dest ∧ y.phase = x.phase from ⟨this.1, this.2.1⟩
  induction h with
  | refl => exact ⟨first, rfl, rfl⟩
  | tail _ step ih =>
    obtain ⟨deferred, dest, same⟩ := ih
    cases step with
    | cancel issue => exact absurd (same.symm.trans issue) phase
    | mark m =>
      have kept (z : Exchange) : (z.markFill m).isDeferred = z.isDeferred ∧ (z.markFill m).dest = z.dest ∧
          (z.markFill m).phase = z.phase := by
        unfold Exchange.markFill
        split <;> exact ⟨rfl, rfl, rfl⟩
      obtain ⟨d, e, p⟩ := kept _
      exact ⟨d.trans deferred, e.trans dest, p.trans same⟩

/-! ## The report of a reply that shows a restart -/

/-- The state after the move of a reply's exchange, before the directory acts. -/
def State.atMove (s : State) (tag : Tag) (x : Exchange) (v : Verdict) : State :=
  (s.keepPayload x v).applyMove tag (s.moveOf x v)

section
variable {s : State} {tag : Tag} {x : Exchange} {n : Stn} {v : Verdict} {h : ReplyHead} {e : BitVec 4}

theorem atMove_restart (head : v.head = some h) (epoch : (s.entry n).epoch = some e) (differs : h.epoch ≠ e) :
    (s.atMove tag x v).showsRestart n v = true := by
  have payload : (s.keepPayload x v).entry n = s.entry n := by
    unfold State.keepPayload
    split <;> rfl
  obtain ⟨u, p, _, _, marked⟩ := marked_applyMove (s.keepPayload x v) tag (s.moveOf x v) n
  have kept : ((s.atMove tag x v).entry n).epoch = some e := by
    rw [State.atMove, marked, payload]
    exact epoch
  rw [State.showsRestart, head, kept]
  simp [differs]

theorem movedBy_station (dest : x.dest = .station n) :
    s.movedBy tag x v = (s.atMove tag x v).directoryActs n tag x (s.moveOf x v).1 v := by
  unfold State.movedBy
  rw [dest]
  rfl

/-- The own record after its move keeps the request, and the mark and the bit as the reply leaves them. -/
theorem atMove_own (onLine : x.state = .onLine) : ∃ y, (s.atMove tag x v).xchg tag = some y ∧ SameRequest x y ∧
    SameBit (heard x v) y := by
  have good := goodMove_moveOf s x v onLine
  have bit := keepsBit_moveOf s x v
  unfold State.atMove
  generalize s.moveOf x v = m at good bit ⊢
  obtain ⟨m, z⟩ := m
  cases m with
  | stays y => exact ⟨y, by simp [State.applyMove], (good.stays y rfl).1, bit.2 y rfl⟩
  | complete c p =>
    refine ⟨z.finish c, completeOne_xchg c (by simp), ?_, bit.1.trans ⟨rfl, rfl⟩⟩
    exact good.before.trans ⟨rfl, rfl, rfl, rfl, rfl, rfl, rfl, rfl⟩

/-- The own record when the bit is chosen. -/
theorem restarted_own (onLine : x.state = .onLine) : ∃ y, ((s.atMove tag x v).restarted n tag).xchg tag = some y ∧
    SameRequest x y ∧ SameBit (heard x v) y := by
  obtain ⟨y, hy, same, bit⟩ := atMove_own (s := s) (tag := tag) (v := v) onLine
  obtain ⟨z, hz, mend⟩ := (mended_restart (s.atMove tag x v) n tag).some hy
  exact ⟨z, hz, same.trans (Mend.sameRequest_star mend), bit.trans (Mend.sameBit_star mend)⟩

/-- Another record when the bit is chosen. -/
theorem restarted_other {t' : Tag} (other : t' ≠ tag) :
    Option.Rel (fun y z => SameRequest y z ∧ SameBit y z) (s.xchg t') (((s.atMove tag x v).restarted n tag).xchg t') := by
  have first := afterMove_other (s := s) (x := x) (v := v) other
  have second := mended_restart (s.atMove tag x v) n tag t'
  have moved : (s.atMove tag x v).xchg t' = ((s.keepPayload x v).applyMove tag (s.moveOf x v)).xchg t' := rfl
  rw [moved] at second
  generalize s.xchg t' = a at first ⊢
  generalize ((s.keepPayload x v).applyMove tag (s.moveOf x v)).xchg t' = b at first second
  change Option.Rel _ b (((s.atMove tag x v).restarted n tag).xchg t') at second
  generalize ((s.atMove tag x v).restarted n tag).xchg t' = c at second ⊢
  cases first with
  | none => cases second; exact .none
  | some step => cases second with
    | some step' =>
      have all := (Stop.mends step).trans step'
      exact .some ⟨Mend.sameRequest_star all, Mend.sameBit_star all⟩

theorem unansweredAt_of_same {x y : Exchange} (same : SameRequest x y) (mark : y.unanswered = x.unanswered) (n : Stn) :
    y.unansweredAt n = x.unansweredAt n := by
  rw [Exchange.unansweredAt, Exchange.unansweredAt, same.kind, same.dest, mark]

theorem unansweredAt_heard {y : Exchange} (same : SameRequest x y) (bit : SameBit (heard x v) y) :
    y.unansweredAt n = (heard x v).unansweredAt n := by
  have request := sameRequest_heard x v
  rw [Exchange.unansweredAt, Exchange.unansweredAt, same.kind, same.dest, bit.1, request.kind, request.dest]

theorem seqUsed_heard (x : Exchange) (v : Verdict) : (heard x v).seqUsed = x.seqUsed := by
  unfold heard
  split <;> rfl

/-- No other record is unanswered when the bit is chosen, where none was. -/
theorem restarted_answered {t' : Tag} (other : t' ≠ tag) (answered : ∀ y, s.xchg t' = some y → y.unansweredAt n = false)
    {z : Exchange} (hz : ((s.atMove tag x v).restarted n tag).xchg t' = some z) : z.unansweredAt n = false := by
  have step := restarted_other (s := s) (x := x) (n := n) (v := v) other
  rw [hz] at step
  generalize hy : s.xchg t' = a at step answered
  cases step with
  | some step =>
    rw [unansweredAt_of_same step.1 step.2.1]
    exact answered _ rfl

/-- Where no other record is unanswered and the own one is not, there is no bit to choose. -/
theorem restartBit_none (onLine : x.state = .onLine) (own : (heard x v).unansweredAt n = false)
    (others : ∀ t' y, t' ≠ tag → s.xchg t' = some y → y.unansweredAt n = false) :
    ((s.atMove tag x v).restarted n tag).unsettledBit n tag = none := by
  refine unsettledBit_none tag fun t' y hy => ?_
  by_cases h : t' = tag
  · obtain ⟨z, hz, same, bit⟩ := restarted_own (s := s) (tag := tag) (n := n) (v := v) onLine
    rw [h, hz] at hy
    cases hy
    rw [unansweredAt_heard same bit, own]
  · exact restarted_answered h (fun y hy => others t' y h hy) hy

/-- The own request is the one in doubt. -/
theorem restartBit_own (onLine : x.state = .onLine) (own : (heard x v).unansweredAt n = true) {b : Bool}
    (used : x.seqUsed = some b) (others : ∀ t' y, t' ≠ tag → s.xchg t' = some y → y.unansweredAt n = false) :
    ((s.atMove tag x v).restarted n tag).unsettledBit n tag = some b := by
  obtain ⟨z, hz, same, bit⟩ := restarted_own (s := s) (tag := tag) (n := n) (v := v) onLine
  refine unsettledBit_one tag hz ?_ ?_ fun t' y other hy => restarted_answered other (fun y hy => others t' y other hy) hy
  · rw [unansweredAt_heard same bit, own]
  · rw [bit.2, seqUsed_heard, used]

/-- Another request is the one in doubt. -/
theorem restartBit_other (onLine : x.state = .onLine) (own : (heard x v).unansweredAt n = false) {t' : Tag} {y : Exchange}
    {b : Bool} (other : t' ≠ tag) (hy : s.xchg t' = some y) (unanswered : y.unansweredAt n = true) (used : y.seqUsed = some b)
    (others : ∀ t'' z, t'' ≠ t' → s.xchg t'' = some z → z.unansweredAt n = false) :
    ((s.atMove tag x v).restarted n tag).unsettledBit n tag = some b := by
  have step := restarted_other (s := s) (x := x) (n := n) (v := v) other
  rw [hy] at step
  generalize hz : ((s.atMove tag x v).restarted n tag).xchg t' = a at step
  cases step with
  | @some _ z step =>
    refine unsettledBit_one tag hz ?_ (step.2.2.trans used) fun t'' w differs hw => ?_
    · rw [unansweredAt_of_same step.1 step.2.1, unanswered]
    · by_cases h : t'' = tag
      · obtain ⟨w', hw', same, bit⟩ := restarted_own (s := s) (tag := tag) (n := n) (v := v) onLine
        rw [h, hw'] at hw
        cases hw
        rw [unansweredAt_heard same bit, own]
      · exact restarted_answered h (fun z hz => others t'' z differs hz) hw

/-! ## The end of the step -/

/-- What the reply that shows a restart leaves (R127 to R129): the entry, the change summary, the ended deferrals. -/
structure RestartLeaves (s : State) (tag : Tag) (x : Exchange) (n : Stn) (v : Verdict) (h : ReplyHead) (t : State) : Prop where
  epoch : (t.entry n).epoch = some h.epoch
  changes : maskHas t.dir.changes n = true
  ended : ∀ t' y z, t' ≠ tag → s.xchg t' = some y → y.dest = .station n → y.live = true → y.phase ≠ .issue →
    t.xchg t' = some z → z.live = false ∧ z.result.map (·.status) = some .stationRestarted
  seqBit : x.kind ≠ .census → (t.entry n).seqBit =
    if confirms x.kind v then !(x.seqUsed.getD false)
    else (((s.atMove tag x v).restarted n tag).unsettledBit n tag).getD false

theorem restartLeaves (dest : x.dest = .station n) (head : v.head = some h) (epoch : (s.entry n).epoch = some e)
    (differs : h.epoch ≠ e) (kind : x.kind ≠ .stationReset) :
    RestartLeaves s tag x n v h ((s.movedBy tag x v).endStep s) := by
  have restart := atMove_restart (tag := tag) (x := x) head epoch differs
  obtain ⟨epoch', changes, seqBit⟩ := takeRestart_entry (own := tag) (x := x) restart head
  obtain ⟨after, mended⟩ := after_directoryActs (own := tag) (m := (s.moveOf x v).1) head restart kind
  rw [← movedBy_station dest] at after mended
  obtain ⟨d, ended⟩ := entry_endStep (s.movedBy tag x v) s n
  refine ⟨?_, ?_, fun t' y z other hy destY live phase hz => ?_, fun census => ?_⟩
  · rw [ended]
    exact after.epoch epoch'
  · rw [(dir_of_endStep _ s).2.2]
    exact after.changes changes
  · have step := afterMove_other (s := s) (x := x) (v := v) other
    rw [hy] at step
    generalize hm : ((s.keepPayload x v).applyMove tag (s.moveOf x v)).xchg t' = a at step
    cases step with
    | @some _ y' step =>
      obtain ⟨deferred, dest'⟩ := Stop.deferred_star step live phase
      have done := restarted_ends (s := s.atMove tag x v) (own := tag) hm (dest'.trans destY) deferred other
      rw [← xchg_of_table (takeRestart_table (x := x) restart)] at done
      have kept := mended.finished done rfl
      rw [xchg_endStep, kept] at hz
      split at hz
      · cases hz
      · cases hz
        exact ⟨rfl, rfl⟩
  · rw [ended]
    exact (after.seqBit census).trans seqBit

end

end Sys2Proof.Machine
end

section
/-! PROOF. A WRITE of the window that a reply of another epoch ends, with the window's deferred READ; restarts as a whole. -/

namespace Sys2Proof.Machine

open Relation (ReflTransGen)

section
variable {s : State} {tag : Tag} {x : Exchange} {n : Stn} {v : Verdict} {h : ReplyHead} {e : BitVec 4}

/-! ## The first part: one reply -/

theorem recordFault_entry (s : State) (v : Verdict) (n : Stn) : (s.recordFault v).entry n = s.entry n := by
  obtain ⟨f, e⟩ := recordFault_eq s v
  rw [e]
  rfl

theorem recordFault_xchg (s : State) (v : Verdict) (tag : Tag) : (s.recordFault v).xchg tag = s.xchg tag :=
  xchg_of_table (recordFault_table s v) tag

/-- A command that reports a verdict leaves the report's table and directory. -/
theorem LineOnly.restart {u t : State} (only : LineOnly u t) (leaves : RestartLeaves s tag x n v h u) :
    RestartLeaves s tag x n v h t where
  epoch := by rw [entry_of_dir only.dir]; exact leaves.epoch
  changes := by rw [only.dir]; exact leaves.changes
  ended t' y z other hy dest live phase hz :=
    leaves.ended t' y z other hy dest live phase (by rwa [xchg_of_table only.table] at hz)
  seqBit census := by rw [entry_of_dir only.dir]; exact leaves.seqBit census

theorem heard_read (kind : x.kind = .read) (v : Verdict) (n : Stn) : (heard x v).unansweredAt n = false := by
  have same := (sameRequest_heard x v).kind
  simp [Exchange.unansweredAt, same, kind, Kind.nonIdem]

/-- BUSY, and REFUSE to a WRITE or SIGNAL, clear the mark (R8). -/
theorem heard_answered {r : Reply} (nonIdem : x.kind.nonIdem = true)
    (reply : r.kind = .busy ∨ x.kind ≠ .fetchEvent ∧ r.kind = .refuse) (n : Stn) :
    (heard x (.reply r)).unansweredAt n = false := by
  have clears : clearsUnanswered x.kind r.kind = true := by
    rcases reply with e | ⟨off, e⟩
    · rw [e, clearsUnanswered_busy]
      exact nonIdem
    · rw [e]
      cases hk : x.kind <;> simp_all [Kind.nonIdem, clearsUnanswered]
  simp [Exchange.unansweredAt, heard, clears]

/-! ## The second part: two faults of one step -/

/-- The move of a WRITE of the window that fails: completion with this status, reason and uncertain flag. -/
theorem moveOf_failsWrite (kind : x.kind = .write) (phase : x.phase = .issue) {st : Status}
    {d : Option Detail} {unc : Bool} (fails : failsWrite s.regs x v st d unc) :
    ∃ c p y, s.moveOf x v = (.complete c p, y) ∧ c.status = st ∧ c.detail = d ∧ y.unanswered = unc ∧ SameRequest x y ∧
      st.isFailure = true := by
  rcases fails with ⟨r, rfl, rk, rfl, rfl, rfl⟩ | ⟨r, rfl, rk, limit, rfl, rfl, rfl⟩ | ⟨k, hd, rfl, rfl, rfl, rfl⟩
  · have none' : (heard x (.reply r)).unanswered = false := by simp [heard, kind, rk, clearsUnanswered]
    refine ⟨{ status := .refused, detail := some (.reason r.reason), replyLength := 0, repeated := false }, false,
      heard x (.reply r), ?_, rfl, rfl, none', sameRequest_heard x _, rfl⟩
    simp only [State.moveOf, outcomeMove, replyMove, rk, cancelMove]
  · have none' : (heard x (.reply r)).unanswered = false := by simp [heard, kind, rk, clearsUnanswered]
    refine ⟨Completion.plain .busyExhausted, false,
      { heard x (.reply r) with busyCount := (heard x (.reply r)).busyCount + 1, attempts := 0 }, ?_, rfl, rfl, none',
      (sameRequest_heard x _).trans ⟨rfl, rfl, rfl, rfl, rfl, rfl, rfl, rfl⟩, rfl⟩
    have exhausted : ¬(heard x (.reply r)).busyCount + 1 < s.regs.busyLimit := Nat.not_lt.mpr limit
    simp only [State.moveOf, outcomeMove, replyMove, rk, busyMove, if_neg exhausted, cancelMove]
  · have issue : (heard x (.sound k hd)).phase = .issue := phase
    refine ⟨faultCompletion .protocol k, (heard x (.sound k hd)).kind == .read && decide (1 ≤ s.capacityOf x.dest) &&
      decide (1 < (heard x (.sound k hd)).attempts), heard x (.sound k hd), ?_, rfl, rfl, rfl, sameRequest_heard x _, rfl⟩
    simp only [State.moveOf, outcomeMove, soundFaultMove, issue, cancelMove]

theorem filter_eq_two {α : Type} {p : α → Bool} {a b : α} {l₁ l₂ : List α} (nodup : (l₁ ++ a :: l₂).Nodup) (pa : p a = true)
    (pb : p b = true) (others : ∀ c ∈ l₁ ++ a :: l₂, c ≠ a → c ≠ b → p c = false) :
    (b ∈ l₁ → (l₁ ++ a :: l₂).filter p = [b, a]) ∧ (b ∈ l₂ → (l₁ ++ a :: l₂).filter p = [a, b]) := by
  have fresh := List.nodup_middle.mp nodup
  rw [List.nodup_cons, List.nodup_append, List.mem_append, not_or] at fresh
  obtain ⟨⟨na₁, na₂⟩, nodup₁, nodup₂, disjoint⟩ := fresh
  have left (c : α) (hc : c ∈ l₁) : c ≠ a ∧ c ∈ l₁ ++ a :: l₂ := ⟨fun e => na₁ (e ▸ hc), by simp [hc]⟩
  have right (c : α) (hc : c ∈ l₂) : c ≠ a ∧ c ∈ l₁ ++ a :: l₂ := ⟨fun e => na₂ (e ▸ hc), by simp [hc]⟩
  constructor <;> intro mem <;> rw [List.filter_append, List.filter_cons_of_pos pa]
  · rw [filter_eq_one nodup₁ mem pb fun c hc other => others c (left c hc).2 (left c hc).1 other,
      List.filter_eq_nil_iff.mpr fun c hc => by simp [others c (right c hc).2 (right c hc).1 fun e => disjoint b mem c hc e.symm]]
    rfl
  · rw [filter_eq_one nodup₂ mem pb fun c hc other => others c (right c hc).2 (right c hc).1 other,
      List.filter_eq_nil_iff.mpr fun c hc => by simp [others c (left c hc).2 (left c hc).1 fun e => disjoint c hc b mem e]]
    rfl

/-- The directory's part of a reply that shows a restart, to an exchange that is not the directory's. -/
theorem directoryActs_restart {u : State} {c : Completion} {p : Bool} (head : v.head = some h)
    (restart : u.showsRestart n v = true) (kind : x.kind.internalKind = false) :
    ∃ w : State, w.table = (u.restarted n tag).table ∧ u.directoryActs n tag x (.complete c p) v = w.takeAttention n tag v ∧
      ∃ d, w = { u.restarted n tag with dir := d } := by
  have counts : v.counts = false := by cases v <;> first | rfl | cases head
  have quiet (w : State) : w.thresholdSilent n v = false := by rw [State.thresholdSilent, counts]; rfl
  have bit (w : State) : w.setSeqBit n x (u.showsRestart n v) v = w := by simp [State.setSeqBit, restart]
  obtain ⟨owner, silent, done⟩ := acts_external (s := u.takeRestart n tag x v) (n := n) (own := tag)
    (b := u.showsRestart n v) (v := v) kind c p
  let w := if (Move.complete c p).purges then ((u.takeRestart n tag x v).heardFrom n).setPurge n
    else (u.takeRestart n tag x v).heardFrom n
  have only : OnlyDir (u.restarted n tag) w := by
    have first : OnlyDir (u.restarted n tag) ((u.takeRestart n tag x v).heardFrom n) := by
      rw [State.takeRestart, if_pos restart]
      exact rfl
    show OnlyDir _ (if _ then _ else _)
    split
    · exact first.trans (onlyDir_setPurge _ n)
    · exact first
  refine ⟨w, only.table, ?_, w.dir, only⟩
  simp only [State.directoryActs, owner, silent, done, quiet, countOutcome_sound _ n head, bit]
  rfl

theorem takeAttention_blocks (u : State) (n : Stn) (own : Tag) (v : Verdict) :
    (u.takeAttention n own v).window = u.window ∧ (u.takeAttention n own v).regs = u.regs ∧
      ∀ o, (u.takeAttention n own v).table.creation o = u.table.creation o := by
  have ready (own : Option Tag) : (u.readySign n own).window = u.window ∧ (u.readySign n own).regs = u.regs ∧
      ∀ o, (u.readySign n own).table.creation o = u.table.creation o := by
    unfold State.readySign
    split <;> first | exact ⟨rfl, rfl, fun o => mapX_creation _ _ o⟩ | exact ⟨rfl, rfl, fun _ => rfl⟩
  have event (u : State) : (u.eventSign n).window = u.window ∧ (u.eventSign n).regs = u.regs ∧
      ∀ o, (u.eventSign n).table.creation o = u.table.creation o := by
    unfold State.eventSign
    split <;> exact ⟨rfl, rfl, fun _ => rfl⟩
  unfold State.takeAttention
  split
  · exact ⟨rfl, rfl, fun _ => rfl⟩
  · rename_i h _
    have first : (if h.attReady then u.readySign n (some own) else u).window = u.window ∧
        (if h.attReady then u.readySign n (some own) else u).regs = u.regs ∧
        ∀ o, (if h.attReady then u.readySign n (some own) else u).table.creation o = u.table.creation o := by
      split
      · exact ready _
      · exact ⟨rfl, rfl, fun _ => rfl⟩
    dsimp only
    split
    · obtain ⟨window, regs, creation⟩ := event (if h.attReady then u.readySign n (some own) else u)
      exact ⟨window.trans first.1, regs.trans first.2.1, fun o => (creation o).trans (first.2.2 o)⟩
    · exact first

theorem reacts_restarted (u : State) (n : Stn) (own : Tag) : Reacts Mend u (u.restarted n own) :=
  (reacts_complete u (mend_afterSel fun tag x _ => live_of_restartSel tag x)).trans (reacts_stopOnFailures _).stops

/-- The window has one READ (R158). -/
theorem window_read_unique (hold : HoldNamesItsRead s) {t₁ t₂ : Tag} {y z : Exchange} (hy : s.xchg t₁ = some y)
    (hz : s.xchg t₂ = some z) (own : y.owner = .window) (own' : z.owner = .window) (kind : y.kind = .read)
    (kind' : z.kind = .read) : t₁ = t₂ := by
  obtain ⟨n, reg, e | e⟩ := hold.2 t₁ y hy own kind <;> obtain ⟨n', reg', e' | e'⟩ := hold.2 t₂ z hz own' kind' <;>
    rw [e] at e' <;> cases e' <;> rfl

/-- The window's WRITE that the reply fails and its READ that the restart ends: the records, up to the end of the step. -/
structure BothEnd (s : State) (tag t' : Tag) (x y : Exchange) (c : Completion) (z : Exchange) (u : State) : Prop where
  write : u.xchg tag = some (z.finish c)
  read : u.xchg t' = some (y.finish (Completion.plain .stationRestarted))
  others : ∀ t'' ∈ u.table.winList, t'' ≠ t' → t'' ≠ tag → u.newlyDone s t'' = false
  window : u.window = s.window
  regs : u.regs = s.regs
  winList : u.table.winList = s.table.winList

theorem bothEnd_movedBy (lists : ListsAgree s) (phases : PhasesAgree s) (hold : HoldNamesItsRead s) (hx : s.xchg tag = some x)
    (owner : x.owner = .window) (kind : x.kind = .write) (dest : x.dest = .station n) (head : v.head = some h)
    (epoch : (s.entry n).epoch = some e) (differs : h.epoch ≠ e) {t' : Tag} {y z : Exchange} {c : Completion} {p : Bool}
    (move : s.moveOf x v = (.complete c p, z)) (same : SameRequest x z) (hy : s.xchg t' = some y) (owner' : y.owner = .window)
    (kind' : y.kind = .read) (dest' : y.dest = .station n) (live : y.live = true) (phase : y.phase ≠ .issue) :
    BothEnd s tag t' x y c z (s.movedBy tag x v) := by
  have apart : t' ≠ tag := fun e => by
    rw [e, hx] at hy
    cases hy
    rw [kind] at kind'
    cases kind'
  have restart := atMove_restart (tag := tag) (x := x) head epoch differs
  have moved : s.atMove tag x v = ((s.keepPayload x v).completed tag z c).stopOnFailures := by
    rw [State.atMove, move]
    exact applyMove_complete _ _ _ _ _
  have payload (t : Tag) : (s.keepPayload x v).xchg t = s.xchg t := xchg_of_table (keepPayload_table s x v) t
  have write : (s.atMove tag x v).xchg tag = some (z.finish c) := by
    rw [moved]
    exact completeOne_xchg c (by rw [xchg_setXchg, if_pos rfl])
  have window {t : Tag} {w : Exchange} (other : t ≠ tag) (hw : s.xchg t = some w) (own : w.owner = .window) :
      (s.atMove tag x v).xchg t = some w := by
    rw [moved]
    exact xchg_stopOnFailures_other (by rw [xchg_completed, if_neg other, payload, hw]) fun d => by simp [own]
  obtain ⟨w, table, acts, d, eq⟩ := directoryActs_restart (tag := tag) (x := x) (c := c) (p := p) head restart
    (by rw [kind]; rfl)
  have final : s.movedBy tag x v = w.takeAttention n tag v := by rw [movedBy_station dest, ← acts, move]
  have record {t : Tag} {a : Exchange} (ha : ((s.atMove tag x v).restarted n tag).xchg t = some a) :
      ∃ b, (s.movedBy tag x v).xchg t = some b ∧ (a.state ≠ .parked → b = a) ∧ (b.state = .complete → a.state = .complete) := by
    rw [final, xchg_takeAttention w n tag head, xchg_of_table table, ha, Option.map_some]
    refine ⟨_, rfl, fun off => if_neg fun k => off k.2.2.2.1, fun done => ?_⟩
    split at done
    · cases done
    · exact done
  obtain ⟨window', regs', creation'⟩ := takeAttention_blocks w n tag v
  have reacts := reacts_restarted (s.atMove tag x v) n tag
  have creation : (s.movedBy tag x v).table.creation .window = s.table.creation .window := by
    rw [final, creation', table, reacts.creation, moved, creation_stopOnFailures, creation_completed, keepPayload_table]
  have winList : (s.movedBy tag x v).table.winList = s.table.winList := creation
  refine ⟨?write, ?read, fun t'' mem other other' => ?others, ?window, ?regs, winList⟩
  case write =>
    obtain ⟨b, hb, stays, _⟩ := record (restarted_stays (n := n) (own := tag) write (same.owner.trans owner) (.inr (.inl rfl)))
    rw [hb, stays (by simp [Exchange.finish])]
  case read =>
    obtain ⟨b, hb, stays, _⟩ := record (restarted_ends (own := tag) (window apart hy owner') dest'
      (by simp [Exchange.isDeferred, live, phase]) apart)
    rw [hb, stays (by simp [Exchange.finish])]
  case others =>
    rw [winList] at mem
    obtain ⟨a, ha, own⟩ := (lists.mem .window t'').mp mem
    have issue : a.isDeferred = false := by
      by_contra deferred
      simp only [Exchange.isDeferred, Bool.not_eq_false, Bool.and_eq_true, bne_iff_ne] at deferred
      exact other (window_read_unique hold ha hy own owner' (phases.read t'' a ha deferred.2) kind')
    obtain ⟨b, hb, _, done⟩ := record (restarted_stays (n := n) (own := tag) (window other' ha own) own (.inl issue))
    rw [State.newlyDone, hb, ha, Option.any_some, Option.any_some]
    by_cases open' : a.state = .complete
    · simp [open']
    · rw [beq_false_of_ne fun e => open' (done e), Bool.false_and]
  case window =>
    rw [final, window', eq]
    refine reacts.window.trans ?_
    rw [moved, completed_window]
    unfold State.keepPayload
    split <;> rfl
  case regs =>
    rw [final, regs', eq]
    refine (congrArg Outer.regs reacts.outer :).trans ((congrArg Outer.regs (applyMove_outer _ tag _) :).trans ?_)
    show (s.keepPayload x v).regs = s.regs
    unfold State.keepPayload
    split <;> rfl

end

section
variable {s u : State} {tag t' : Tag} {x y z : Exchange} {c : Completion} {n : Stn} {reg reg' : BitVec 16} {a b : List Tag}

/-- The window takes both results in creation order (R159, R161). -/
theorem bothEnd_window (ends : BothEnd s tag t' x y c z u) (lists : ListsAgree s) (hx : s.xchg tag = some x)
    (hy : s.xchg t' = some y) (same : SameRequest x z) (owner : x.owner = .window) (kind : x.kind = .write)
    (dest : x.dest = .station n) (addr : x.regAddr = some reg) (open' : x.state ≠ .complete) (fails : c.status.isFailure = true)
    (kind' : y.kind = .read) (dest' : y.dest = .station n) (addr' : y.regAddr = some reg') (live : y.live = true)
    (free : s.window.fault = none) (list : s.table.winList = a ++ t' :: b) :
    let ofRead : WinFault :=
      { station := n, reg := reg', dir := .read, status := .stationRestarted, detail := none, uncertain := false }
    let ofWrite : WinFault :=
      { station := n, reg := reg, dir := .write, status := c.status, detail := c.detail, uncertain := z.unanswered }
    (u.endStep s).xchg tag = none ∧ (u.endStep s).window.overflow = true ∧ (u.endStep s).window.hold = .ready n reg' t' ∧
      (u.endStep s).window.timer = some (s.regs.windowHold * 64) ∧ (u.endStep s).irq.edge.getLsbD 4 = true ∧
      (tag ∈ b → (u.endStep s).window.fault = some ofRead) ∧ (tag ∈ a → (u.endStep s).window.fault = some ofWrite) := by
  intro ofRead ofWrite
  have apart : tag ≠ t' := fun e => by
    rw [e, hy] at hx
    cases hx
    rw [kind] at kind'
    cases kind'
  have nodup : (a ++ t' :: b).Nodup := by rw [← list]; exact lists.nodup .window
  have mem : tag ∈ a ∨ tag ∈ b := by
    have here := (lists.mem .window tag).mpr ⟨x, hx, owner⟩
    rw [show s.table.creation .window = s.table.winList from rfl, list] at here
    simpa [apart] using here
  have going : y.state ≠ .complete := fun e => by simp [Exchange.live, e] at live
  have doneW : u.newlyDone s tag = true := newlyDone_of hx open' ends.write rfl
  have doneR : u.newlyDone s t' = true := newlyDone_of hy going ends.read rfl
  have others : ∀ t'' ∈ a ++ t' :: b, t'' ≠ t' → t'' ≠ tag → u.newlyDone s t'' = false := fun t'' m =>
    ends.others t'' (by rw [ends.winList, list]; exact m)
  obtain ⟨before, after⟩ := filter_eq_two nodup doneR doneW others
  rw [← list, ← ends.winList] at before after
  have unsure : (z.finish c).result = some
      { status := c.status, detail := c.detail, replyLength := c.replyLength, repeated := c.repeated
        uncertain := z.unanswered, epochSeen := z.epochSeen, attempts := z.attempts } := by
    have unc : z.uncertain = z.unanswered := by simp [Exchange.uncertain, same.kind, kind, Kind.nonIdem]
    simp only [Exchange.finish, unc]
  have entersW (w : State) (table : w.table = u.table) : w.entersFault tag ofWrite := by
    have enters := entersFault_of (s := w) ((xchg_of_table table tag).trans ends.write) (same.dest.trans dest) unsure
      (.inl (same.kind.trans kind)) fails
    have eq : ofWrite = { station := n, reg := (z.finish c).regAddr.getD 0#16,
                          dir := if (z.finish c).kind = .read then .read else .write, status := c.status
                          detail := c.detail, uncertain := z.unanswered } := by
      have k : (z.finish c).kind ≠ .read := fun e => by
        have w := (same.kind.trans kind).symm.trans e
        cases w
      rw [if_neg k, show (z.finish c).regAddr = some reg from same.regAddr.trans addr]
      rfl
    rw [eq]
    exact enters
  have entersR (w : State) (table : w.table = u.table) : w.entersFault t' ofRead := by
    have enters := entersFault_of (s := w) ((xchg_of_table table t').trans ends.read) dest' rfl (.inr kind') rfl
    have unc : y.uncertain = false := by simp [Exchange.uncertain, kind', Kind.nonIdem]
    have eq : ofRead = { station := n, reg := (y.finish (Completion.plain .stationRestarted)).regAddr.getD 0#16,
                         dir := if (y.finish (Completion.plain .stationRestarted)).kind = .read then .read else .write
                         status := .stationRestarted, detail := none, uncertain := y.uncertain } := by
      rw [unc, if_pos (show (y.finish (Completion.plain .stationRestarted)).kind = .read from kind'),
        show (y.finish (Completion.plain .stationRestarted)).regAddr = some reg' from addr']
      rfl
    rw [eq]
    exact enters
  have window : (u.endStep s).window = ((u.table.winList.filter (u.newlyDone s)).foldl State.windowTakeTag u).window ∧
      (u.endStep s).irq = ((u.table.winList.filter (u.newlyDone s)).foldl State.windowTakeTag u).irq := ⟨rfl, rfl⟩
  have free' : u.window.fault = none := by rw [ends.window, free]
  have gone : (u.endStep s).xchg tag = none := by
    rw [xchg_endStep, retiresNow_of hx open' ends.write rfl, if_pos]
    simp [Exchange.retiredAtOnce, Exchange.finish, same.owner, same.kind, owner, kind]
  have taken (l : List Tag) (nd : l.Nodup) (mr : t' ∈ l) (only : ∀ t'' ∈ l, t'' ≠ t' → t'' = tag) :
      (l.foldl State.windowTakeTag u).window.hold = .ready n reg' t' ∧
        (l.foldl State.windowTakeTag u).window.timer = some (s.regs.windowHold * 64) := by
    have hold := hold_takesRead (s := u) nd mr ends.read kind' dest' rfl fun t'' m other w hw isRead => by
      rw [only t'' m other, ends.write] at hw
      cases hw
      have k := (same.kind.trans kind).symm.trans isRead
      cases k
    rw [show (y.finish (Completion.plain .stationRestarted)).regAddr = some reg' from addr', ends.regs] at hold
    exact hold
  rcases mem with inA | inB
  · have list' := before inA
    rw [list'] at window
    obtain ⟨fault, overflow, edge⟩ := takes_free (s := u) (a := tag) (l := [t']) (f := fun t => if t = tag then ofWrite else ofRead)
      (fun w table t m => by
        split
        · rename_i e; rw [e]; exact entersW w table
        · rename_i e; rw [List.mem_singleton.mp ((List.mem_cons.mp m).resolve_left e)]; exact entersR w table) free'
    obtain ⟨hold, timer⟩ := taken [tag, t'] (by simp [apart]) (by simp) (by simp)
    rw [window.1, window.2]
    refine ⟨gone, by rw [overflow]; simp, hold, timer, edge, fun inB => ?_, fun _ => by rw [fault, if_pos rfl]⟩
    exact absurd rfl ((List.nodup_append.mp nodup).2.2 tag inA tag (List.mem_cons_of_mem _ inB))
  · have list' := after inB
    rw [list'] at window
    obtain ⟨fault, overflow, edge⟩ := takes_free (s := u) (a := t') (l := [tag]) (f := fun t => if t = tag then ofWrite else ofRead)
      (fun w table t m => by
        split
        · rename_i e; rw [e]; exact entersW w table
        · rename_i e
          rw [(List.mem_cons.mp m).resolve_right fun k => e (List.mem_singleton.mp k)]
          exact entersR w table) free'
    obtain ⟨hold, timer⟩ := taken [t', tag] (by simp [apart.symm]) (by simp) (by simp)
    rw [window.1, window.2]
    refine ⟨gone, by rw [overflow]; simp, hold, timer, edge, fun _ => by rw [fault, if_neg apart.symm], fun inA => ?_⟩
    exact absurd rfl ((List.nodup_append.mp nodup).2.2 tag inA tag (List.mem_cons_of_mem _ inB))

end

end Sys2Proof.Machine
end

section
/-! PROOF. A sound reply that shows a restart, as a whole. -/

namespace Sys2Proof.Machine

/-- Settles O41: the directory's step for a restart gives the epoch, the mark of the change summary and the bit, which the later
steps leave; and the window takes its two results in creation order. -/
theorem restartEndsDeferrals : Obligations.RestartEndsDeferrals := by
  constructor
  · intro s tag ph q x n bytes v h e st settling job hx onLine dest judged sound epoch differs kind unanswered othersAnswered
    have head : v.head = some h := by
      rcases sound with ⟨r, rfl, rfl⟩ | ⟨k, rfl⟩ <;> rfl
    generalize hs' : s.recordFault v = s'
    have same (t' : Tag) : s'.xchg t' = s.xchg t' := by rw [← hs', recordFault_xchg]
    have epoch' : (s'.entry n).epoch = some e := by rw [← hs', recordFault_entry, epoch]
    have leaves := restartLeaves (tag := tag) dest head epoch' differs kind
    rw [← report_eq hs' hx onLine] at leaves
    have final := (lineOnly_lineAfterReply (s.report tag v) v).restart leaves
    have off {y : Exchange} (h : ¬unanswered y) : y.unansweredAt n = false := by
      by_contra k
      obtain ⟨nonIdem, mark, station⟩ := unansweredAt_iff.mp (by simpa using k)
      exact h ⟨station, nonIdem, mark⟩
    have off' {t' : Tag} (h : ∀ t'' z, t'' ≠ t' → s.xchg t'' = some z → ¬unanswered z) :
        ∀ t'' z, t'' ≠ t' → s'.xchg t'' = some z → z.unansweredAt n = false :=
      fun t'' z other hz => off (h t'' z other (by rwa [same] at hz))
    refine ⟨_, exec_replyReceived st settling job hx judged, final.epoch, final.changes, ?ended, ?confirmed, ?ofRead,
      ?answered, ?unknown⟩
    case ended =>
      intro t' y z other hy
      exact final.ended t' y z other (by rw [same, hy])
    case confirmed =>
      rintro r b rfl used reply
      have census : x.kind ≠ .census := by rcases reply with ⟨k | k, _⟩ | ⟨k, _⟩ <;> simp [k]
      have yes : confirms x.kind (.reply r) = true := by
        rcases reply with ⟨k | k, rk⟩ | ⟨k, rk | rk⟩ <;> simp [confirms, k, rk]
      rw [final.seqBit census, if_pos yes, used]
      rfl
    case ofRead =>
      intro read
      have no : ¬confirms x.kind v = true := by
        rw [read]
        cases v <;> simp [confirms]
      have bit := final.seqBit (by simp [read])
      rw [if_neg no] at bit
      have own := heard_read read v n
      refine ⟨fun others => ?_, fun t' y b other hy mark used others => ?_⟩
      · rw [bit, restartBit_none onLine own (off' others)]
        rfl
      · obtain ⟨station, nonIdem, unans⟩ := mark
        rw [bit, restartBit_other onLine own other ((same t').trans hy) (unansweredAt_iff.mpr ⟨nonIdem, unans, station⟩) used
          (off' others)]
        rfl
    case answered =>
      rintro r rfl nonIdem reply others
      have census : x.kind ≠ .census := fun k => by rw [k] at nonIdem; cases nonIdem
      have no : ¬confirms x.kind (.reply r) = true := by
        rcases reply with rk | ⟨k, rk⟩ <;> cases x.kind <;> simp [confirms, rk]
      rw [final.seqBit census, if_neg no, restartBit_none onLine (heard_answered nonIdem reply n) (off' others)]
      rfl
    case unknown =>
      rintro k b rfl nonIdem mark used others
      have census : x.kind ≠ .census := fun k => by rw [k] at nonIdem; cases nonIdem
      have own : (heard x (.sound k h)).unansweredAt n = true := unansweredAt_iff.mpr ⟨nonIdem, mark, dest⟩
      rw [final.seqBit census, if_neg (by simp [confirms]), restartBit_own onLine own used (off' others)]
      rfl
  · intro s tag t' ph q x y n reg reg' bytes v h st d unc e a b lists phases hold one state settling job hx onLine owner kind
      dest addr judged head fails epoch differs hy owner' kind' dest' addr' live phase free list ofRead ofWrite
    generalize hs' : s.recordFault v = s'
    obtain ⟨f, line⟩ := recordFault_eq s v
    rw [hs'] at line
    have lists' : ListsAgree s' := by rw [line]; exact ⟨lists.nodup, lists.mem⟩
    have phases' : PhasesAgree s' := by
      rw [line]
      exact ⟨phases.filling, phases.parked, phases.read, phases.backoff, phases.deadline, phases.carried, phases.expired,
        phases.fillEnd, phases.result⟩
    have hold' : HoldNamesItsRead s' := by rw [line]; exact hold
    have same (t'' : Tag) : s'.xchg t'' = s.xchg t'' := by rw [line]; rfl
    have epoch' : (s'.entry n).epoch = some e := by rw [line]; exact epoch
    have fails' : failsWrite s'.regs x v st d unc := by rw [line]; exact fails
    have issue : x.phase = .issue := by
      by_contra k
      rw [phases.read tag x hx k] at kind
      cases kind
    obtain ⟨c, p, z, move, rfl, rfl, rfl, request, failing⟩ := moveOf_failsWrite kind issue fails'
    have ends := bothEnd_movedBy lists' phases' hold' ((same tag).trans hx) owner kind dest head epoch' differs move request
      ((same t').trans hy) owner' kind' dest' live phase
    have taken := bothEnd_window (a := a) (b := b) ends lists' ((same tag).trans hx) ((same t').trans hy) request owner kind dest
      addr (by simp [onLine]) failing kind' dest' addr' live (by rw [line]; exact free) (by rw [line]; exact list)
    have regs : s'.regs = s.regs := by rw [line]
    rw [← report_eq hs' hx onLine, regs] at taken
    have irq : ∀ u : State, u.irq.edge.getLsbD 4 = true → (u.lineAfterReply v).irq.edge.getLsbD 4 = true := fun u k => by
      unfold State.lineAfterReply
      split
      · show (u.irq.edge ||| causeLineFault).getLsbD 4 = true
        rw [BitVec.getLsbD_or, k, Bool.true_or]
      · exact k
    have only := lineOnly_lineAfterReply (s.report tag v) v
    obtain ⟨gone, overflow, holds, timer, edge, first, second⟩ := taken
    refine ⟨_, exec_replyReceived state settling job hx judged, (xchg_of_table only.table tag).trans gone, ?_, ?_, ?_,
      irq _ edge, fun mem => ?_, fun mem => ?_⟩ <;> rw [only.window]
    · exact overflow
    · exact holds
    · exact timer
    · exact first mem
    · exact second mem

end Sys2Proof.Machine
end

section
/-! PROOF. What leaves the current attempt alone: records that rise in nothing, and the shared operations that change a
record no further than that. -/

namespace Sys2Proof.Machine

/-! ## Records -/

/-- The record rises in nothing: it does not come to be deferred, ON_LINE, FILLING, active or unanswered. -/
structure Calm (x y : Exchange) : Prop where
  request : SameRequest x y
  deferred : y.isDeferred = true → x.isDeferred = true
  onLine : y.state = .onLine → x.state = .onLine ∧ y.phase = x.phase
  filling : y.state = .filling → x.state = .filling
  active : y.issueActive = true → x.issueActive = true
  unanswered : y.unanswered = true → x.unanswered = true

theorem Calm.refl (x : Exchange) : Calm x x := ⟨.refl x, id, fun h => ⟨h, rfl⟩, id, id, id⟩

theorem Calm.trans {x y z : Exchange} (h : Calm x y) (k : Calm y z) : Calm x z where
  request := h.request.trans k.request
  deferred e := h.deferred (k.deferred e)
  onLine e := ⟨(h.onLine (k.onLine e).1).1, (k.onLine e).2.trans (h.onLine (k.onLine e).1).2⟩
  filling e := h.filling (k.filling e)
  active e := h.active (k.active e)
  unanswered e := h.unanswered (k.unanswered e)

theorem Calm.unansweredAt {x y : Exchange} (h : Calm x y) {n : Stn} (e : y.unansweredAt n = true) :
    x.unansweredAt n = true := by
  rw [unansweredAt_iff] at e ⊢
  rw [← h.request.kind, ← h.request.dest]
  exact ⟨e.1, h.unanswered e.2.1, e.2.2⟩

theorem Calm.nonIdemActiveAt {x y : Exchange} (h : Calm x y) {n : Stn} (e : y.nonIdemActiveAt n = true) :
    x.nonIdemActiveAt n = true := by
  simp only [Exchange.nonIdemActiveAt, Bool.and_eq_true] at e ⊢
  rw [← h.request.kind, ← h.request.dest]
  exact ⟨e.1, h.active e.2⟩

/-- A record that leaves the line's work alone: its state becomes none that the line works on. -/
theorem calm_of {x y : Exchange} (request : SameRequest x y) (unanswered : y.unanswered = x.unanswered)
    (deferred : y.isDeferred = true → x.isDeferred = true) 
    (off : y.state ≠ .onLine ∧ y.state ≠ .filling ∧ (y.phase = .issue → y.state ≠ .backoff)) :
    Calm x y where
  request := request
  deferred := deferred
  onLine e := absurd e off.1
  filling e := absurd e off.2.1
  active e := by
    simp only [Exchange.issueActive, Bool.and_eq_true, Bool.or_eq_true, beq_iff_eq] at e
    rcases e.2 with s | s
    · exact absurd s off.1
    · exact absurd s (off.2.2 e.1)
  unanswered e := unanswered ▸ e

theorem not_isDeferred_of_not_live {x : Exchange} (h : x.live = false) : ¬x.isDeferred = true := by
  simp [Exchange.isDeferred, h]

theorem calm_finish (x : Exchange) (c : Completion) : Calm x (x.finish c) :=
  calm_of ⟨rfl, rfl, rfl, rfl, rfl, rfl, rfl, rfl⟩ rfl (fun e => absurd e (not_isDeferred_of_not_live rfl))
    ⟨by simp [Exchange.finish], by simp [Exchange.finish], fun _ => by simp [Exchange.finish]⟩

theorem calm_markFill (x : Exchange) (m : FillMark) : Calm x (x.markFill m) := by
  unfold Exchange.markFill
  split
  · exact ⟨⟨rfl, rfl, rfl, rfl, rfl, rfl, rfl, rfl⟩, id, fun h => ⟨h, rfl⟩, id, id, id⟩
  · exact .refl x

theorem calm_afterSel (sel : Sel) (tag : Tag) (x : Exchange) : Calm x (afterSel sel tag x) := by
  unfold afterSel
  split
  · exact .refl x
  · exact calm_finish x _

/-- A record that waits again. -/
theorem calm_waits {x : Exchange} (live : x.live = true) : Calm x { x with state := .waiting } :=
  calm_of ⟨rfl, rfl, rfl, rfl, rfl, rfl, rfl, rfl⟩ rfl (fun e => by
    rw [Exchange.isDeferred, live]
    simpa [Exchange.isDeferred, Exchange.live] using e) ⟨by simp, by simp, fun _ => by simp⟩

theorem calm_drains (x : Exchange) : Calm x { x with state := .draining } :=
  calm_of ⟨rfl, rfl, rfl, rfl, rfl, rfl, rfl, rfl⟩ rfl (fun e => absurd e (not_isDeferred_of_not_live rfl))
    ⟨by simp, by simp, fun _ => by simp⟩

theorem calm_toAbandon {x : Exchange} (c : Carried) (deferred : x.isDeferred = true) : Calm x (x.toAbandon c) :=
  calm_of ⟨rfl, rfl, rfl, rfl, rfl, rfl, rfl, rfl⟩ rfl (fun _ => deferred)
    ⟨by simp [Exchange.toAbandon], by simp [Exchange.toAbandon], fun e => by simp [Exchange.toAbandon] at e⟩

theorem calm_abortCollect (c : Chan) (x : Exchange) : Calm x (abortCollect c x) := by
  unfold abortCollect
  split
  · rename_i h
    have abandon (live : x.live = true) : Calm x (x.toAbandon { status := .cancelled, fault := none }) :=
      calm_toAbandon _ (by simp [Exchange.isDeferred, live, h.2])
    split
    · exact abandon (by simp [Exchange.live, *])
    · exact abandon (by simp [Exchange.live, *])
    · exact abandon (by simp [Exchange.live, *])
    · exact ⟨⟨rfl, rfl, rfl, rfl, rfl, rfl, rfl, rfl⟩, id, fun h => ⟨h, rfl⟩, id, id, id⟩
    all_goals exact .refl x
  · exact .refl x

theorem calm_backoffEnds {s : State} (phases : PhasesAgree s) {tag : Tag} {x : Exchange} (hx : s.xchg tag = some x) :
    Calm x x.backoffEnds := by
  unfold Exchange.backoffEnds
  split
  · rename_i h
    split
    · rename_i out
      have collect := (phases.deadline tag x hx (by simp [out])).1
      exact calm_toAbandon _ (by simp [Exchange.isDeferred, Exchange.live, h, collect])
    · exact calm_of ⟨rfl, rfl, rfl, rfl, rfl, rfl, rfl, rfl⟩ rfl
        (fun e => by simpa [Exchange.isDeferred, Exchange.live, h] using e) ⟨by simp, by simp, fun _ => by simp⟩
  · exact .refl x

theorem calm_deadlineEnds {s : State} (phases : PhasesAgree s) {tag : Tag} {x : Exchange} (hx : s.xchg tag = some x) :
    Calm x x.deadlineEnds := by
  unfold Exchange.deadlineEnds
  split
  · exact .refl x
  · exact .refl x
  · rename_i running
    have collect := phases.deadline tag x hx (by simp [running])
    have abandon : Calm x (x.toAbandon deadlineCarried) :=
      calm_toAbandon _ (by simp [Exchange.isDeferred, collect.1, collect.2])
    split
    · exact abandon
    · exact abandon
    · exact ⟨⟨rfl, rfl, rfl, rfl, rfl, rfl, rfl, rfl⟩, id, fun h => ⟨h, rfl⟩, id, id, id⟩
    · exact ⟨⟨rfl, rfl, rfl, rfl, rfl, rfl, rfl, rfl⟩, id, fun h => ⟨h, rfl⟩, id, id, id⟩
    all_goals exact .refl x

theorem calm_mend {x y : Exchange} (h : Mend x y) : Calm x y := by
  cases h with
  | stop h => cases h with
    | cancel => exact calm_finish x _
    | mark m => exact calm_markFill x m
  | finish _ c => exact calm_finish x c
  | wake parked => exact calm_waits (by simp [Exchange.live, parked])

theorem calm_mends {x y : Exchange} (h : Relation.ReflTransGen Mend x y) : Calm x y := by
  induction h with
  | refl => exact .refl x
  | tail _ step ih => exact ih.trans (calm_mend step)

/-- A record that no attempt has touched. -/
structure Fresh (y : Exchange) : Prop where
  deferred : ¬y.isDeferred = true
  onLine : y.state ≠ .onLine
  active : ¬y.issueActive = true
  unanswered : ¬y.unanswered = true

theorem Fresh.calm {x y : Exchange} (h : Fresh x) (k : Calm x y) : Fresh y :=
  ⟨fun e => h.deferred (k.deferred e), fun e => h.onLine (k.onLine e).1, fun e => h.active (k.active e),
    fun e => h.unanswered (k.unanswered e)⟩

theorem fresh_request (r : Request) (us : List UnitNo) : Fresh (r.exchange us) := by
  have state : r.startState = .filling ∨ r.startState = .waiting := by
    unfold Request.startState
    split <;> simp
  constructor
  · simp [Exchange.isDeferred, Request.exchange]
  · rcases state with e | e <;> simp [Request.exchange, e]
  · rcases state with e | e <;> simp [Request.exchange, Exchange.issueActive, e]
  · simp [Request.exchange]

/-! ## States -/

/-- The table and the stations' doubt rise in nothing: records are calm and new ones fresh, an exchange ON_LINE stays so, and
a station comes into doubt only by an exchange that is not ON_LINE. `K` is what the command assumes of ports and hold. -/
structure Calms (K : Prop) (s t : State) : Prop where
  recs : ∀ tag y, t.xchg tag = some y → (∃ x, s.xchg tag = some x ∧ Calm x y) ∨ Fresh y
  onLine : K → ∀ tag x, s.xchg tag = some x → x.state = .onLine → ∃ y, t.xchg tag = some y ∧ y.state = .onLine
  doubt : K → ∀ n, (t.entry n).seqUncertain = true → (s.entry n).seqUncertain = true ∨
    ∃ tag x, s.xchg tag = some x ∧ x.unansweredAt n = true ∧ x.state ≠ .onLine

/-- Besides, each station keeps its capacity, and whether its deferrals have ended. -/
structure Quiet (K : Prop) (s t : State) : Prop extends Calms K s t where
  stations : ∀ n, (t.entry n).state.noDeferrals = (s.entry n).state.noDeferrals ∧
    (t.entry n).capacity = (s.entry n).capacity

/-- Besides, the line record is as it was. -/
structure Rests (K : Prop) (s t : State) : Prop extends Quiet K s t where
  line : t.line = s.line

variable {K : Prop}

theorem Calms.refl (s : State) : Calms K s s :=
  ⟨fun _ y h => .inl ⟨y, h, .refl y⟩, fun _ _ x h e => ⟨x, h, e⟩, fun _ _ h => .inl h⟩

theorem Calms.trans {s t u : State} (h : Calms K s t) (k : Calms K t u) : Calms K s u where
  recs tag z hz := by
    rcases k.recs tag z hz with ⟨y, hy, yz⟩ | fresh
    · rcases h.recs tag y hy with ⟨x, hx, xy⟩ | fresh
      · exact .inl ⟨x, hx, xy.trans yz⟩
      · exact .inr (fresh.calm yz)
    · exact .inr fresh
  onLine hK tag x hx e := by
    obtain ⟨y, hy, e⟩ := h.onLine hK tag x hx e
    exact k.onLine hK tag y hy e
  doubt hK n e := by
    rcases k.doubt hK n e with e | ⟨tag, y, hy, unanswered, off⟩
    · exact h.doubt hK n e
    · rcases h.recs tag y hy with ⟨x, hx, xy⟩ | fresh
      · refine .inr ⟨tag, x, hx, xy.unansweredAt unanswered, fun on => ?_⟩
        obtain ⟨y', hy', on'⟩ := h.onLine hK tag x hx on
        rw [hy] at hy'
        cases hy'
        exact off on'
      · exact absurd (unansweredAt_iff.mp unanswered).2.1 fresh.unanswered

theorem Quiet.refl (s : State) : Quiet K s s := ⟨.refl s, fun _ => ⟨rfl, rfl⟩⟩

theorem Quiet.trans {s t u : State} (h : Quiet K s t) (k : Quiet K t u) : Quiet K s u :=
  ⟨h.toCalms.trans k.toCalms,
    fun n => ⟨(k.stations n).1.trans (h.stations n).1, (k.stations n).2.trans (h.stations n).2⟩⟩

theorem Rests.refl (s : State) : Rests K s s := ⟨.refl s, rfl⟩

theorem Rests.trans {s t u : State} (h : Rests K s t) (k : Rests K t u) : Rests K s u :=
  ⟨h.toQuiet.trans k.toQuiet, k.line.trans h.line⟩

theorem Rests.foldl {α : Type} {f : State → α → State} (h : ∀ s a, Rests K s (f s a)) (l : List α) (s : State) :
    Rests K s (l.foldl f s) := by
  induction l generalizing s with
  | nil => exact .refl s
  | cons a l ih => exact (h s a).trans (ih _)

/-- The entry keeps what the invariants of this part see of it: whether its deferrals have ended, its capacity, its doubt. -/
def Entry.alike (e e' : Entry) : Prop :=
  e'.state.noDeferrals = e.state.noDeferrals ∧ e'.capacity = e.capacity ∧ e'.seqUncertain = e.seqUncertain

theorem Entry.alike_of_eq {e e' : Entry} (h : e' = e) : e.alike e' := by rw [h]; exact ⟨rfl, rfl, rfl⟩

/-- Records as they were, and entries alike. -/
theorem Rests.of_alike {s t : State} (xchg : ∀ tag, t.xchg tag = s.xchg tag) (entry : ∀ n, (s.entry n).alike (t.entry n))
    (line : t.line = s.line) : Rests K s t where
  recs tag y hy := .inl ⟨y, by rwa [xchg] at hy, .refl y⟩
  onLine _ tag x hx e := ⟨x, by rw [xchg, hx], e⟩
  doubt _ n e := .inl (by rw [← (entry n).2.2]; exact e)
  stations n := ⟨(entry n).1, (entry n).2.1⟩
  line := line

theorem Rests.of_same {s t : State} (table : t.table = s.table) (dir : t.dir = s.dir) (line : t.line = s.line) :
    Rests K s t :=
  .of_alike (xchg_of_table table) (fun n => Entry.alike_of_eq (entry_of_dir dir n)) line

/-- Only the directory, and there no entry's state, capacity or doubt. -/
theorem OnlyDir.rests {s t : State} (h : OnlyDir s t) (entry : ∀ n, (s.entry n).alike (t.entry n)) : Rests K s t :=
  .of_alike (fun tag => h.xchg tag) entry (by rw [show t = _ from h])

/-- Records changed in place. -/
theorem rests_mapX (s : State) {f : Tag → Exchange → Exchange} (calm : ∀ tag x, s.xchg tag = some x → Calm x (f tag x))
    (stays : ∀ tag x, s.xchg tag = some x → x.state = .onLine → (f tag x).state = .onLine) : Rests K s (s.mapX f) where
  recs tag y hy := by
    rw [xchg_mapX] at hy
    obtain ⟨x, hx, rfl⟩ := Option.map_eq_some_iff.mp hy
    exact .inl ⟨x, hx, calm tag x hx⟩
  onLine _ tag x hx e := ⟨f tag x, by rw [xchg_mapX, hx, Option.map_some], stays tag x hx e⟩
  doubt _ _ e := .inl e
  stations _ := ⟨rfl, rfl⟩
  line := rfl

theorem rests_setXchg {s : State} {tag : Tag} {x y : Exchange} (hx : s.xchg tag = some x) (calm : Calm x y)
    (stays : K → x.state = .onLine → y.state = .onLine) : Rests K s (s.setXchg tag (some y)) where
  recs t' z hz := by
    rw [xchg_setXchg] at hz
    split at hz
    · rename_i e
      cases hz
      exact .inl ⟨x, by rw [e, hx], calm⟩
    · exact .inl ⟨z, hz, .refl z⟩
  onLine hK t' z hz e := by
    rw [xchg_setXchg]
    split
    · rename_i own
      rw [own, hx] at hz
      cases hz
      exact ⟨y, rfl, stays hK e⟩
    · exact ⟨z, hz, e⟩
  doubt _ _ e := .inl e
  stations _ := ⟨rfl, rfl⟩
  line := rfl

/-- A record that goes FREE. -/
theorem rests_free {s : State} (tag : Tag) (off : K → ∀ x, s.xchg tag = some x → x.state ≠ .onLine) : Rests K s (s.free tag) where
  recs t' z hz := by
    rw [xchg_free] at hz
    split at hz
    · cases hz
    · exact .inl ⟨z, hz, .refl z⟩
  onLine hK t' z hz e := by
    rw [xchg_free]
    split
    · rename_i own
      rw [own] at hz
      exact absurd e (off hK z hz)
    · exact ⟨z, hz, e⟩
  doubt _ n e := .inl (by rwa [entry_of_dir (free_dir s tag)] at e)
  stations n := by
    rw [entry_of_dir (free_dir s tag)]
    exact ⟨rfl, rfl⟩
  line := congrArg Outer.line (free_outer s tag)

/-! ## The shared operations -/

theorem rests_recount (s : State) : Rests K s s.recount :=
  (onlyDir_recount s).rests fun n => by rw [entry_recount]; exact ⟨rfl, rfl, rfl⟩

theorem rests_setChan (s : State) (c : Chan) (ch : Channel) : Rests K s (s.setChan c ch) :=
  .of_same (by simp) (by simp) (by simp)

theorem rests_modChan (s : State) (c : Chan) (f : Channel → Channel) : Rests K s (s.modChan c f) := rests_setChan s c _

theorem rests_withdraw (s : State) (c : Chan) : Rests K s (s.withdraw c) :=
  .of_alike (fun _ => rfl) (fun _ => Entry.alike_of_eq rfl) rfl

theorem rests_leaveRunning (s : State) (c : Chan) : Rests K s (s.leaveRunning c) :=
  (rests_withdraw s c).trans (rests_modChan _ c _)

theorem rests_raise (s : State) (k : Word) : Rests K s (s.raise k) := .of_same rfl rfl rfl

theorem rests_answer (s : State) (a : Answer) : Rests K s (s.answer a) := .of_same rfl rfl rfl

theorem rests_setPurge (s : State) (n : Stn) : Rests K s (s.setPurge n) :=
  (onlyDir_setPurge s n).rests fun m => by
    rw [entry_setPurge]
    split
    · rename_i e
      rw [e]
      exact ⟨rfl, rfl, rfl⟩
    · exact ⟨rfl, rfl, rfl⟩

/-- Completions of exchanges that are not ON_LINE: the unknown outcomes among them bring their stations into doubt. -/
theorem rests_complete (s : State) {sel : Sel}
    (off : K → ∀ tag x, s.xchg tag = some x → (sel tag x).isSome = true → x.state ≠ .onLine) :
    Rests K s (s.complete sel) where
  recs tag y hy := by
    rw [xchg_complete] at hy
    obtain ⟨x, hx, rfl⟩ := Option.map_eq_some_iff.mp hy
    exact .inl ⟨x, hx, calm_afterSel sel tag x⟩
  onLine hK tag x hx e := by
    refine ⟨x, ?_, e⟩
    have none' : sel tag x = none := by
      by_contra some'
      exact off hK tag x hx (Option.isSome_iff_ne_none.mpr some') e
    rw [xchg_complete, hx, Option.map_some, afterSel, none']
  doubt hK n e := by
    rw [entry_complete] at e
    simp only [Bool.or_eq_true, List.contains_iff_mem] at e
    refine e.imp_right fun mem => ?_
    obtain ⟨tag, x, hx, hit, doubt, dest⟩ := mem_uncertainStns mem
    simp only [Exchange.uncertain, Bool.and_eq_true] at doubt
    exact ⟨tag, x, hx, unansweredAt_iff.mpr ⟨doubt.1, doubt.2, dest⟩, off hK tag x hx hit⟩
  stations n := by
    rw [entry_complete]
    exact ⟨rfl, rfl⟩
  line := congrArg Outer.line (complete_outer s sel)

theorem rests_markFill (s : State) (p : Exchange → Prop) [DecidablePred p] (m : FillMark) :
    Rests K s (s.mapX fun _ x => if p x then x.markFill m else x) := by
  refine rests_mapX s (fun tag x _ => ?_) fun tag x _ e => ?_
  · split
    · exact calm_markFill x m
    · exact .refl x
  · split
    · unfold Exchange.markFill
      split
      · exact e
      · exact e
    · exact e

theorem rests_cancelIssue (s : State) (c : Chan) : Rests K s (s.cancelIssue c) := by
  unfold State.cancelIssue
  dsimp only
  refine ((rests_complete s fun _ tag x _ hit => ?_).trans (.foldl rests_setPurge _ _)).trans
    (rests_markFill _ (fun x => x.owner = .list c) .cancelled)
  unfold cancelSel at hit
  split at hit
  · rename_i h
    rcases h.2.2 with e | e <;> simp [e]
  · cases hit

theorem rests_settleCancel (s : State) (c : Chan) : Rests K s (s.settleCancel c) := by
  obtain ⟨k, e⟩ := settleCancel_eq s c
  rw [e]
  exact rests_setChan s c _

theorem rests_haltIfDone (s : State) (c : Chan) : Rests K s (s.haltIfDone c) := by
  unfold State.haltIfDone
  split
  · exact (rests_modChan s c _).trans (rests_raise _ _)
  · exact .refl s

theorem rests_endAbortIfDone (s : State) (c : Chan) : Rests K s (s.endAbortIfDone c) := by
  unfold State.endAbortIfDone
  split
  · exact rests_modChan s c _
  · exact .refl s

theorem rests_enterStopping (s : State) (c : Chan) (k : HaltCause) : Rests K s (s.enterStopping c k) :=
  ((((rests_leaveRunning s c).trans (rests_modChan _ c _)).trans (rests_cancelIssue _ c)).trans
    (rests_settleCancel _ c)).trans (rests_haltIfDone _ c)

theorem rests_stopOnFailure (s : State) (c : Chan) : Rests K s (s.stopOnFailure c) := by
  rcases stopOnFailure_cases s c with e | e
  · rw [e]
    exact .refl s
  · rw [e]
    exact rests_enterStopping s c _

theorem rests_memFaultStops (s : State) (c : Chan) : Rests K s (s.memFaultStops c) := by
  unfold State.memFaultStops
  split
  · exact rests_enterStopping s c _
  · exact rests_enterStopping s c _
  · exact rests_modChan s c _
  all_goals exact .refl s

theorem rests_retire (s : State) (c : Chan) : Rests K s (s.retire c) := by
  unfold State.retire
  dsimp only
  split
  · exact (rests_setChan s c _).trans (rests_raise _ _)
  · exact rests_setChan s c _

theorem rests_create {s t : State} {r : Request} {tag : Tag} (h : s.create r = some (tag, t)) : Rests K s t := by
  obtain ⟨us, creates⟩ := create_creates h
  refine ⟨⟨⟨fun t' y hy => ?_, fun _ t' x hx e => ?_, fun _ n e => .inl (by rwa [entry_of_dir creates.dir] at e)⟩,
    fun n => ?_⟩, congrArg Outer.line (create_outer h)⟩
  · rw [creates.xchg] at hy
    split at hy
    · cases hy
      exact .inr (fresh_request r us)
    · exact .inl ⟨y, hy, .refl y⟩
  · refine ⟨x, ?_, e⟩
    rw [creates.xchg, if_neg, hx]
    rintro rfl
    rw [creates.free] at hx
    cases hx
  · rw [entry_of_dir creates.dir]
    exact ⟨rfl, rfl⟩

/-- The end of a step: what retires at once is COMPLETE. -/
theorem rests_endStep (s before : State) : Rests K s (s.endStep before) := by
  refine ⟨⟨⟨fun tag y hy => ?_, fun _ tag x hx on => ?_, fun _ n k => ?_⟩, fun n => ?_⟩,
    congrArg Outer.line (endStep_outer s before)⟩
  · rw [xchg_endStep] at hy
    split at hy
    · cases hy
    · exact .inl ⟨y, hy, .refl y⟩
  · exact ⟨x, xchg_endStep_open hx (by rw [on]; simp), on⟩
  · obtain ⟨d, e⟩ := entry_endStep s before n
    rw [e] at k
    exact .inl k
  · obtain ⟨d, e⟩ := entry_endStep s before n
    rw [e]
    exact ⟨rfl, rfl⟩

end Sys2Proof.Machine
end

section
/-! PROOF. What a command keeps that leaves the current attempt alone: the counts, the line, and records that rise in nothing;
and the commands of the host that do so. -/

namespace Sys2Proof.Machine

/-! ## The line -/

/-- The unit is at work on an attempt of this exchange. -/
def Line.worksOn (l : Line) (tag : Tag) : Prop :=
  (∃ ph q, l.job = some (.attempt tag ph q)) ∧ (l.state = .sending ∨ l.state = .await ∨ l.state = .receiving)

/-- The line stays of a piece, takes no attempt, and goes on with the one it works on. -/
structure LineStep (s t : State) : Prop where
  shape : LineShape t
  job : ∀ tag ph q, t.line.job = some (.attempt tag ph q) → s.line.job = some (.attempt tag ph q)
  works : ∀ tag, s.line.worksOn tag → t.line.worksOn tag

theorem lineShape_of_line {s t : State} (h : LineShape s) (line : t.line = s.line) : LineShape t := by
  obtain ⟨kind, cause, attempt, sweep, await, slots, sending, wait, settling⟩ := h
  constructor <;> rw [line] <;> assumption

theorem LineStep.of_line {s t : State} (h : LineShape s) (line : t.line = s.line) : LineStep s t :=
  ⟨lineShape_of_line h line, fun tag ph q e => by rwa [line] at e, fun tag e => by rwa [line]⟩

/-! ## The state -/

/-- What the records' owners are assumed to name. -/
def State.named (s : State) : Prop := PortNamesItsOwn s ∧ HoldNamesItsRead s

/-- What a command keeps that leaves the current attempt alone. -/
structure Keeps (s t : State) : Prop where
  counts : CountsAgree s → CountsAgree t
  onLine : ∀ tag y, t.xchg tag = some y → y.state = .onLine → ∃ x, s.xchg tag = some x ∧ x.state = .onLine
  quiet : PhasesAgree s → Quiet s.named s t
  line : LineShape s → LineStep s t

theorem Calms.onLine_of {K : Prop} {s t : State} (h : Calms K s t) {tag : Tag} {y : Exchange} (hy : t.xchg tag = some y)
    (on : y.state = .onLine) : ∃ x, s.xchg tag = some x ∧ x.state = .onLine := by
  rcases h.recs tag y hy with ⟨x, hx, calm⟩ | fresh
  · exact ⟨x, hx, (calm.onLine on).1⟩
  · exact absurd on fresh.onLine

theorem Keeps.of_quiet {s t : State} (counts : CountsAgree s → CountsAgree t) (quiet : Quiet s.named s t)
    (line : LineShape s → LineStep s t) : Keeps s t :=
  ⟨counts, fun _ _ hy on => quiet.onLine_of hy on, fun _ => quiet, line⟩

theorem Keeps.of_rests {s t : State} (counts : CountsAgree s → CountsAgree t) (rests : Rests s.named s t) : Keeps s t :=
  .of_quiet counts rests.toQuiet fun shape => .of_line shape rests.line

/-- Records, line, and every entry but for what the invariants of this part do not see. -/
structure Still (s t : State) : Prop where
  xchg : ∀ tag, t.xchg tag = s.xchg tag
  entry : ∀ n, (s.entry n).alike (t.entry n) ∧ (t.entry n).deferred = (s.entry n).deferred
  line : t.line = s.line

theorem Still.refl (s : State) : Still s s := ⟨fun _ => rfl, fun _ => ⟨Entry.alike_of_eq rfl, rfl⟩, rfl⟩

theorem Still.trans {s t u : State} (h : Still s t) (k : Still t u) : Still s u where
  xchg tag := (k.xchg tag).trans (h.xchg tag)
  entry n := by
    obtain ⟨⟨a, b, c⟩, d⟩ := h.entry n
    obtain ⟨⟨a', b', c'⟩, d'⟩ := k.entry n
    exact ⟨⟨a'.trans a, b'.trans b, c'.trans c⟩, d'.trans d⟩
  line := k.line.trans h.line

theorem Still.of_dir {s t : State} (xchg : ∀ tag, t.xchg tag = s.xchg tag) (dir : t.dir = s.dir) (line : t.line = s.line) :
    Still s t := ⟨xchg, fun n => by rw [entry_of_dir dir]; exact ⟨Entry.alike_of_eq rfl, rfl⟩, line⟩

theorem Still.of_same {s t : State} (table : t.table = s.table) (dir : t.dir = s.dir) (line : t.line = s.line) :
    Still s t := .of_dir (xchg_of_table table) dir line

theorem Still.of_entries {s t : State} (table : t.table = s.table) (entries : t.dir.entries = s.dir.entries)
    (line : t.line = s.line) : Still s t :=
  ⟨xchg_of_table table, fun n => by rw [entry_of_entries entries]; exact ⟨Entry.alike_of_eq rfl, rfl⟩, line⟩

theorem OnlyDir.still {s t : State} (h : OnlyDir s t)
    (entry : ∀ n, (s.entry n).alike (t.entry n) ∧ (t.entry n).deferred = (s.entry n).deferred) : Still s t :=
  ⟨fun tag => h.xchg tag, entry, by rw [show t = _ from h]⟩

theorem Still.rests {K : Prop} {s t : State} (h : Still s t) : Rests K s t :=
  .of_alike h.xchg (fun n => (h.entry n).1) h.line

theorem Still.keeps {s t : State} (h : Still s t) : Keeps s t :=
  .of_rests (fun counts => countsAgree_of counts (fun n => (h.entry n).2) fun n => deferredOf_of_xchg h.xchg n) h.rests

theorem still_command (s : State) (v : CmdVerdict) (k : Nat) (f : CmdFields) : Still s (s.command v k f) :=
  .of_same rfl rfl rfl

theorem still_answer (s : State) (a : Answer) : Still s (s.answer a) := .of_same rfl rfl rfl

theorem still_setChan (s : State) (c : Chan) (ch : Channel) : Still s (s.setChan c ch) :=
  .of_same (by simp) (by simp) (by simp)

theorem still_modChan (s : State) (c : Chan) (f : Channel → Channel) : Still s (s.modChan c f) := still_setChan s c _

theorem still_raise (s : State) (k : Word) : Still s (s.raise k) := .of_same rfl rfl rfl

theorem still_leaveRunning (s : State) (c : Chan) : Still s (s.leaveRunning c) :=
  .trans (t := s.withdraw c) (.of_dir (fun _ => rfl) rfl rfl) (still_modChan _ c _)

theorem still_joinCensus (s : State) (n : Stn) : Still s (s.joinCensus n) :=
  (onlyDir_joinCensus s n).still fun m => by
    rw [entry_joinCensus]
    exact ⟨Entry.alike_of_eq rfl, rfl⟩

theorem Still.foldl {α : Type} {f : State → α → State} (h : ∀ s a, Still s (f s a)) (l : List α) (s : State) :
    Still s (l.foldl f s) := by
  induction l generalizing s with
  | nil => exact .refl s
  | cons a l ih => exact (h s a).trans (ih _)

theorem still_joinCensusAll (s : State) (ns : List Stn) : Still s (s.joinCensusAll ns) := .foldl still_joinCensus ns s

/-- An entry changed in what the invariants of this part do not see. -/
theorem still_modEntry {s : State} {n : Stn} {f : Entry → Entry}
    (h : (s.entry n).alike (f (s.entry n)) ∧ (f (s.entry n)).deferred = (s.entry n).deferred) : Still s (s.modEntry n f) :=
  (onlyDir_modEntry s n f).still fun m => by
    rw [entry_modEntry]
    split
    · rename_i e
      rw [e]
      exact h
    · exact ⟨Entry.alike_of_eq rfl, rfl⟩

/-- A station changes its state where its deferrals have ended in both or in neither. -/
theorem still_moveTo {s : State} {n : Stn} {st : StnState} (h : st.noDeferrals = (s.entry n).state.noDeferrals) :
    Still s (s.moveTo n st) :=
  (onlyDir_moveTo s n st).still fun m => by
    rw [entry_moveTo]
    split
    · rename_i e
      rw [e]
      exact ⟨⟨h, rfl, rfl⟩, rfl⟩
    · exact ⟨Entry.alike_of_eq rfl, rfl⟩

theorem still_placeReset (s : State) (n : Stn) : Still s (s.placeReset n) :=
  (onlyDir_placeReset s n).still fun m => by
    rw [show (s.placeReset n).entry m = s.entry m by unfold State.placeReset; split <;> rfl]
    exact ⟨Entry.alike_of_eq rfl, rfl⟩

/-- The counts are kept in step at the end. -/
theorem Rests.recounted {s t : State} (h : Rests s.named s t) : Keeps s t.recount :=
  .of_rests (fun _ => countsAgree_recount t) (h.trans (rests_recount t))

theorem Rests.ended {s t : State} (h : Rests s.named s t) : Keeps s (t.endStep s) :=
  .of_rests (fun _ => countsAgree_recount _) (h.trans (rests_endStep t s))

/-- A command that ends in a verdict. -/
theorem Keeps.trans_still {s t u : State} (h : Keeps s t) (k : Still t u) : Keeps s u where
  counts c := k.keeps.counts (h.counts c)
  onLine tag y hy := h.onLine tag y (by rwa [← k.xchg])
  quiet phases := (h.quiet phases).trans k.rests.toQuiet
  line shape := by
    have old := h.line shape
    have new := LineStep.of_line old.shape k.line
    exact ⟨new.shape, fun tag ph q e => old.job tag ph q (new.job tag ph q e), fun tag e => new.works tag (old.works tag e)⟩

theorem Keeps.commanded {s t : State} (h : Keeps s t) (v : CmdVerdict) (k : Nat) (f : CmdFields) :
    Runs (.next (t.command v k f)) (Keeps s) := runs_next (h.trans_still (still_command t v k f))

theorem Still.commanded {s t : State} (h : Still s t) (v : CmdVerdict) (k : Nat) (f : CmdFields) :
    Runs (.next (t.command v k f)) (Keeps s) := h.keeps.commanded v k f

/-- A command that changes no record, no entry and not the line. -/
theorem runs_still {s t : State} (table : t.table = s.table) (entries : t.dir.entries = s.dir.entries)
    (line : t.line = s.line) : Runs (.next t) (Keeps s) := runs_next (Still.of_entries table entries line).keeps

theorem runs_self (s : State) : Runs (.next s) (Keeps s) := runs_next (Still.refl s).keeps

end Sys2Proof.Machine
end

section
/-! PROOF. The commands of the host that leave the current attempt alone. -/

namespace Sys2Proof.Machine

/-! ## The station commands -/

/-- PARKED exchanges to a station wait again. -/
theorem rests_wakes {K : Prop} (s : State) (p : Tag → Exchange → Prop) [∀ tag x, Decidable (p tag x)]
    (parked : ∀ tag x, p tag x → x.state = .parked) :
    Rests K s (s.mapX fun tag x => if p tag x then { x with state := .waiting } else x) := by
  refine rests_mapX s (fun tag x _ => ?_) fun tag x _ on => ?_
  · split
    · rename_i h
      exact calm_waits (by simp [Exchange.live, parked tag x h])
    · exact .refl x
  · split
    · rename_i h
      rw [parked tag x h] at on
      cases on
    · exact on

theorem rests_released {K : Prop} {s : State} {n : Stn} (held : (s.entry n).state = .held) : Rests K s (s.released n) := by
  rw [released_eq]
  have moved (st : StnState) (h : st.noDeferrals = false) : Still s (s.moveTo n st) :=
    still_moveTo (by rw [held, h]; rfl)
  have back : Still s (s.moveTo n (if s.regs.suspectThreshold ≤ (s.entry n).failures then .suspect else .present)) :=
    moved _ (by split <;> rfl)
  generalize s.moveTo n _ = u at back ⊢
  split
  · have cleared : Still u (u.modEntry n fun e => { e with keptReady := false }) := still_modEntry ⟨⟨rfl, rfl, rfl⟩, rfl⟩
    exact (back.trans cleared).rests.trans (rests_wakes _ (fun _ x => x.dest = .station n ∧ x.state = .parked) fun _ _ h => h.2)
  · exact back.rests

theorem exec_station_keeps {i : Instr} (s : State) (f : CmdFields)
    (h : i = .census f ∨ i = .stationHold f ∨ i = .stationRelease f ∨ i = .stationReset f) :
    Runs (exec i s) (Keeps s) := by
  have refused (v : CmdVerdict) (k : Nat) : Runs (.next (s.command v k f)) (Keeps s) := (Still.refl s).commanded v k f
  rcases h with rfl | rfl | rfl | rfl
  · show Runs (execCensus f s) _
    unfold execCensus
    split
    · exact refused _ _
    · exact (still_joinCensusAll s _).commanded _ _ _
  · show Runs (execStationHold f s) _
    unfold execStationHold
    split
    · exact refused _ _
    · rename_i n _
      have held (h : StnState.noDeferrals .held = (s.entry n).state.noDeferrals) :
          Runs (.next ((s.moveTo n .held).command .accepted 0x08 f)) (Keeps s) := (still_moveTo h).commanded _ _ _
      split
      · rename_i present
        exact held (by rw [present]; rfl)
      · rename_i suspect
        exact held (by rw [suspect]; rfl)
      all_goals exact refused _ _
  · show Runs (execStationRelease f s) _
    unfold execStationRelease
    split
    · exact refused _ _
    · split
      · rename_i held
        exact (rests_released held).recounted.commanded _ _ _
      · exact refused _ _
  · show Runs (execStationReset f s) _
    unfold execStationReset
    split
    · exact refused _ _
    · rename_i n _
      split
      iterate 5 exact (still_placeReset s n).commanded _ _ _
      all_goals exact refused _ _

/-! ## The list commands -/

theorem rests_aborted {K : Prop} (s : State) (c : Chan) : Rests K s (s.aborted c) := by
  unfold State.aborted
  dsimp only
  refine (((((rests_leaveRunning s c).trans (rests_modChan _ c _)).trans (rests_cancelIssue _ c)).trans
    (rests_mapX _ (fun _ x _ => calm_abortCollect c x) fun _ x _ on => ?_)).trans (rests_settleCancel _ c)).trans
    (rests_endAbortIfDone _ c)
  unfold abortCollect
  split
  · split
    iterate 3 rename_i off; rw [off] at on; cases on
    all_goals exact on
  · exact on

theorem exec_list_keeps {i : Instr} (s : State) (f : CmdFields)
    (h : i = .listStart f ∨ i = .listPause f ∨ i = .listResume f ∨ i = .listContinue f ∨ i = .listAbort f) :
    Runs (exec i s) (Keeps s) := by
  have refused (v : CmdVerdict) (k : Nat) : Runs (.next (s.command v k f)) (Keeps s) := (Still.refl s).commanded v k f
  have moved (g : Channel → Channel) (k : Nat) : Runs (.next ((s.modChan f.chan g).command .accepted k f)) (Keeps s) :=
    (still_modChan s _ g).commanded _ _ _
  rcases h with rfl | rfl | rfl | rfl | rfl
  · show Runs (execListStart f s) _
    unfold execListStart
    split
    · exact moved _ _
    · exact moved _ _
    all_goals exact refused _ _
  · show Runs (execListPause f s) _
    unfold execListPause
    split
    · exact ((still_leaveRunning s _).trans (still_modChan _ _ _)).commanded _ _ _
    · exact refused _ _
  · show Runs (execListResume f s) _
    unfold execListResume
    split
    · exact moved _ _
    · exact refused _ _
  · show Runs (execListContinue f s) _
    unfold execListContinue
    dsimp only
    split
    · exact moved _ _
    · exact refused _ _
  · show Runs (execListAbort f s) _
    unfold execListAbort
    have aborts : Runs (.next (((s.aborted f.chan).endStep s).command .accepted 0x14 f)) (Keeps s) :=
      (rests_aborted s f.chan).ended.commanded _ _ _
    split
    · exact refused _ _
    · exact refused _ _
    all_goals exact aborts

/-! ## The registers -/

theorem exec_register_keeps {i : Instr} (s : State)
    (h : (∃ f, i = .eventPop f) ∨ (∃ f, i = .eventFlush f) ∨ (∃ f, i = .ackChanges f) ∨ (∃ f, i = .windowClearFault f) ∨
      (∃ c f, i = .unknownCommand c f) ∨ (∃ f, i = .sweepNow f) ∨ (∃ m, i = .causeAck m) ∨ (∃ m, i = .causeEnable m) ∨
      (∃ o, i = .viewSnapshot o) ∨ i = .registerAccessError) : Runs (exec i s) (Keeps s) := by
  rcases h with ⟨f, rfl⟩ | ⟨f, rfl⟩ | ⟨f, rfl⟩ | ⟨f, rfl⟩ | ⟨c, f, rfl⟩ | ⟨f, rfl⟩ | ⟨m, rfl⟩ | ⟨m, rfl⟩ | ⟨o, rfl⟩ | rfl
  · show Runs (execEventPop f s) _
    unfold execEventPop
    split
    · exact (Still.refl s).commanded _ _ _
    · exact runs_still rfl rfl rfl
  · exact runs_still rfl rfl rfl
  · exact runs_still rfl rfl rfl
  · exact runs_still rfl rfl rfl
  · exact (Still.refl s).commanded _ _ _
  · show Runs (execSweepNow f s) _
    unfold execSweepNow
    split
    · exact (Still.refl s).commanded _ _ _
    · exact runs_still rfl rfl rfl
  · exact runs_still rfl rfl rfl
  · exact runs_still rfl rfl rfl
  · show Runs (execViewSnapshot o s) _
    unfold execViewSnapshot
    split
    · refine runs_next (Still.keeps (.trans (t := s.takeCopy o.toNat) ?_ (still_answer _ _)))
      unfold State.takeCopy
      split <;> exact .of_entries rfl rfl rfl
    · exact runs_next (still_answer s _).keeps
  · exact runs_next (still_answer s _).keeps

theorem exec_write_keeps {i : Instr} (s : State)
    (h : (∃ v, i = .sweepIntervalWrite v) ∨ (∃ v, i = .rediscoverIntervalWrite v) ∨ (∃ v, i = .eventThresholdWrite v) ∨
      (∃ v, i = .linkConfigWrite v) ∨ ∃ p v, i = .parameterWrite p v) : Runs (exec i s) (Keeps s) := by
  rcases h with ⟨v, rfl⟩ | ⟨v, rfl⟩ | ⟨v, rfl⟩ | ⟨v, rfl⟩ | ⟨p, v, rfl⟩
  · show Runs (execSweepIntervalWrite v s) _
    unfold execSweepIntervalWrite
    dsimp only
    split <;> exact runs_still rfl rfl rfl
  · show Runs (execRediscoverIntervalWrite v s) _
    unfold execRediscoverIntervalWrite
    dsimp only
    split <;> exact runs_still rfl rfl rfl
  · exact runs_still rfl rfl rfl
  · exact runs_still rfl rfl rfl
  · show Runs (execParameterWrite p v s) _
    unfold execParameterWrite
    dsimp only
    split
    · refine runs_next (Still.keeps (Still.trans ?_ (still_answer _ _)))
      exact .trans (t := { s with regs := s.regs.written _ v }) (.of_same rfl rfl rfl) (still_modChan _ _ _)
    all_goals exact runs_still rfl rfl rfl

end Sys2Proof.Machine
end

section
/-! PROOF. The station window, the timers, the creations and the master port leave the current attempt alone. -/

namespace Sys2Proof.Machine

/-! ## What ports and hold name is not ON_LINE -/

theorem named_fill {s : State} {c : Chan} {tag : Tag} (op : (s.chan c).portOp = some (.fill tag)) (h : s.named)
    (x : Exchange) (hx : s.xchg tag = some x) : x.state ≠ .onLine := by
  obtain ⟨y, hy, _, st⟩ := h.1.fill c tag op
  rw [hx] at hy
  cases hy
  simp [st]

theorem named_drain {s : State} {c : Chan} {tag : Tag} (op : (s.chan c).portOp = some (.drain tag)) (h : s.named)
    (x : Exchange) (hx : s.xchg tag = some x) : x.state ≠ .onLine := by
  obtain ⟨y, hy, _, st⟩ := h.1.drain c tag op
  rw [hx] at hy
  cases hy
  simp [st]

theorem named_compl {s : State} {c : Chan} {tag : Tag} (mem : tag ∈ s.table.compl c) (h : s.named)
    (x : Exchange) (hx : s.xchg tag = some x) : x.state ≠ .onLine := by
  obtain ⟨y, hy, _, st⟩ := h.1.compl c tag mem
  rw [hx] at hy
  cases hy
  simp [st]

theorem named_ready {s : State} {n : Stn} {reg : BitVec 16} {tag : Tag} (hold : s.window.hold = .ready n reg tag)
    (h : s.named) (x : Exchange) (hx : s.xchg tag = some x) : x.state ≠ .onLine := by
  have names := h.2.1
  rw [hold] at names
  obtain ⟨y, hy, _, st⟩ := names
  rw [hx] at hy
  cases hy
  simp [st]

/-! ## The station window -/

variable {K : Prop}

theorem rests_enterWindowFault (s : State) (f : WinFault) : Rests K s (s.enterWindowFault f) := by
  unfold State.enterWindowFault
  split <;> exact .of_same rfl rfl rfl

theorem rests_dropHold (s : State) (tag : Tag) (off : K → ∀ x, s.xchg tag = some x → x.state ≠ .onLine) :
    Rests K s (s.dropHold tag) := (rests_free tag off).trans (.of_same rfl rfl rfl)

theorem rests_postWrite (s : State) (n : Stn) (reg : BitVec 16) (d : Bytes4) : Rests K s (s.postWrite n reg d) := by
  unfold State.postWrite
  split
  · exact rests_answer s _
  · rename_i create
    exact (rests_create create).trans (.of_same rfl rfl rfl)

theorem rests_startRead (s : State) (n : Stn) (reg : BitVec 16) : Rests K s (s.startRead n reg) := by
  unfold State.startRead
  split
  · exact rests_answer s _
  · exact rests_answer s _
  · split
    · exact rests_answer s _
    · rename_i create
      exact (rests_create create).trans (.of_same rfl rfl rfl)

theorem matching_ready {h : Hold} {n : Stn} {reg : BitVec 16} {tag : Tag} (e : h.matching n reg = some (true, tag)) :
    h = .ready n reg tag := by
  unfold Hold.matching at e
  split at e
  · cases e
  · split at e <;> cases e
  · split at e
    · rename_i own
      cases e
      rw [own.1, own.2]
    · cases e

theorem rests_claim {s : State} {n : Stn} {reg : BitVec 16} {ready : Bool} {tag : Tag}
    (matching : s.window.hold.matching n reg = some (ready, tag)) : Rests s.named s (s.claim ready tag) := by
  cases ready with
  | true => exact (rests_dropHold s tag (named_ready (matching_ready matching))).trans (rests_answer _ _)
  | false => exact rests_answer s _

theorem exec_window_keeps {i : Instr} (s : State)
    (h : (∃ o e d, i = .stationWindowStore o e d) ∨ (∃ o e, i = .stationWindowLoad o e) ∨ i = .windowHoldExpiry) :
    Runs (exec i s) (Keeps s) := by
  have answered (a : Answer) : Runs (.next (s.answer a)) (Keeps s) := runs_next (still_answer s a).keeps
  rcases h with ⟨o, e, d, rfl⟩ | ⟨o, e, rfl⟩ | rfl
  · show Runs (execStationWindowStore o e d s) _
    unfold execStationWindowStore
    split
    · split
      · exact answered _
      · split
        · exact runs_next (rests_postWrite s _ _ d).recounted
        · exact answered _
    · exact answered _
  · show Runs (execStationWindowLoad o e s) _
    unfold execStationWindowLoad
    split
    · split
      · exact answered _
      · dsimp only
        split
        · rename_i matching
          exact runs_next (rests_claim matching).recounted
        · split
          · exact runs_next (rests_startRead s _ _).recounted
          · exact answered _
    · exact answered _
  · show Runs (execWindowHoldExpiry s) _
    unfold execWindowHoldExpiry
    split
    · rename_i hold _
      exact runs_next ((rests_dropHold s _ (named_ready hold)).trans (rests_enterWindowFault _ _)).recounted
    · exact runs_self s

/-! ## The timers -/

theorem backoffEnds_onLine (x : Exchange) : x.backoffEnds.state = .onLine ↔ x.state = .onLine := by
  unfold Exchange.backoffEnds
  split
  · rename_i h
    rw [h]
    split <;> simp [Exchange.toAbandon]
  · rfl

theorem deadlineEnds_onLine (x : Exchange) : x.deadlineEnds.state = .onLine ↔ x.state = .onLine := by
  unfold Exchange.deadlineEnds
  split
  · rfl
  · rfl
  · split
    · rename_i h; simp [Exchange.toAbandon, h]
    · rename_i h; simp [Exchange.toAbandon, h]
    all_goals rfl

/-- The end of a timer of one record. -/
theorem keeps_setXchg {s : State} {tag : Tag} {x y : Exchange} (hx : s.xchg tag = some x)
    (onLine : y.state = .onLine ↔ x.state = .onLine) (calm : PhasesAgree s → Calm x y) :
    Keeps s (s.setXchg tag (some y)).recount where
  counts _ := countsAgree_recount _
  onLine t' z hz on := by
    rw [(onlyDir_recount _).xchg, xchg_setXchg] at hz
    split at hz
    · rename_i own
      cases hz
      exact ⟨x, by rw [own, hx], onLine.mp on⟩
    · exact ⟨z, hz, on⟩
  quiet phases := ((rests_setXchg hx (calm phases) fun _ => onLine.mpr).trans (rests_recount _)).toQuiet
  line shape := .of_line shape rfl

theorem exec_timer_keeps {i : Instr} (s : State)
    (h : (∃ t, i = .backoffExpiry t) ∨ (∃ t, i = .deadlineExpiry t) ∨ (∃ n, i = .holdTimerExpiry n) ∨
      i = .rediscoveryTimerExpiry ∨ i = .sweepIntervalExpiry) : Runs (exec i s) (Keeps s) := by
  rcases h with ⟨tag, rfl⟩ | ⟨tag, rfl⟩ | ⟨n, rfl⟩ | rfl | rfl
  · show Runs (execBackoffExpiry tag s) _
    unfold execBackoffExpiry
    split
    · exact runs_self s
    · rename_i x hx
      exact runs_next (keeps_setXchg hx (backoffEnds_onLine x) fun phases => calm_backoffEnds phases hx)
  · show Runs (execDeadlineExpiry tag s) _
    unfold execDeadlineExpiry
    split
    · exact runs_self s
    · rename_i x hx
      exact runs_next (keeps_setXchg hx (deadlineEnds_onLine x) fun phases => calm_deadlineEnds phases hx)
  · show Runs (execHoldTimerExpiry n s) _
    unfold execHoldTimerExpiry
    split
    · exact runs_self s
    · split
      · have timer : Still s (s.modEntry n fun e => { e with holdTimer := none }) := still_modEntry ⟨⟨rfl, rfl, rfl⟩, rfl⟩
        exact runs_next (timer.trans (still_joinCensus _ n)).keeps
      · exact runs_self s
  · show Runs (execRediscoveryTimerExpiry s) _
    unfold execRediscoveryTimerExpiry
    split
    · exact runs_self s
    · refine runs_next ((still_joinCensusAll s s.silentStns).trans ?_).keeps
      exact .of_entries rfl rfl rfl
  · show Runs (execSweepIntervalExpiry s) _
    unfold execSweepIntervalExpiry
    split
    · exact runs_self s
    · exact runs_still rfl rfl rfl

/-! ## Creations and grants -/

theorem rests_grant (s : State) (c : Chan) (d : Desc) : Rests K s (s.grant c d) := by
  unfold State.grant
  split
  · exact .refl s
  · split
    · exact (rests_modChan s c _).trans (rests_stopOnFailure _ c)
    · unfold State.createFor
      split
      · rename_i create
        exact (rests_create create).trans (rests_modChan _ c _)
      · exact rests_modChan s c _

theorem rests_fetchOne (s : State) : Rests K s s.fetchOne := by
  rcases fetchOne_cases s with e | ⟨n, t, s1, _, create, e⟩
  · rw [e]; exact .refl s
  · rw [e]
    exact (rests_create create).trans (.of_same rfl rfl rfl)

theorem exec_creation_keeps {i : Instr} (s : State)
    (h : i = .censusCreation ∨ i = .recoveryCreation ∨ i = .fetchEventCreation ∨ i = .payloadGrant) :
    Runs (exec i s) (Keeps s) := by
  rcases h with rfl | rfl | rfl | rfl
  · show Runs (execCensusCreation s) _
    unfold execCensusCreation
    split
    · exact runs_self s
    · split
      · exact runs_self s
      · split
        · exact runs_self s
        · rename_i create
          exact runs_next ((rests_create create).recounted.trans_still (.of_entries rfl rfl rfl))
  · show Runs (execRecoveryCreation s) _
    unfold execRecoveryCreation
    split
    · exact runs_self s
    · split
      · exact runs_self s
      · split
        · exact runs_self s
        · rename_i create
          exact runs_next ((rests_create create).recounted.trans_still (.of_entries rfl rfl rfl))
  · exact runs_next ((rests_fetchOne s).trans (rests_fetchOne _)).recounted
  · show Runs (execPayloadGrant s) _
    unfold execPayloadGrant
    split
    · exact runs_self s
    · rename_i c k rest _
      have taken : Still s { s with table.waitList := rest } := .of_dir (fun _ => rfl) rfl rfl
      split
      · dsimp only
        split
        · exact runs_next (taken.rests.trans (rests_grant _ c _)).ended
        · exact runs_next taken.keeps
      · exact runs_self s

end Sys2Proof.Machine
end

section
/-! PROOF. The master port and the channels leave the current attempt alone. -/

namespace Sys2Proof.Machine

variable {K : Prop}

/-- A drain takes a finished exchange. -/
theorem rests_startOp (s : State) (c : Chan) (op : PortOp)
    (off : ∀ tag, op = .drain tag → K → ∀ x, s.xchg tag = some x → x.state ≠ .onLine) : Rests K s (s.startOp c op) := by
  have start : Still s { (s.modChan c fun ch => { ch with portOp := some op }) with portLast := c } :=
    (still_modChan s c _).trans (.of_same rfl rfl rfl)
  cases op with
  | fetch d => exact start.rests
  | fill t => exact start.rests
  | statusWrite => exact start.rests
  | drain tag =>
    have moved : Still s { { (s.modChan c fun ch => { ch with portOp := some (.drain tag) }) with portLast := c } with
        table := s.table.setCompl c ((s.table.compl c).filter (· != tag)) } :=
      start.trans (.of_dir (fun t => by cases c <;> rfl) (by cases c <;> rfl) (by cases c <;> rfl))
    have table : (s.modChan c fun ch => { ch with portOp := some (.drain tag) }).table = s.table := by cases c <;> rfl
    unfold State.startOp
    dsimp only
    rw [table]
    split
    · rename_i x hx
      refine moved.rests.trans (rests_setXchg hx (calm_drains x) fun hK on => ?_)
      exact absurd on (off tag rfl hK x (by rw [← moved.xchg]; exact hx))
    · exact moved.rests

theorem portChoice_compl {s : State} {c : Chan} {tag : Tag} (h : s.portChoice = some (c, .drain tag)) :
    tag ∈ s.table.compl c := by
  have next : s.nextOp c = some (.drain tag) := by
    unfold State.portChoice at h
    split at h
    · cases h
    · split at h
      · split at h <;> (cases h; assumption)
      · cases h; assumption
      · cases h; assumption
      · cases h
  unfold State.nextOp at next
  split at next
  · rename_i compl
    cases next
    simp [compl]
  · split at next
    · cases next
    · split at next
      · cases next
      · split at next <;> cases next

theorem rests_endOp (s : State) (c : Chan) : Rests K s (s.endOp c) := rests_modChan s c _

theorem rests_intake (s : State) (c : Chan) (d : Desc) : Rests K s (s.intake c d) := by
  have asked : Rests K s (s.askUnits c d) := by
    unfold State.askUnits
    dsimp only
    split
    · exact rests_grant s c d
    · exact (rests_modChan s c _).trans (.of_alike (fun _ => rfl) (fun _ => Entry.alike_of_eq rfl) rfl)
  unfold State.intake
  split
  · exact (rests_modChan s c _).trans (rests_stopOnFailure _ c)
  · split
    · exact rests_modChan s c _
    · exact asked
    · exact asked
    · exact asked
    · exact asked
    · exact .refl s

theorem rests_fillDone {s : State} (c : Chan) {tag : Tag} {x : Exchange} (hx : s.xchg tag = some x)
    (filling : x.state = .filling) : Rests K s (s.fillDone c tag x) := by
  unfold State.fillDone
  split
  · exact rests_setXchg hx (calm_waits (by simp [Exchange.live, filling])) fun _ on => by rw [filling] at on; cases on
  · refine (rests_complete s fun _ t' y hy hit => ?_).trans (rests_stopOnFailure _ c)
    split at hit
    · rename_i own
      rw [own, hx] at hy
      cases hy
      simp [filling]
    · cases hit

theorem rests_bus (s : State) (b : Bus) : Rests K s { s with bus := b } := .of_same rfl rfl rfl

/-- A memory fault: the operation ends and its record is noted, the exchange of a fill or a drain goes FREE, and the channel
stops. -/
theorem exec_memoryFault_keeps (s : State) (c : Chan) (a : Word) : Runs (exec (.memoryFault c a) s) (Keeps s) := by
  have noted (f : Channel → Channel) : Still s ((s.endOp c).modChan c f) :=
    (still_modChan s c fun ch => { ch with portOp := none }).trans (still_modChan _ c f)
  have freed (f : Channel → Channel) (tag : Tag) (off : s.named → ∀ x, s.xchg tag = some x → x.state ≠ .onLine) :
      Rests s.named s (((s.endOp c).modChan c f).free tag) :=
    (noted f).rests.trans (rests_free tag fun hK x hx => off hK x (by rwa [(noted f).xchg] at hx))
  have stopped {u : State} (h : Rests s.named s u) : Rests s.named s ((u.memFaultStops c).settleCancel c) :=
    (h.trans (rests_memFaultStops u c)).trans (rests_settleCancel _ c)
  show Runs (execMemoryFault c a s) _
  unfold execMemoryFault
  dsimp only
  split
  · exact runs_self s
  · exact runs_next (still_modChan s c _).keeps
  · exact runs_next ((noted _).rests.trans (rests_memFaultStops _ c)).ended
  · rename_i op
    split
    · exact runs_self s
    · exact runs_next (stopped (freed _ _ (named_fill op))).ended
  · rename_i op
    split
    · exact runs_self s
    · exact runs_next (stopped ((freed _ _ (named_drain op)).trans (rests_bus _ _))).ended
  · split
    · exact runs_self s
    · exact runs_next (((noted _).rests.trans (rests_bus _ _)).trans (rests_memFaultStops _ c)).ended

theorem still_retire (s : State) (c : Chan) : Still s (s.retire c) := by
  unfold State.retire
  dsimp only
  split
  · exact (still_setChan s c _).trans (still_raise _ _)
  · exact still_setChan s c _

/-- What a status write of the port leaves: the operation has ended, and its bytes are on the bus. -/
theorem still_written (s : State) (c : Chan) (b : Bus) (f : Channel → Channel) :
    Still s ({ s.endOp c with bus := b }.modChan c f) := by
  refine Still.trans (t := { s.endOp c with bus := b }) ?_ (still_modChan _ c f)
  exact (still_modChan s c fun ch => { ch with portOp := none }).trans (.of_same rfl rfl rfl)

theorem exec_port_keeps {i : Instr} (s : State)
    (h : i = .portOperationStart ∨ (∃ c w0 w1 w2 w3 w4, i = .descriptorFetchEnd c w0 w1 w2 w3 w4) ∨
      (∃ c b, i = .fillEnd c b) ∨ (∃ c, i = .drainEnd c) ∨ (∃ c, i = .intakeStatusWriteEnd c) ∨
      (∃ c a, i = .memoryFault c a) ∨ (∃ c, i = .nopFenceFinish c) ∨ (∃ c, i = .channelHalt c) ∨ ∃ c, i = .abortEnd c) :
    Runs (exec i s) (Keeps s) := by
  rcases h with rfl | ⟨c, w0, w1, w2, w3, w4, rfl⟩ | ⟨c, b, rfl⟩ | ⟨c, rfl⟩ | ⟨c, rfl⟩ | ⟨c, a, rfl⟩ | ⟨c, rfl⟩ |
    ⟨c, rfl⟩ | ⟨c, rfl⟩
  · show Runs (execPortOperationStart s) _
    unfold execPortOperationStart
    split
    · rename_i choice
      refine runs_next (rests_startOp s _ _ fun tag e => ?_).recounted
      rw [e] at choice
      exact named_compl (portChoice_compl choice)
    · exact runs_self s
  · show Runs (execDescriptorFetchEnd c w0 w1 w2 w3 w4 s) _
    unfold execDescriptorFetchEnd
    split
    · split
      · exact runs_next (still_modChan s c _).keeps
      · exact runs_next ((rests_endOp s c).trans (rests_intake _ c _)).ended
    all_goals exact runs_self s
  · show Runs (execFillEnd c b s) _
    unfold execFillEnd
    split
    · split
      · rename_i tag _ x hx
        split
        · rename_i filled
          have ended : Still s { s.endOp c with store := writeUnits x.units 0 b s.store } :=
            (still_modChan s c fun ch => { ch with portOp := none }).trans (.of_same rfl rfl rfl)
          exact runs_next (ended.rests.trans (rests_fillDone c (by rw [ended.xchg, hx]) filled.1)).ended
        · exact runs_self s
      · exact runs_self s
    all_goals exact runs_self s
  · show Runs (execDrainEnd c s) _
    unfold execDrainEnd
    split
    · rename_i op
      split
      · split
        · have written := still_written s c
          refine runs_next (((written _ _).rests.trans (rests_free _ fun hK x hx => ?_)).trans
            (rests_settleCancel _ c) |>.trans (rests_retire _ c)).recounted
          exact named_drain op hK x (by rwa [(written _ _).xchg] at hx)
        · exact runs_self s
      · exact runs_self s
    all_goals exact runs_self s
  · show Runs (execIntakeStatusWriteEnd c s) _
    unfold execIntakeStatusWriteEnd
    split
    · split
      · exact runs_next ((still_written s c _ _).trans (still_retire _ c)).keeps
      · exact runs_self s
    all_goals exact runs_self s
  · exact exec_memoryFault_keeps s c a
  · show Runs (execNopFenceFinish c s) _
    unfold execNopFenceFinish
    split
    · exact runs_self s
    · exact runs_next (still_modChan s c _).keeps
  · refine runs_next (Still.keeps ?_)
    unfold State.haltIfDone
    split
    · exact (still_modChan s c _).trans (still_raise _ _)
    · exact .refl s
  · refine runs_next (Still.keeps ?_)
    unfold State.endAbortIfDone
    split
    · exact still_modChan s c _
    · exact .refl s

end Sys2Proof.Machine
end

section
/-! PROOF. The line's own events and LINK_START: the line stays of a piece, and the current attempt goes on or there is none. -/

namespace Sys2Proof.Machine

/-! ## A line at rest -/

/-- The states in which the unit works on a job. -/
def LineState.atWork : LineState → Bool
  | .sending | .await | .receiving | .slots => true
  | .off | .wake | .idle | .guard | .break => false

theorem not_atWork {st : LineState} (h : st.atWork = false) :
    st ≠ .sending ∧ st ≠ .await ∧ st ≠ .receiving ∧ st ≠ .slots := by
  cases st <;> simp_all [LineState.atWork]

/-- A line without a job, in a state that works on none. -/
theorem lineShape_rest {t : State} (job : t.line.job = none) (rest : t.line.state.atWork = false)
    (kind : t.line.breakKind.isSome = true ↔ t.line.state = .break)
    (cause : t.line.breakCause.isSome = true ↔ t.line.state = .break)
    (wait : t.line.contentionWait = true → t.line.state = .wake) (settling : t.line.settling = false) : LineShape t := by
  obtain ⟨sending, await, receiving, slots⟩ := not_atWork rest
  exact
    { kind := kind
      cause := cause
      attempt := fun tag ph q e => by rw [job] at e; cases e
      sweep := fun e => by rw [job] at e; cases e
      await := fun e => (e.elim await receiving).elim
      slots := fun e => (slots e).elim
      sending := fun e => (sending e).elim
      wait := fun e => ⟨.inl (wait e), job⟩
      settling := fun e => by rw [settling] at e; cases e }

theorem lineShape_enterGuard (s : State) : LineShape s.enterGuard :=
  lineShape_rest rfl rfl (by simp [State.enterGuard]) (by simp [State.enterGuard]) (fun e => by cases e) rfl

theorem lineShape_enterBreak (s : State) (k : BreakKind) (c : BreakCause) : LineShape (s.enterBreak k c) :=
  lineShape_rest rfl rfl (by simp [State.enterBreak]) (by simp [State.enterBreak]) (fun e => by cases e) rfl

/-- Where no attempt is under way, and none is taken. -/
theorem lineStep_of_idle {s t : State} (shape : LineShape t) (job : ∀ tag ph q, t.line.job ≠ some (.attempt tag ph q))
    (off : ∀ tag, ¬s.line.worksOn tag) : LineStep s t :=
  ⟨shape, fun tag ph q e => (job tag ph q e).elim, fun tag e => (off tag e).elim⟩

theorem not_worksOn_of_rest {l : Line} (h : l.state.atWork = false) (tag : Tag) : ¬l.worksOn tag := by
  obtain ⟨sending, await, receiving, _⟩ := not_atWork h
  rintro ⟨_, e | e | e⟩
  · exact sending e
  · exact await e
  · exact receiving e

theorem not_worksOn_of_job {l : Line} (h : l.job = none ∨ l.job = some .sweep) (tag : Tag) : ¬l.worksOn tag := by
  rintro ⟨⟨ph, q, e⟩, _⟩
  rw [e] at h
  rcases h with h | h <;> cases h

/-- A line at rest has no job, is in no wait but WAKE's, and does not settle. -/
theorem LineShape.rest {s : State} (h : LineShape s) (rest : s.line.state.atWork = false) :
    s.line.job = none ∧ (s.line.contentionWait = true → s.line.state = .wake) ∧ s.line.settling = false := by
  obtain ⟨sending, await, receiving, slots⟩ := not_atWork rest
  refine ⟨?_, fun e => (h.wait e).1.resolve_right sending, ?_⟩
  · cases job : s.line.job with
    | none => rfl
    | some j => cases j with
      | attempt tag ph q => exact ((h.attempt tag ph q job).elim sending (·.elim await receiving)).elim
      | sweep => exact ((h.sweep job).elim sending slots).elim
  · exact Bool.eq_false_iff.mpr fun e => receiving (h.settling e)

/-! ## Commands that change the line -/

/-- Besides, a command may change the line, and blocks that the invariants of this part do not see. -/
theorem Keeps.lined {s u t : State} (h : Keeps s u) (table : t.table = u.table) (entries : t.dir.entries = u.dir.entries)
    (line : LineShape s → LineStep s t) : Keeps s t where
  counts c := countsAgree_of (h.counts c) (fun n => by rw [entry_of_entries entries]) fun n =>
    deferredOf_of_xchg (xchg_of_table table) n
  onLine tag y hy := h.onLine tag y (by rwa [← xchg_of_table table])
  quiet phases := (h.quiet phases).trans
    ⟨⟨fun tag y hy => .inl ⟨y, by rwa [xchg_of_table table] at hy, .refl y⟩,
      fun _ tag x hx e => ⟨x, by rw [xchg_of_table table, hx], e⟩,
      fun _ n e => .inl (by rwa [entry_of_entries entries] at e)⟩, fun n => by
        rw [entry_of_entries entries]
        exact ⟨rfl, rfl⟩⟩
  line := line

/-- A command that changes the line alone. -/
theorem runs_lined {s t : State} (table : t.table = s.table) (entries : t.dir.entries = s.dir.entries)
    (line : LineShape s → LineStep s t) : Runs (.next t) (Keeps s) :=
  runs_next ((Still.refl s).keeps.lined table entries line)

theorem enterIdle_line (s : State) :
    s.enterIdle.line = { s.line with state := .idle, timer := none, readyPending := false } := by
  unfold State.enterIdle
  dsimp only
  split <;> rfl

/-- A line at rest, out of BREAK, goes to another such state: what the unit works on is as it was. -/
theorem lineStep_leaves {s t : State} {st : LineState} {r : BitVec 2} {k : Nat} {p : Bool} {timer : Option Nat}
    (shape : LineShape s) (rest : s.line.state.atWork = false) (closed : s.line.state ≠ .break)
    (line : t.line = { s.line with state := st, rate := r, faultCount := k, readyPending := p, timer := timer })
    (rest' : st.atWork = false) (closed' : st ≠ .break) (wait : s.line.contentionWait = true → st = .wake) :
    LineStep s t := by
  obtain ⟨job, _, settling⟩ := shape.rest rest
  refine lineStep_of_idle (lineShape_rest ?_ ?_ ?_ ?_ ?_ ?_) (fun tag ph q e => ?_) (not_worksOn_of_rest rest)
  · rw [line]; exact job
  · rw [line]; exact rest'
  · rw [line]; exact ⟨fun e => (closed (shape.kind.mp e)).elim, fun e => (closed' e).elim⟩
  · rw [line]; exact ⟨fun e => (closed (shape.cause.mp e)).elim, fun e => (closed' e).elim⟩
  · rw [line]; exact wait
  · rw [line]; exact settling
  · rw [line] at e
    rw [show s.line.job = some (.attempt tag ph q) from e] at job
    cases job

/-- IDLE is entered from WAKE or GUARD. -/
theorem lineStep_enterIdle {s : State} (shape : LineShape s) (rest : s.line.state.atWork = false)
    (closed : s.line.state ≠ .break) (wait : s.line.contentionWait = false) : LineStep s s.enterIdle :=
  lineStep_leaves shape rest closed (enterIdle_line s) rfl (by simp) fun e => by rw [wait] at e; cases e

theorem still_slotCensus (s : State) (n : Stn) : Still s (s.slotCensus n) := by
  unfold State.slotCensus
  split
  · split
    · exact still_joinCensus s n
    · exact .refl s
  · exact still_joinCensus s n
  all_goals exact .refl s

theorem still_eventSign (s : State) (n : Stn) : Still s (s.eventSign n) := by
  unfold State.eventSign
  split
  iterate 5 exact still_modEntry ⟨⟨rfl, rfl, rfl⟩, rfl⟩
  all_goals exact .refl s

theorem rests_readySign {K : Prop} (s : State) (n : Stn) (own : Option Tag) : Rests K s (s.readySign n own) := by
  have wakes : Rests K s (s.mapX fun t x =>
      if x.dest = .station n ∧ x.state = .parked ∧ some t ≠ own then { x with state := .waiting } else x) :=
    rests_wakes s (fun t x => x.dest = .station n ∧ x.state = .parked ∧ some t ≠ own) fun _ _ h => h.2.1
  have kept : Still s (s.modEntry n fun e => { e with keptReady := true }) := still_modEntry ⟨⟨rfl, rfl, rfl⟩, rfl⟩
  unfold State.readySign
  split
  · exact wakes
  · exact wakes
  · exact wakes
  · exact kept.rests
  · exact kept.rests
  all_goals exact .refl s

theorem rests_takeSlot {K : Prop} (s : State) (no : Stn × SlotOutcome) : Rests K s (s.takeSlot no) := by
  unfold State.takeSlot
  dsimp only
  refine Rests.trans (t := if no.2.hasReady || no.2.hasEvent then s.slotCensus no.1 else s) ?_ (Rests.trans
    (t := if no.2.hasReady then State.readySign (if no.2.hasReady || no.2.hasEvent then s.slotCensus no.1 else s) no.1 none
      else if no.2.hasReady || no.2.hasEvent then s.slotCensus no.1 else s) ?_ ?_)
  · split
    · exact (still_slotCensus s no.1).rests
    · exact .refl s
  · generalize (if no.2.hasReady || no.2.hasEvent then s.slotCensus no.1 else s) = u
    split
    · exact rests_readySign u no.1 none
    · exact .refl u
  · generalize (if no.2.hasReady then State.readySign _ no.1 none else _) = u
    split
    · exact (still_eventSign u no.1).rests
    · exact .refl u

theorem exec_lineEvent_keeps {i : Instr} (s : State)
    (h : i = .sweepFrameSent ∨ i = .replyStart ∨ i = .earlyFramingFault ∨ i = .contentionWaitEnd ∨
      (∃ l, i = .slotsEnd l) ∨ i = .breakEnd ∨ i = .guardEnd ∨ i = .wakeEnd) : Runs (exec i s) (Keeps s) := by
  rcases h with rfl | rfl | rfl | rfl | ⟨l, rfl⟩ | rfl | rfl | rfl
  · show Runs (execSweepFrameSent s) _
    unfold execSweepFrameSent
    split
    · rename_i st job
      refine runs_lined rfl rfl fun shape => lineStep_of_idle ?_ (fun tag ph q e => ?_) (not_worksOn_of_job (.inr job))
      · have noWait : ¬s.line.contentionWait = true := fun e => by
          have none' := (shape.wait e).2
          rw [job] at none'
          cases none'
        exact
          { kind := by simpa [st] using shape.kind
            cause := by simpa [st] using shape.cause
            attempt := fun tag ph q e => by simp [job] at e
            sweep := fun _ => .inr rfl
            await := fun e => by simp at e
            slots := fun _ => job
            sending := fun e => by cases e
            wait := fun e => (noWait e).elim
            settling := fun e => by have r := shape.settling e; rw [st] at r; cases r }
      · simp [job] at e
    · exact runs_self s
  · show Runs (execReplyStart s) _
    unfold execReplyStart
    split
    · rename_i st
      refine runs_lined rfl rfl fun shape => ⟨?_, fun _ _ _ e => e, fun _ e => ⟨e.1, .inr (.inr rfl)⟩⟩
      exact
        { kind := by simpa [st] using shape.kind
          cause := by simpa [st] using shape.cause
          attempt := fun _ _ _ _ => .inr (.inr rfl)
          sweep := fun e => by have r := shape.sweep e; simp [st] at r
          await := fun _ => shape.await (.inl st)
          slots := fun e => by cases e
          sending := fun e => by cases e
          wait := fun e => by have r := (shape.wait e).1; simp [st] at r
          settling := fun _ => rfl }
    · exact runs_self s
  · show Runs (execEarlyFramingFault s) _
    unfold execEarlyFramingFault
    split
    · rename_i st
      exact runs_lined rfl rfl fun shape => ⟨⟨shape.kind, shape.cause, shape.attempt, shape.sweep, shape.await,
        shape.slots, shape.sending, shape.wait, fun _ => st⟩, fun _ _ _ e => e, fun _ e => e⟩
    · exact runs_self s
  · show Runs (execContentionWaitEnd s) _
    unfold execContentionWaitEnd
    split
    · rename_i wait
      exact runs_lined rfl rfl fun shape => lineStep_of_idle (lineShape_enterBreak s _ _) (fun _ _ _ e => by cases e)
        (not_worksOn_of_job (.inl (shape.wait wait).2))
    · exact runs_self s
  · show Runs (execSlotsEnd l s) _
    unfold execSlotsEnd
    split
    · rename_i st
      have slots : Rests s.named s ((allStns.zip (l.map readSlot)).foldl State.takeSlot s) := .foldl rests_takeSlot _ s
      exact runs_next (slots.recounted.lined rfl rfl fun shape => lineStep_of_idle (lineShape_enterGuard _)
        (fun _ _ _ e => by cases e) (not_worksOn_of_job (.inr (shape.slots st))))
    · exact runs_self s
  · show Runs (execBreakEnd s) _
    unfold execBreakEnd
    split
    · rename_i st
      exact runs_lined rfl rfl fun _ => lineStep_of_idle (lineShape_enterGuard s) (fun _ _ _ e => by cases e)
        (not_worksOn_of_rest (by rw [st]; rfl))
    · exact runs_self s
  · show Runs (execGuardEnd s) _
    unfold execGuardEnd
    split
    · rename_i st
      have rest : s.line.state.atWork = false := by rw [st]; rfl
      refine runs_lined (by unfold State.enterIdle; dsimp only; split <;> rfl)
        (by unfold State.enterIdle; dsimp only; split <;> rfl) fun shape => lineStep_enterIdle shape rest (by simp [st]) ?_
      exact Bool.eq_false_iff.mpr fun e => by have r := (shape.rest rest).2.1 e; rw [st] at r; cases r
    · exact runs_self s
  · show Runs (execWakeEnd s) _
    unfold execWakeEnd
    split
    · rename_i st
      have rest : s.line.state.atWork = false := by rw [st.1]; rfl
      exact runs_lined (by unfold State.enterIdle; dsimp only; split <;> rfl)
        (by unfold State.enterIdle; dsimp only; split <;> rfl)
        fun shape => lineStep_enterIdle shape rest (by simp [st.1]) st.2
    · exact runs_self s

/-! ## Contention without an attempt, and LINK_START -/

/-- CONTENTION in WAKE, or on a sweep. -/
theorem exec_contention_keeps {s : State} (h : ∀ tag ph q, s.line.job ≠ some (.attempt tag ph q)) :
    Runs (exec .contention s) (Keeps s) := by
  show Runs (execContention s) _
  unfold execContention
  split
  · rename_i st _ job
    refine runs_lined rfl rfl fun shape => lineStep_of_idle ?_ (fun _ _ _ e => by simp [job] at e)
      (not_worksOn_of_job (.inl job))
    have rest : s.line.state.atWork = false := by rw [st]; rfl
    exact lineShape_rest job rest shape.kind shape.cause (fun _ => st) (shape.rest rest).2.2
  · rename_i j st _ job
    cases j with
    | attempt tag ph q => exact (h tag ph q job).elim
    | sweep =>
      refine runs_lined (recordFault_table s (.lost .contention)) rfl fun shape => lineStep_of_idle ?_
        (fun _ _ _ e => by cases e) (not_worksOn_of_job (.inr job))
      exact
        { kind := shape.kind
          cause := shape.cause
          attempt := fun _ _ _ e => by cases e
          sweep := fun e => by cases e
          await := fun e => by
            have e : s.line.state = .await ∨ s.line.state = .receiving := e
            rw [st] at e
            simp at e
          slots := fun e => by
            have e : s.line.state = .slots := e
            rw [st] at e
            cases e
          sending := fun _ _ => rfl
          wait := fun _ => ⟨.inr st, rfl⟩
          settling := shape.settling }
  · exact runs_self s

theorem exec_linkStart_keeps (f : CmdFields) (s : State) : Runs (exec (.linkStart f) s) (Keeps s) := by
  show Runs (execLinkStart f s) _
  unfold execLinkStart
  split
  · rename_i off
    have rest : s.line.state.atWork = false := by rw [off]; rfl
    have started (u : State) (line : u.line = { s.line with
          state := .wake, rate := s.regs.rate, faultCount := 0, readyPending := true, timer := some Config.wakeLength })
        (shape : LineShape s) : LineStep s u :=
      lineStep_leaves shape rest (by simp [off]) line rfl (by simp) fun _ => rfl
    refine Keeps.commanded ?_ _ _ _
    unfold State.linkStarted
    dsimp only
    split
    · refine Keeps.trans_still ?_ (still_joinCensusAll _ _)
      exact (Still.refl s).keeps.lined rfl rfl (started _ rfl)
    · exact (Still.refl s).keeps.lined rfl rfl (started _ rfl)
  · exact (Still.refl s).commanded _ _ _

end Sys2Proof.Machine
end

section
/-! PROOF. A command that leaves the current attempt alone keeps one exchange ON_LINE, one request in doubt, and the room for
deferrals. -/

namespace Sys2Proof.Machine

/-! ## One ON_LINE -/

/-- What every step does to the line and the exchanges ON_LINE. -/
def OnLineKept (s t : State) : Prop :=
  LineShape s → LineShape t ∧ (OneOnLine s → OneOnLine t) ∧
    (OneOnLine s → PhasesAgree s → PortNamesItsOwn s → HoldNamesItsRead s → OneUnsettled s → OneUnsettled t)

/-- The exchange holds the other non-idempotent ones to its station back (R87). -/
def Exchange.unsettledAt (x : Exchange) (n : Stn) : Prop := x.nonIdemActiveAt n = true ∨ x.unansweredAt n = true

theorem Calm.unsettledAt {x y : Exchange} (h : Calm x y) {n : Stn} (e : y.unsettledAt n) : x.unsettledAt n :=
  e.imp h.nonIdemActiveAt h.unansweredAt

theorem nonIdemActiveAt_of_onLine {s : State} (phases : PhasesAgree s) {tag : Tag} {x : Exchange} {n : Stn}
    (hx : s.xchg tag = some x) (nonIdem : x.kind.nonIdem = true) (dest : x.dest = .station n) (on : x.state = .onLine) :
    x.nonIdemActiveAt n = true := by
  have issue : x.phase = .issue := by
    by_contra other
    rw [phases.read tag x hx other] at nonIdem
    cases nonIdem
  exact nonIdemActiveAt_iff.mpr ⟨nonIdem, dest, issue, .inl on⟩

theorem Calms.unsettledAt {K : Prop} {s t : State} (h : Calms K s t) {tag : Tag} {y : Exchange} {n : Stn}
    (hy : t.xchg tag = some y) (e : y.unsettledAt n) : ∃ x, s.xchg tag = some x ∧ x.unsettledAt n := by
  rcases h.recs tag y hy with ⟨x, hx, calm⟩ | fresh
  · exact ⟨x, hx, calm.unsettledAt e⟩
  · rcases e with e | e
    · simp only [Exchange.nonIdemActiveAt, Bool.and_eq_true] at e
      exact absurd e.2 fresh.active
    · exact absurd (unansweredAt_iff.mp e).2.1 fresh.unanswered

/-- What a command that leaves the current attempt alone keeps of table, doubt and line. -/
structure Goes (s t : State) : Prop where
  onLine : ∀ tag y, t.xchg tag = some y → y.state = .onLine → ∃ x, s.xchg tag = some x ∧ x.state = .onLine
  calms : PhasesAgree s → Calms s.named s t
  line : LineShape s → LineStep s t

theorem Keeps.goes {s t : State} (h : Keeps s t) : Goes s t := ⟨h.onLine, fun phases => (h.quiet phases).toCalms, h.line⟩

theorem Goes.oneUnsettled {s t : State} (h : Goes s t) (shape : LineShape s) (phases : PhasesAgree s) (named : s.named)
    (old : OneUnsettled s) : OneUnsettled t := by
  have quiet := h.calms phases
  refine ⟨fun tag ph q job => ?_, fun n t₁ t₂ x y hx hy ex ey => ?_, fun n tag y doubt hy nonIdem dest on => ?_⟩
  · obtain ⟨x, hx, on⟩ := old.job tag ph q ((h.line shape).job tag ph q job)
    exact quiet.onLine named tag x hx on
  · obtain ⟨x', hx', ex⟩ := quiet.unsettledAt hx ex
    obtain ⟨y', hy', ey⟩ := quiet.unsettledAt hy ey
    exact old.one n t₁ t₂ x' y' hx' hy' ex ey
  · rcases quiet.recs tag y hy with ⟨x, hx, calm⟩ | fresh
    · have on' := (calm.onLine on).1
      have nonIdem' : x.kind.nonIdem = true := by rw [← calm.request.kind]; exact nonIdem
      have dest' : x.dest = .station n := by rw [← calm.request.dest]; exact dest
      rcases quiet.doubt named n doubt with before | ⟨tag', z, hz, unanswered, off⟩
      · exact old.certain n tag x before hx nonIdem' dest' on'
      · have same := old.one n tag tag' x z hx hz (.inl (nonIdemActiveAt_of_onLine phases hx nonIdem' dest' on'))
          (.inr unanswered)
        rw [← same, hx] at hz
        cases hz
        exact off on'
    · exact fresh.onLine on

theorem Goes.onLineKept {s t : State} (h : Goes s t) : OnLineKept s t := by
  intro shape
  refine ⟨(h.line shape).shape, fun one tag y hy on => ?_, fun _ phases ports hold => h.oneUnsettled shape phases ⟨ports, hold⟩⟩
  obtain ⟨x, hx, on⟩ := h.onLine tag y hy on
  exact (h.line shape).works tag (one tag x hx on)

/-! ## Room for deferrals -/

/-- What every step does to the deferred counts. -/
def CountsKept (s t : State) : Prop :=
  CountsAgree s → CountsAgree t ∧
    (LineShape s → OneOnLine s → PhasesAgree s → DisabledIsIdle s → DeferralsFit s → DeferralsFit t)

theorem countX_mono {s t : State} {p : Exchange → Bool}
    (h : ∀ tag y, t.xchg tag = some y → p y = true → ∃ x, s.xchg tag = some x ∧ p x = true) : t.countX p ≤ s.countX p := by
  refine List.countP_mono_left fun tag _ e => ?_
  cases hy : t.xchg tag with
  | none => rw [hy] at e; cases e
  | some y =>
    rw [hy] at e
    obtain ⟨x, hx, px⟩ := h tag y hy e
    rw [hx]
    exact px

theorem Calms.deferredOf_le {K : Prop} {s t : State} (h : Calms K s t) (n : Stn) : t.deferredOf n ≤ s.deferredOf n := by
  refine countX_mono fun tag y hy e => ?_
  simp only [Bool.and_eq_true, beq_iff_eq] at e ⊢
  rcases h.recs tag y hy with ⟨x, hx, calm⟩ | fresh
  · exact ⟨x, hx, calm.deferred e.1, by rw [← calm.request.dest]; exact e.2⟩
  · exact absurd e.1 fresh.deferred

/-- An exchange ON_LINE was so before, in the same phase and with the same request. -/
theorem Calms.onLine_same {K : Prop} {s t : State} (h : Calms K s t) {tag : Tag} {y : Exchange} (hy : t.xchg tag = some y)
    (on : y.state = .onLine) : ∃ x, s.xchg tag = some x ∧ x.state = .onLine ∧ y.phase = x.phase ∧ SameRequest x y := by
  rcases h.recs tag y hy with ⟨x, hx, calm⟩ | fresh
  · exact ⟨x, hx, (calm.onLine on).1, (calm.onLine on).2, calm.request⟩
  · exact absurd on fresh.onLine

/-- Room for deferrals stays where the counts do not rise, the stations stay as the counts see them, and an exchange ON_LINE
was so before. -/
theorem DeferralsFit.of_less {s t : State} (fit : DeferralsFit s) (before : CountsAgree s) (after : CountsAgree t)
    (less : ∀ n, t.deferredOf n ≤ s.deferredOf n)
    (stations : ∀ n, (t.entry n).state.noDeferrals = (s.entry n).state.noDeferrals ∧
      (t.entry n).capacity = (s.entry n).capacity)
    (same : ∀ tag y, t.xchg tag = some y → y.state = .onLine →
      ∃ x, s.xchg tag = some x ∧ x.state = .onLine ∧ y.phase = x.phase ∧ SameRequest x y) : DeferralsFit t := by
  have less (n : Stn) : (t.entry n).deferred ≤ (s.entry n).deferred := by
    rw [before n, after n]
    exact less n
  refine ⟨fun n => ?_, fun n closed => ?_, fun n tag y hy dest kind issue on => ?_⟩
  · rw [(stations n).2]
    exact (less n).trans (fit.capacity n)
  · rw [(stations n).1] at closed
    exact Nat.le_zero.mp ((less n).trans (fit.closed n closed).le)
  · obtain ⟨x, hx, on, phase, same⟩ := same tag y hy on
    have room := fit.room n tag x hx (same.dest ▸ dest) (same.kind ▸ kind) (phase ▸ issue) on
    rw [(stations n).1, (stations n).2]
    exact ⟨room.1, fun capacity => (less n).trans_lt (room.2 capacity)⟩

theorem Keeps.countsKept {s t : State} (h : Keeps s t) : CountsKept s t := fun before =>
  ⟨h.counts before, fun _ _ phases _ fit =>
    have quiet := h.quiet phases
    fit.of_less before (h.counts before) quiet.deferredOf_le quiet.stations fun _ _ hy on => quiet.onLine_same hy on⟩

/-- A state without deferrals and without an exchange ON_LINE. -/
theorem deferralsFit_of_zero {t : State} (counts : CountsAgree t) (zero : ∀ n, t.deferredOf n = 0)
    (off : ∀ tag y, t.xchg tag = some y → y.state ≠ .onLine) : DeferralsFit t where
  capacity n := by
    rw [counts n, zero n]
    exact Nat.zero_le _
  closed n _ := (counts n).trans (zero n)
  room _ tag y hy _ _ _ on := (off tag y hy on).elim

/-- A command that leaves no exchange ON_LINE and no attempt. -/
theorem onLineKept_of_off {s t : State} (shape : LineShape s → LineShape t)
    (off : OneOnLine s → ∀ tag y, t.xchg tag = some y → y.state ≠ .onLine)
    (job : ∀ tag ph q, t.line.job ≠ some (.attempt tag ph q))
    (recs : OneOnLine s → PhasesAgree s → ∀ tag y n, t.xchg tag = some y → y.unsettledAt n →
      ∃ x, s.xchg tag = some x ∧ x.unsettledAt n) : OnLineKept s t := by
  refine fun h => ⟨shape h, fun one tag y hy on => (off one tag y hy on).elim, fun one phases _ _ old =>
    ⟨fun tag ph q e => (job tag ph q e).elim, fun n t₁ t₂ x y hx hy ex ey => ?_,
      fun _ tag y _ hy _ _ on => off one tag y hy on⟩⟩
  obtain ⟨x', hx', ex⟩ := recs one phases t₁ x n hx ex
  obtain ⟨y', hy', ey⟩ := recs one phases t₂ y n hy ey
  exact old.one n t₁ t₂ x' y' hx' hy' ex ey

end Sys2Proof.Machine
end

section
/-! PROOF. One ON_LINE, and room for deferrals, at the commands that change stations or the whole table: STATION_DISABLE,
STATION_ENABLE, LINK_STOP, LINK_RESET and RESET_N. -/

namespace Sys2Proof.Machine

/-! ## STATION_DISABLE and STATION_ENABLE -/

/-- A command on the directory that brings no station into doubt. -/
theorem goes_of_dir {s t : State} (table : t.table = s.table) (line : t.line = s.line)
    (certain : ∀ n, (t.entry n).seqUncertain = true → (s.entry n).seqUncertain = true) : Goes s t where
  onLine tag y hy on := ⟨y, by rwa [← xchg_of_table table], on⟩
  calms _ := ⟨fun tag y hy => .inl ⟨y, by rwa [xchg_of_table table] at hy, .refl y⟩,
    fun _ tag x hx on => ⟨x, by rw [xchg_of_table table, hx], on⟩, fun _ n e => .inl (certain n e)⟩
  line shape := .of_line shape line

/-- The command changes one station, to which no exchange is in flight, and leaves its count. -/
theorem countsKept_of_station {s t : State} {n : Stn} (table : t.table = s.table)
    (own : (t.entry n).deferred = s.deferredOf n ∨ CountsAgree t)
    (others : ∀ m, m ≠ n → (t.entry m).deferred = (s.entry m).deferred ∧ (t.entry m).state = (s.entry m).state ∧
      (t.entry m).capacity = (s.entry m).capacity)
    (idle : DisabledIsIdle s → ∀ tag x, s.xchg tag = some x → x.dest = .station n → x.live = false) : CountsKept s t := by
  intro counts
  have xchg := xchg_of_table table
  have after : CountsAgree t := by
    rcases own with own | own
    · intro m
      rw [deferredOf_of_xchg xchg]
      by_cases e : m = n
      · rw [e, own]
      · rw [(others m e).1, counts m]
    · exact own
  refine ⟨after, fun _ _ _ disabled fit => ?_⟩
  have zero : s.deferredOf n = 0 := by
    refine countX_eq_zero (anyX_eq_false_iff.mpr fun tag x hx => ?_)
    by_cases dest : x.dest = .station n
    · simp [Exchange.isDeferred, idle disabled tag x hx dest]
    · simp [dest]
  refine ⟨fun m => ?_, fun m closed => ?_, fun m tag x hx dest kind issue on => ?_⟩
  · by_cases e : m = n
    · rw [e, after n, deferredOf_of_xchg xchg, zero]
      exact Nat.zero_le _
    · rw [(others m e).1, (others m e).2.2]
      exact fit.capacity m
  · by_cases e : m = n
    · rw [e, after n, deferredOf_of_xchg xchg, zero]
    · rw [(others m e).2.1] at closed
      rw [(others m e).1]
      exact fit.closed m closed
  · rw [xchg] at hx
    by_cases e : m = n
    · have done := idle disabled tag x hx (e ▸ dest)
      simp [Exchange.live, on] at done
    · rw [(others m e).1, (others m e).2.1, (others m e).2.2]
      exact fit.room m tag x hx dest kind issue on

theorem exec_stationDisable_kept (f : CmdFields) (s : State) :
    Runs (exec (.stationDisable f) s) fun t => OnLineKept s t ∧ CountsKept s t := by
  refine (exec_stationDisable_cases f s).mono fun t ht => ?_
  rcases ht with ⟨v, rfl⟩ | ⟨n, idle, rfl⟩
  · have keeps := (still_command s v 0x0A f).keeps
    exact ⟨keeps.goes.onLineKept, keeps.countsKept⟩
  · have entry (m : Stn) := (entry_command (s.disabled n) .accepted 0x0A f m).trans (disabled_entry s n m)
    have certain (m : Stn) (e : (((s.disabled n).command .accepted 0x0A f).entry m).seqUncertain = true) :
        (s.entry m).seqUncertain = true := by
      rw [entry] at e
      split at e
      · rename_i own
        rw [own]
        exact e
      · exact e
    have goes : Goes s ((s.disabled n).command .accepted 0x0A f) := goes_of_dir rfl rfl certain
    refine ⟨goes.onLineKept, fun counts => ?_⟩
    · refine countsKept_of_station (n := n) rfl (.inl ?_) (fun m other => ?_) (fun _ tag x hx dest => ?_) counts
      · rw [entry, if_pos rfl]
        exact counts n
      · rw [entry, if_neg other]
        exact ⟨rfl, rfl, rfl⟩
      · have busy := inFlightTo_iff (s := s) (n := n)
        simp only [idle, Bool.false_eq_true, false_iff, not_exists, not_and] at busy
        by_contra live
        simp only [Exchange.live, Bool.not_eq_false, Bool.and_eq_true, bne_iff_ne] at live
        exact busy tag x hx dest live.1 live.2

theorem enabled_entry (s : State) (n m : Stn) :
    (s.enabled n).entry m = if m = n then { Entry.reset with wasPresent := (s.entry n).wasPresent } else s.entry m := by
  unfold State.enabled
  dsimp only
  split
  · rw [entry_joinCensus, entry_noteChange, entry_modEntry]
  · rw [entry_noteChange, entry_modEntry]

theorem enabled_still (s : State) (n : Stn) : (s.enabled n).table = s.table ∧ (s.enabled n).line = s.line := by
  have changed : OnlyDir s ((s.modEntry n fun e => { Entry.reset with wasPresent := e.wasPresent }).noteChange n) :=
    (onlyDir_modEntry s n _).trans (onlyDir_noteChange _ n)
  have all : OnlyDir s (s.enabled n) := by
    unfold State.enabled
    dsimp only
    split
    · exact changed.trans (onlyDir_joinCensus _ n)
    · exact changed
  exact ⟨all.table, by rw [show s.enabled n = _ from all]⟩

theorem exec_stationEnable_kept (f : CmdFields) (s : State) :
    Runs (exec (.stationEnable f) s) fun t => OnLineKept s t ∧ CountsKept s t := by
  have refused (v : CmdVerdict) : Runs (.next (s.command v 0x0B f)) fun t => OnLineKept s t ∧ CountsKept s t :=
    runs_next ⟨(still_command s v 0x0B f).keeps.goes.onLineKept, (still_command s v 0x0B f).keeps.countsKept⟩
  show Runs (execStationEnable f s) _
  unfold execStationEnable
  split
  · exact refused _
  · rename_i n _
    split
    · rename_i disabled
      have entry (m : Stn) : ((s.enabled n).recount.command .accepted 0x0B f).entry m =
          { (s.enabled n).entry m with deferred := (s.enabled n).deferredOf m } := by
        rw [entry_command, entry_recount]
      have table : ((s.enabled n).recount.command .accepted 0x0B f).table = s.table := (enabled_still s n).1
      refine runs_next ⟨(goes_of_dir table (enabled_still s n).2 fun m e => ?_).onLineKept, fun counts => ?_⟩
      · rw [entry, enabled_entry] at e
        split at e
        · cases e
        · exact e
      · refine countsKept_of_station (n := n) table (.inr fun m => ?_) (fun m other => ?_) (fun idle tag x hx dest => ?_)
          counts
        · rw [entry]
          rfl
        · have same := deferredOf_of_xchg (xchg_of_table (enabled_still s n).1) m
          rw [entry, enabled_entry, if_neg other, same, ← counts m]
          exact ⟨rfl, rfl, rfl⟩
        · exact idle n tag x disabled hx dest
    · exact refused _

/-! ## LINK_STOP and RESET_N -/

/-- A state with every record FREE. -/
theorem onLineKept_of_free {s t : State} (shape : LineShape s → LineShape t)
    (job : LineShape s → ∀ tag ph q, t.line.job ≠ some (.attempt tag ph q))
    (free : ∀ tag, t.xchg tag = none) : OnLineKept s t := fun h =>
  onLineKept_of_off shape (fun _ tag y hy => by rw [free] at hy; cases hy) (job h)
    (fun _ _ tag y _ hy => by rw [free] at hy; cases hy) h

theorem countsKept_of_free {s t : State} (counts : CountsAgree t) (free : ∀ tag, t.xchg tag = none) : CountsKept s t :=
  fun _ => ⟨counts, fun _ _ _ _ _ => deferralsFit_of_zero counts (deferredOf_of_free free) fun tag y hy => by
    rw [free] at hy
    cases hy⟩

theorem exec_linkStop_kept (f : CmdFields) (s : State) :
    Runs (exec (.linkStop f) s) fun t => OnLineKept s t ∧ CountsKept s t := by
  show Runs (execLinkStop f s) _
  unfold execLinkStop
  split
  · rename_i may
    obtain ⟨idle, empty, _⟩ := mayStop_iff.mp may
    obtain ⟨m, clear, _⟩ := clearDirectory_spec s
    have cleared (tag : Tag) : s.clearDirectory.xchg tag = none := by
      rw [clear]
      exact empty tag
    have free (tag : Tag) : (s.linkStopped.recount.command .accepted 0x02 f).xchg tag = none := cleared tag
    have line : (s.linkStopped.recount.command .accepted 0x02 f).line =
        { s.line with state := .off, faultCount := 0, readyPending := false, timer := none } := by
      have same : s.clearDirectory.line = s.line := by rw [clear]
      rw [← same]
      rfl
    have rest : s.line.state.atWork = false := by rw [idle]; rfl
    have goes (shape : LineShape s) : LineStep s (s.linkStopped.recount.command .accepted 0x02 f) :=
      lineStep_leaves shape rest (by simp [idle]) line rfl (by simp) fun e => by
        have r := (shape.rest rest).2.1 e
        simp [idle] at r
    refine runs_next ⟨onLineKept_of_free (fun shape => (goes shape).shape) (fun shape tag ph q e => ?_) free,
      countsKept_of_free (countsAgree_recount _) free⟩
    have job := (goes shape).job tag ph q e
    rw [(shape.rest rest).1] at job
    cases job
  · have keeps := (still_command s .busy 0x02 f).keeps
    exact runs_next ⟨keeps.goes.onLineKept, keeps.countsKept⟩

theorem exec_resetN_kept (s : State) : Runs (exec .resetN s) fun t => OnLineKept s t ∧ CountsKept s t := by
  have shape : LineShape s.cleared :=
    lineShape_rest rfl rfl ⟨nofun, nofun⟩ ⟨nofun, nofun⟩ nofun rfl
  refine ⟨_, exec_resetN_cleared s, onLineKept_of_free (fun _ => shape) (fun _ _ _ _ e => by cases e) (cleared_xchg s),
    countsKept_of_free (fun n => ?_) (cleared_xchg s)⟩
  rw [cleared_entry, deferredOf_of_free (cleared_xchg s)]
  rfl

/-! ## LINK_RESET -/

theorem wasReset_off (x : Exchange) : x.wasReset.state ≠ .onLine := by
  unfold Exchange.wasReset
  split
  · simp [Exchange.finish]
  · rename_i h
    have kept : (x.markFill .linkReset).state = x.state := by
      unfold Exchange.markFill
      split <;> rfl
    rw [kept]
    intro on
    simp [Exchange.live, on] at h

theorem wasReset_calm (x : Exchange) : Calm x x.wasReset := by
  unfold Exchange.wasReset
  split
  · exact calm_finish x _
  · exact calm_markFill x _

theorem exec_linkReset_kept (f : CmdFields) (s : State) :
    Runs (exec (.linkReset f) s) fun t => OnLineKept s t ∧ CountsKept s t := by
  have refused (v : CmdVerdict) : Runs (.next (s.command v 0x03 f)) fun t => OnLineKept s t ∧ CountsKept s t :=
    runs_next ⟨(still_command s v 0x03 f).keeps.goes.onLineKept, (still_command s v 0x03 f).keeps.countsKept⟩
  show Runs (execLinkReset f s) _
  unfold execLinkReset
  split
  · exact refused _
  · split
    · exact refused _
    · have line : s.linkWasReset.line = s.resetLine.line := congrArg Outer.line (linkWasReset_outer s)
      have counts : CountsAgree s.linkWasReset := countsAgree_recount _
      have recs (tag : Tag) (y : Exchange) (hy : s.linkWasReset.xchg tag = some y) := linkWasReset_recs hy
      generalize s.linkWasReset = u at line counts recs ⊢
      have still := still_command u .accepted 0x03 f
      generalize u.command .accepted 0x03 f = t at still ⊢
      have line : t.line = s.resetLine.line := still.line.trans line
      have counts : CountsAgree t := still.keeps.counts counts
      have recs (tag : Tag) (y : Exchange) (hy : t.xchg tag = some y) := recs tag y (by rwa [still.xchg] at hy)
      have off (tag : Tag) (y : Exchange) (hy : t.xchg tag = some y) : y.state ≠ .onLine := by
        obtain ⟨x, _, rfl⟩ := recs tag y hy
        exact wasReset_off x
      refine runs_next ⟨onLineKept_of_off (fun _ => ?_) (fun _ => off) (fun tag ph q job => ?_) (fun _ _ tag y n hy e => ?_),
        fun _ => ⟨counts, fun _ _ phases _ _ => deferralsFit_of_zero counts (fun n => ?_) off⟩⟩
      · refine lineShape_of_line (lineShape_rest (t := s.resetLine) rfl rfl ?_ ?_ nofun rfl) line
        · simp [State.resetLine, State.enterBreak]
        · simp [State.resetLine, State.enterBreak]
      · rw [line] at job
        cases job
      · obtain ⟨x, hx, rfl⟩ := recs tag y hy
        exact ⟨x, hx, (wasReset_calm x).unsettledAt e⟩
      · refine countX_eq_zero (anyX_eq_false_iff.mpr fun tag y hy => ?_)
        obtain ⟨x, hx, rfl⟩ := recs tag y hy
        rw [wasReset_isDeferred phases hx, Bool.false_and]

end Sys2Proof.Machine
end

section
/-! PROOF. One ON_LINE, and room for deferrals, at the job offer and at the end of a request frame. -/

namespace Sys2Proof.Machine

/-! ## The job offer -/

/-- What the offer of an exchange leaves. -/
structure Offered (s : State) (tag : Tag) (x : Exchange) (t : State) : Prop where
  before : s.xchg tag = some x
  eligible : s.eligible tag = true
  idle : s.line.state = .idle
  xchg : ∀ t', t.xchg t' = if t' = tag then some (s.startAttempt x) else s.xchg t'
  entry : ∀ n, t.entry n = { s.entry n with deferred := t.deferredOf n }
  line : ∃ ph q whole frame, t.line =
    { s.line with state := .sending, job := some (.attempt tag ph q), frameWhole := whole, txFrame := frame }

theorem exec_jobOffer_offered (s : State) :
    Runs (exec .jobOffer s) fun t => Keeps s t ∨ ∃ tag x, Offered s tag x t := by
  have same : Runs (.next s) fun t => Keeps s t ∨ ∃ tag x, Offered s tag x t := runs_next (.inl (Still.refl s).keeps)
  show Runs (execJobOffer s) _
  unfold execJobOffer
  split
  · rename_i idle
    split
    · exact same
    · have rest : s.line.state.atWork = false := by rw [idle]; rfl
      refine runs_next (.inl ((Still.refl s).keeps.lined rfl rfl fun shape => lineStep_of_idle ?_ nofun
        (not_worksOn_of_rest rest)))
      obtain ⟨_, wait, settling⟩ := shape.rest rest
      exact
        { kind := by simpa [State.takeSweep, idle] using shape.kind
          cause := by simpa [State.takeSweep, idle] using shape.cause
          attempt := nofun
          sweep := fun _ => .inl rfl
          await := nofun
          slots := nofun
          sending := fun _ => nofun
          wait := fun e => by have r := wait e; simp [idle] at r
          settling := fun e => by rw [show s.line.settling = true from e] at settling; cases settling }
    · rename_i tag p choice
      split
      · rename_i x hx
        refine runs_next (.inr ⟨tag, x, hx, choose_eligible choice, idle, fun t' => ?_, fun n => ?_, _, _, _, _, rfl⟩)
        · exact xchg_setXchg s tag t' (some (s.startAttempt x))
        · exact entry_recount (s.takeAttempt tag x) n
      · exact same
  · exact same

variable {s t : State} {tag : Tag} {x : Exchange}

theorem Offered.cases (h : Offered s tag x t) {t' : Tag} {y : Exchange} (hy : t.xchg t' = some y) :
    t' = tag ∧ y = s.startAttempt x ∨ t' ≠ tag ∧ s.xchg t' = some y := by
  rw [h.xchg] at hy
  split at hy
  · rename_i own
    cases hy
    exact .inl ⟨own, rfl⟩
  · rename_i other
    exact .inr ⟨other, hy⟩

/-- In IDLE no exchange is ON_LINE. -/
theorem Offered.off (h : Offered s tag x t) (one : OneOnLine s) {t' : Tag} {y : Exchange} (hy : s.xchg t' = some y) :
    y.state ≠ .onLine := fun on =>
  not_worksOn_of_rest (by rw [h.idle]; rfl) t' (one t' y hy on)

theorem Offered.lineShape (h : Offered s tag x t) (shape : LineShape s) : LineShape t := by
  obtain ⟨ph, q, whole, frame, line⟩ := h.line
  obtain ⟨_, wait, settling⟩ := shape.rest (by rw [h.idle]; rfl)
  have state : t.line.state = .sending := by rw [line]
  have job : t.line.job = some (.attempt tag ph q) := by rw [line]
  exact
    { kind := by rw [line]; simpa [h.idle] using shape.kind
      cause := by rw [line]; simpa [h.idle] using shape.cause
      attempt := fun _ _ _ _ => .inl state
      sweep := fun e => by rw [job] at e; cases e
      await := fun e => by rw [state] at e; simp at e
      slots := fun e => by rw [state] at e; cases e
      sending := fun _ e => by rw [job] at e; cases e
      wait := fun e => by rw [line] at e; have r := wait e; simp [h.idle] at r
      settling := fun e => by rw [line] at e; rw [show s.line.settling = true from e] at settling; cases settling }

/-- The exchange that is offered is settled with the others to its station (R87). -/
theorem Offered.alone (h : Offered s tag x t) (phases : PhasesAgree s) {n : Stn} (kind : x.kind.nonIdem = true)
    (dest : x.dest = .station n) : (s.entry n).seqUncertain = false ∧
      ∀ t' y, t' ≠ tag → s.xchg t' = some y → ¬y.unsettledAt n := by
  obtain ⟨x', hx', _, _, _, nonIdem, _⟩ := eligible_iff.mp h.eligible
  rw [h.before] at hx'
  cases hx'
  have issue : x.phase = .issue := by
    by_contra other
    rw [phases.read tag x h.before other] at kind
    cases kind
  obtain ⟨certain, others⟩ := nonIdemOk_station nonIdem dest kind issue
  refine ⟨certain, fun t' y other hy e => ?_⟩
  obtain ⟨active, unanswered⟩ := others t' y other hy
  rw [Exchange.unsettledAt, active, unanswered] at e
  simp at e

theorem unsettledAt_kind {y : Exchange} {n : Stn} (h : y.unsettledAt n) : y.kind.nonIdem = true ∧ y.dest = .station n := by
  rcases h with e | e
  · obtain ⟨kind, dest, _⟩ := nonIdemActiveAt_iff.mp e
    exact ⟨kind, dest⟩
  · obtain ⟨kind, _, dest⟩ := unansweredAt_iff.mp e
    exact ⟨kind, dest⟩

theorem Offered.oneUnsettled (h : Offered s tag x t) (one : OneOnLine s) (phases : PhasesAgree s) (old : OneUnsettled s) :
    OneUnsettled t := by
  have clash {n : Stn} {t' : Tag} {y : Exchange} (own : (s.startAttempt x).unsettledAt n) (other : t' ≠ tag)
      (hy : s.xchg t' = some y) (e : y.unsettledAt n) : False := by
    obtain ⟨kind, dest⟩ := unsettledAt_kind own
    exact (h.alone phases kind dest).2 t' y other hy e
  refine ⟨fun t' ph q job => ?_, fun n t₁ t₂ y z hy hz ey ez => ?_, fun n t' y doubt hy nonIdem dest on => ?_⟩
  · obtain ⟨_, _, _, _, line⟩ := h.line
    rw [line] at job
    cases job
    exact ⟨_, by rw [h.xchg, if_pos rfl], rfl⟩
  · rcases h.cases hy with ⟨own₁, rfl⟩ | ⟨other₁, hy'⟩
    · rcases h.cases hz with ⟨own₂, rfl⟩ | ⟨other₂, hz'⟩
      · rw [own₁, own₂]
      · exact (clash ey other₂ hz' ez).elim
    · rcases h.cases hz with ⟨own₂, rfl⟩ | ⟨other₂, hz'⟩
      · exact (clash ez other₁ hy' ey).elim
      · exact old.one n t₁ t₂ y z hy' hz' ey ez
  · rcases h.cases hy with ⟨own, rfl⟩ | ⟨other, hy'⟩
    · have certain := (h.alone phases nonIdem dest).1
      rw [h.entry] at doubt
      rw [show (s.entry n).seqUncertain = true from doubt] at certain
      cases certain
    · exact h.off one hy' on

theorem Offered.onLineKept (h : Offered s tag x t) : OnLineKept s t := by
  refine fun shape => ⟨h.lineShape shape, fun one t' y hy on => ?_, fun one phases _ _ => h.oneUnsettled one phases⟩
  rcases h.cases hy with ⟨own, rfl⟩ | ⟨other, hy'⟩
  · obtain ⟨ph, q, _, _, line⟩ := h.line
    rw [line]
    exact ⟨⟨ph, q, by rw [own]⟩, .inl rfl⟩
  · exact (h.off one hy' on).elim

theorem Offered.deferredOf (h : Offered s tag x t) (n : Stn) : t.deferredOf n = s.deferredOf n := by
  obtain ⟨x', hx', waiting, _⟩ := eligible_iff.mp h.eligible
  rw [h.before] at hx'
  cases hx'
  refine countX_congr fun t' => ?_
  rw [h.xchg]
  split
  · rename_i own
    rw [own, h.before, Option.any_some, Option.any_some,
      startAttempt_isDeferred s (by simp [Exchange.live, waiting])]
    rfl
  · rfl

theorem Offered.countsKept (h : Offered s tag x t) : CountsKept s t := by
  intro counts
  refine ⟨fun n => by rw [h.entry], fun _ one _ _ fit => ?_⟩
  have same (n : Stn) : t.entry n = s.entry n := by
    rw [h.entry, h.deferredOf, ← counts n]
  refine ⟨fun n => by rw [same]; exact fit.capacity n, fun n => by rw [same]; exact fit.closed n,
    fun n t' y hy dest kind issue on => ?_⟩
  rcases h.cases hy with ⟨own, rfl⟩ | ⟨other, hy'⟩
  · obtain ⟨x', hx', _, admits, _, _, _, read, _⟩ := eligible_iff.mp h.eligible
    rw [h.before] at hx'
    cases hx'
    have dest : x.dest = .station n := dest
    have kind : x.kind = .read := kind
    obtain ⟨_, disabled, census, recovering, _⟩ := admits_iff.mp admits n dest
    rw [same]
    refine ⟨?_, fun capacity => ((readOk_iff.mp read n dest kind issue).2 capacity).1⟩
    rw [kind] at census recovering
    cases st : (s.entry n).state with
    | present | suspect | held | resync => rfl
    | disabled => exact (disabled st).elim
    | vacant => exact (nomatch census (.inl st))
    | silent => exact (nomatch census (.inr st))
    | recovering => exact (nomatch (recovering st).1)
  · exact (h.off one hy' on).elim

theorem exec_jobOffer_kept (s : State) : Runs (exec .jobOffer s) fun t => OnLineKept s t ∧ CountsKept s t := by
  refine (exec_jobOffer_offered s).mono fun t h => ?_
  rcases h with keeps | ⟨tag, x, offered⟩
  · exact ⟨keeps.goes.onLineKept, keeps.countsKept⟩
  · exact ⟨offered.onLineKept, offered.countsKept⟩

/-! ## The end of a request frame -/

/-- The record once its frame has gone out whole (R8). -/
def Exchange.sentWhole (x : Exchange) : Exchange :=
  if x.kind.nonIdem ∧ x.phase = .issue then { x with unanswered := true } else x

theorem sentWhole_fields (x : Exchange) : x.sentWhole.state = x.state ∧ x.sentWhole.phase = x.phase ∧
    x.sentWhole.isDeferred = x.isDeferred ∧ SameRequest x x.sentWhole := by
  unfold Exchange.sentWhole
  split <;> exact ⟨rfl, rfl, rfl, ⟨rfl, rfl, rfl, rfl, rfl, rfl, rfl, rfl⟩⟩

theorem sentWhole_unsettledAt {x : Exchange} (on : x.state = .onLine) {n : Stn} (e : x.sentWhole.unsettledAt n) :
    x.unsettledAt n := by
  unfold Exchange.sentWhole at e
  split at e
  · rename_i h
    obtain ⟨_, dest⟩ := unsettledAt_kind e
    exact .inl (nonIdemActiveAt_iff.mpr ⟨h.1, dest, h.2, .inl on⟩)
  · exact e

/-- What the end of a request frame leaves. -/
structure FrameSent (s : State) (tag : Tag) (t : State) : Prop where
  sending : s.line.state = .sending
  job : ∃ ph q, s.line.job = some (.attempt tag ph q)
  xchg : ∀ t', t.xchg t' = (s.xchg t').map fun x => if t' = tag then x.sentWhole else x
  entry : ∀ n, t.entry n = { s.entry n with deferred := t.deferredOf n }
  line : ∃ timer, t.line = { s.line with state := .await, frameWhole := true, txFrame := none, timer := timer }

theorem exec_requestFrameSent_cases (s : State) :
    Runs (exec .requestFrameSent s) fun t => t = s ∨ ∃ tag, FrameSent s tag t := by
  show Runs (execRequestFrameSent s) _
  unfold execRequestFrameSent
  split
  · rename_i tag ph q st job
    split
    · refine runs_next (.inr ⟨tag, st, ⟨ph, q, job⟩, fun t' => ?_, fun n => entry_recount _ n, _, rfl⟩)
      refine (xchg_mapX s _ t').trans (congrArg (fun f => (s.xchg t').map f) (funext fun x => ?_))
      unfold Exchange.sentWhole
      by_cases own : t' = tag
      · simp [own]
      · simp [own]
    · exact runs_next (.inl rfl)
  · exact runs_next (.inl rfl)

theorem FrameSent.cases (h : FrameSent s tag t) {t' : Tag} {y : Exchange} (hy : t.xchg t' = some y) :
    ∃ x, s.xchg t' = some x ∧ (t' = tag ∧ y = x.sentWhole ∨ t' ≠ tag ∧ y = x) := by
  rw [h.xchg] at hy
  obtain ⟨x, hx, rfl⟩ := Option.map_eq_some_iff.mp hy
  by_cases own : t' = tag
  · exact ⟨x, hx, .inl ⟨own, if_pos own⟩⟩
  · exact ⟨x, hx, .inr ⟨own, if_neg own⟩⟩

theorem FrameSent.same (h : FrameSent s tag t) {t' : Tag} {y : Exchange} (hy : t.xchg t' = some y) :
    ∃ x, s.xchg t' = some x ∧ y.state = x.state ∧ y.phase = x.phase ∧ y.isDeferred = x.isDeferred ∧ SameRequest x y := by
  obtain ⟨x, hx, ⟨_, rfl⟩ | ⟨_, rfl⟩⟩ := h.cases hy
  · exact ⟨x, hx, sentWhole_fields x⟩
  · exact ⟨y, hx, rfl, rfl, rfl, .refl y⟩

theorem FrameSent.lineShape (h : FrameSent s tag t) (shape : LineShape s) : LineShape t := by
  obtain ⟨_, line⟩ := h.line
  obtain ⟨ph, q, job⟩ := h.job
  have state : t.line.state = .await := by rw [line]
  have job' : t.line.job = some (.attempt tag ph q) := by rw [line]; exact job
  exact
    { kind := by rw [line]; simpa [h.sending] using shape.kind
      cause := by rw [line]; simpa [h.sending] using shape.cause
      attempt := fun _ _ _ _ => .inr (.inl state)
      sweep := fun e => by rw [job'] at e; cases e
      await := fun _ => ⟨tag, ph, q, job'⟩
      slots := fun e => by rw [state] at e; cases e
      sending := fun e => by rw [state] at e; cases e
      wait := fun e => by rw [line] at e; have r := (shape.wait e).2; rw [job] at r; cases r
      settling := fun e => by rw [line] at e; have r := shape.settling e; rw [h.sending] at r; cases r }

theorem FrameSent.oneUnsettled (h : FrameSent s tag t) (old : OneUnsettled s) : OneUnsettled t := by
  obtain ⟨ph, q, job⟩ := h.job
  obtain ⟨x, hx, on⟩ := old.job tag ph q job
  have before {n : Stn} {t' : Tag} {y : Exchange} (hy : t.xchg t' = some y) (e : y.unsettledAt n) :
      ∃ z, s.xchg t' = some z ∧ z.unsettledAt n := by
    obtain ⟨z, hz, ⟨rfl, rfl⟩ | ⟨_, rfl⟩⟩ := h.cases hy
    · rw [hx] at hz
      cases hz
      exact ⟨x, hx, sentWhole_unsettledAt on e⟩
    · exact ⟨y, hz, e⟩
  refine ⟨fun t' ph' q' job' => ?_, fun n t₁ t₂ y z hy hz ey ez => ?_, fun n t' y doubt hy nonIdem dest on' => ?_⟩
  · obtain ⟨_, line⟩ := h.line
    rw [line] at job'
    have job' : s.line.job = some (.attempt t' ph' q') := job'
    rw [job] at job'
    cases job'
    refine ⟨x.sentWhole, by rw [h.xchg, hx, Option.map_some, if_pos rfl], ?_⟩
    rw [(sentWhole_fields x).1, on]
  · obtain ⟨y', hy', ey⟩ := before hy ey
    obtain ⟨z', hz', ez⟩ := before hz ez
    exact old.one n t₁ t₂ y' z' hy' hz' ey ez
  · obtain ⟨z, hz, state, _, _, request⟩ := h.same hy
    rw [h.entry] at doubt
    exact old.certain n t' z doubt hz (by rw [← request.kind]; exact nonIdem) (by rw [← request.dest]; exact dest)
      (state ▸ on')

theorem FrameSent.onLineKept (h : FrameSent s tag t) : OnLineKept s t := by
  refine fun shape => ⟨h.lineShape shape, fun one t' y hy on => ?_, fun _ _ _ _ => h.oneUnsettled⟩
  obtain ⟨x, hx, state, _⟩ := h.same hy
  obtain ⟨⟨ph, q, job⟩, _⟩ := one t' x hx (state ▸ on)
  obtain ⟨_, line⟩ := h.line
  rw [line]
  exact ⟨⟨ph, q, job⟩, .inr (.inl rfl)⟩

theorem FrameSent.countsKept (h : FrameSent s tag t) : CountsKept s t := by
  intro counts
  have after : CountsAgree t := fun n => by rw [h.entry]
  refine ⟨after, fun _ _ _ _ fit => fit.of_less counts after (fun n => ?_) (fun n => ?_) fun t' y hy on => ?_⟩
  · refine countX_mono fun t' y hy e => ?_
    obtain ⟨x, hx, _, _, deferred, request⟩ := h.same hy
    exact ⟨x, hx, by rw [← deferred, ← request.dest]; exact e⟩
  · rw [h.entry]
    exact ⟨rfl, rfl⟩
  · obtain ⟨x, hx, state, phase, _, request⟩ := h.same hy
    exact ⟨x, hx, state ▸ on, phase, request⟩

theorem exec_requestFrameSent_kept (s : State) :
    Runs (exec .requestFrameSent s) fun t => OnLineKept s t ∧ CountsKept s t := by
  refine (exec_requestFrameSent_cases s).mono fun t h => ?_
  rcases h with rfl | ⟨tag, sent⟩
  · exact ⟨(Still.refl t).keeps.goes.onLineKept, (Still.refl t).keeps.countsKept⟩
  · exact ⟨sent.onLineKept, sent.countsKept⟩

end Sys2Proof.Machine
end

section
/-! PROOF. The commands that end an attempt: the move of its exchange, which defers a READ at most where its station can defer,
and the other records, which rise in nothing. -/

namespace Sys2Proof.Machine

open Relation (ReflTransGen)

/-! ## Which moves defer -/

/-- Where the move stays, it does not fill, and it defers a READ alone, to a station that can defer. -/
def Defers (cap : Nat) (x : Exchange) (m : Move × Exchange) : Prop :=
  ∀ y, m.1 = .stays y → y.state ≠ .filling ∧ (y.phase ≠ .issue → x.phase ≠ .issue ∨ x.kind = .read ∧ 1 ≤ cap)

section
variable {cap : Nat} {x : Exchange}

theorem defers_complete (c : Completion) (p : Bool) (z : Exchange) : Defers cap x (.complete c p, z) :=
  fun _ e => by cases e

theorem defers_abandon (h : x.phase ≠ .issue ∨ x.kind = .read ∧ 1 ≤ cap) (c : Carried) (z : Exchange) :
    Defers cap x (.stays (x.toAbandon c), z) := fun y e => by
  cases e
  exact ⟨by simp [Exchange.toAbandon], fun _ => h⟩

theorem defers_same {y : Exchange} (state : y.state ≠ .filling) (phase : y.phase = x.phase) (z : Exchange) :
    Defers cap x (.stays y, z) := fun y e => by
  cases e
  exact ⟨state, fun other => .inl (phase ▸ other)⟩

variable (expired : x.expired = true → x.phase ≠ .issue)
include expired

theorem defers_lost (regs : Regs) (ab : Bool) (k : FaultKind) : Defers cap x (lostMove regs cap ab x k, x) := by
  unfold lostMove
  split
  · rename_i h
    exact defers_abandon (.inl (expired h.2)) _ _
  · split
    · exact defers_same (by simp [Exchange.toBackoff]) rfl _
    · split
      · unfold exhaustedIssue
        split
        · rename_i h
          exact defers_abandon (.inr h) _ _
        · exact defers_complete _ _ _
      · rename_i phase
        exact defers_abandon (.inl (by simp [phase])) _ _
      · exact defers_complete _ _ _

theorem defers_soundFault (ab : Bool) (k : FaultKind) : Defers cap x (soundFaultMove cap ab x k, x) := by
  unfold soundFaultMove
  split
  · exact defers_complete _ _ _
  · split
    · rename_i h
      exact defers_abandon (.inl (expired h)) _ _
    · exact defers_complete _ _ _
  · exact defers_complete _ _ _

theorem defers_reply (regs : Regs) (ab : Bool) {r : Reply} (read : r.kind = .defer → x.kind = .read) :
    Defers cap x (replyMove regs cap ab x r) := by
  unfold replyMove
  split
  · unfold busyMove
    dsimp only
    split
    · exact defers_same (by simp [Exchange.toBackoff]) rfl _
    · exact defers_complete _ _ _
  · exact defers_complete _ _ _
  · exact defers_complete _ _ _
  · rename_i kind
    split
    · rename_i room
      intro y e
      cases e
      exact ⟨by simp [Exchange.toCollect], fun _ => .inr ⟨read kind, room⟩⟩
    · exact defers_complete _ _ _
  · split
    · rename_i h
      exact defers_abandon (.inl (expired h)) _ _
    · exact defers_same (by simp) rfl _
  · split
    · exact defers_complete _ _ _
    · split
      · rename_i h
        exact defers_abandon (.inl (expired h)) _ _
      · exact defers_complete _ _ _
  · split <;> exact defers_complete _ _ _
  all_goals exact defers_complete _ _ _

end

/-- A reply to this exchange is of a kind that its request allows (R56). -/
def Verdict.suits (v : Verdict) (x : Exchange) : Prop := ∀ r, v = .reply r → allowedReply (requestKind x) r.kind = true

theorem read_of_defer {x : Exchange} (h : allowedReply (requestKind x) .defer = true) : x.kind = .read := by
  unfold requestKind at h
  split at h
  · assumption
  · assumption
  · assumption
  all_goals cases h

theorem heard_phase (x : Exchange) (v : Verdict) :
    (heard x v).phase = x.phase ∧ (heard x v).kind = x.kind ∧ (heard x v).expired = x.expired := by
  unfold heard
  split <;> exact ⟨rfl, rfl, rfl⟩

theorem defers_moveOf (s : State) {x : Exchange} {v : Verdict} (suits : v.suits x)
    (expired : x.expired = true → x.phase ≠ .issue) : Defers (s.capacityOf x.dest) x (s.moveOf x v) := by
  obtain ⟨phase, kind, mark⟩ := heard_phase x v
  have outcome : Defers (s.capacityOf x.dest) x
      (outcomeMove s.regs (s.capacityOf x.dest) (s.cancelOf x.owner == .abort) (heard x v) v) := by
    have expired' : (heard x v).expired = true → (heard x v).phase ≠ .issue := by rwa [phase, mark]
    have same {m : Move × Exchange} (h : Defers (s.capacityOf x.dest) (heard x v) m) :
        Defers (s.capacityOf x.dest) x m := by
      rwa [Defers, phase, kind] at h
    unfold outcomeMove
    split
    · rename_i r
      exact same (defers_reply expired' _ _ fun e => by
        rw [kind]
        exact read_of_defer (e ▸ suits r rfl))
    · exact same (defers_soundFault expired' _ _)
    · exact same (defers_lost expired' _ _ _)
    · exact defers_complete _ _ _
  unfold State.moveOf
  dsimp only
  generalize outcomeMove s.regs (s.capacityOf x.dest) (s.cancelOf x.owner == .abort) (heard x v) v = m at outcome
  obtain ⟨m, z⟩ := m
  cases m with
  | complete c p => exact outcome
  | stays y =>
    obtain ⟨_, rise⟩ := outcome y rfl
    unfold cancelMove
    dsimp only
    split
    · exact defers_complete _ _ _
    · split
      · rename_i h
        intro w e
        cases e
        exact ⟨by simp [Exchange.toAbandon], fun _ => rise (by simp [h.2])⟩
      · exact outcome

/-! ## The records after an outcome -/

/-- The record of the exchange itself is not ON_LINE after the outcome, and asks for what it asked for. -/
theorem movedBy_own {s : State} {tag : Tag} {x y : Exchange} {v : Verdict} (on : x.state = .onLine)
    (hy : (s.movedBy tag x v).xchg tag = some y) : y.state ≠ .onLine ∧ SameRequest x y := by
  have good := goodMove_moveOf s x v on
  have moved : ∃ z, ((s.keepPayload x v).applyMove tag (s.moveOf x v)).xchg tag = some z ∧ z.state ≠ .onLine ∧
      SameRequest x z := by
    generalize s.moveOf x v = m at good
    obtain ⟨m, z⟩ := m
    cases m with
    | stays y =>
      obtain ⟨request, off, _⟩ := good.stays y rfl
      exact ⟨y, (xchg_setXchg _ _ _ _).trans (if_pos rfl), off, request⟩
    | complete c p =>
      refine ⟨z.finish c, completeOne_xchg c ((xchg_setXchg _ _ _ _).trans (if_pos rfl)), by simp [Exchange.finish], ?_⟩
      exact good.before.trans ⟨rfl, rfl, rfl, rfl, rfl, rfl, rfl, rfl⟩
  obtain ⟨z, hz, off, request⟩ := moved
  obtain ⟨y', hy', mends⟩ := (mended_afterMove s tag x v).some hz
  rw [hy] at hy'
  cases hy'
  have calm := calm_mends mends
  exact ⟨fun e => off (calm.onLine e).1, request.trans calm.request⟩

/-- What a command leaves that reports an outcome of the attempt of this exchange: the records and the entries that the outcome
leaves, and a line without a job. -/
structure Reported (s : State) (tag : Tag) (v : Verdict) (t : State) : Prop where
  job : ∃ ph q, s.line.job = some (.attempt tag ph q)
  suits : ∀ x, s.xchg tag = some x → v.suits x
  outcome : ∃ u : State, u.table = s.table ∧ u.dir = s.dir ∧ t.table = (u.applyVerdict tag v).table ∧
    t.dir = (u.applyVerdict tag v).dir
  ends : t.line.job = none
  shape : LineShape s → LineShape t

/-- The outcome finds no exchange ON_LINE, and does nothing; or it moves the exchange and ends the step. -/
theorem Reported.cases {s t : State} {tag : Tag} {v : Verdict} (h : Reported s tag v t) :
    (t.table = s.table ∧ t.dir = s.dir ∧ ∀ x, s.xchg tag = some x → x.state ≠ .onLine) ∨
    ∃ (u : State) (x : Exchange), u.table = s.table ∧ u.dir = s.dir ∧ s.xchg tag = some x ∧ x.state = .onLine ∧
      t.table = ((u.movedBy tag x v).endStep u).table ∧ t.dir = ((u.movedBy tag x v).endStep u).dir := by
  obtain ⟨u, table, dir, table', dir'⟩ := h.outcome
  have same := xchg_of_table table tag
  by_cases acts : ∃ x, s.xchg tag = some x ∧ x.state = .onLine
  · obtain ⟨x, hx, on⟩ := acts
    rw [applyVerdict_eq v (same.trans hx) on] at table' dir'
    exact .inr ⟨u, x, table, dir, hx, on, table', dir'⟩
  · have idle : u.applyVerdict tag v = u := by
      unfold State.applyVerdict
      split
      · rfl
      · rename_i x hx
        exact if_neg fun on => acts ⟨x, same.symm.trans hx, on⟩
    rw [idle] at table' dir'
    exact .inl ⟨table'.trans table, dir'.trans dir, fun x hx on => acts ⟨x, hx, on⟩⟩

theorem Reported.onLine_own {s t : State} {tag : Tag} {v : Verdict} (h : Reported s tag v t) (one : OneOnLine s)
    {t' : Tag} {x : Exchange} (hx : s.xchg t' = some x) (on : x.state = .onLine) : t' = tag := by
  obtain ⟨ph, q, job⟩ := h.job
  obtain ⟨⟨ph', q', job'⟩, _⟩ := one t' x hx on
  rw [job] at job'
  cases job'
  rfl

/-- After the outcome no exchange is ON_LINE, and a record that holds others back did so before. -/
theorem Reported.recs {s t : State} {tag : Tag} {v : Verdict} (h : Reported s tag v t) (one : OneOnLine s) {t' : Tag}
    {y : Exchange} (hy : t.xchg t' = some y) :
    y.state ≠ .onLine ∧ (PhasesAgree s → ∀ n, y.unsettledAt n → ∃ x, s.xchg t' = some x ∧ x.unsettledAt n) := by
  rcases h.cases with ⟨table, _, off⟩ | ⟨u, x, table, _, hx, on, table', _⟩
  · rw [xchg_of_table table] at hy
    refine ⟨fun on => ?_, fun _ n e => ⟨y, hy, e⟩⟩
    have own := h.onLine_own one hy on
    rw [own] at hy
    exact off y hy on
  · have moved : (u.movedBy tag x v).xchg t' = some y := by
      rw [xchg_of_table table', xchg_endStep] at hy
      split at hy
      · cases hy
      · exact hy
    by_cases own : t' = tag
    · rw [own] at moved ⊢
      obtain ⟨off, request⟩ := movedBy_own on moved
      refine ⟨off, fun phases n e => ⟨x, hx, ?_⟩⟩
      obtain ⟨kind, dest⟩ := unsettledAt_kind e
      exact .inl (nonIdemActiveAt_of_onLine phases hx (by rw [← request.kind]; exact kind)
        (by rw [← request.dest]; exact dest) on)
    · have other := movedBy_other (s := u) (x := x) (v := v) own
      rw [xchg_of_table table, moved] at other
      generalize hz : s.xchg t' = z at other ⊢
      cases other with
      | some mends =>
        have calm := calm_mends mends
        refine ⟨fun e => own (h.onLine_own one hz (calm.onLine e).1), fun _ n e => ⟨_, rfl, calm.unsettledAt e⟩⟩

theorem Reported.onLineKept {s t : State} {tag : Tag} {v : Verdict} (h : Reported s tag v t) : OnLineKept s t :=
  onLineKept_of_off h.shape (fun one _ _ hy => (h.recs one hy).1) (fun _ _ _ e => by rw [h.ends] at e; cases e)
    fun one phases _ _ n hy => (h.recs one hy).2 phases n

end Sys2Proof.Machine
end

section
/-! PROOF. Each command that ends an attempt reports an outcome and leaves a line without a job. -/

namespace Sys2Proof.Machine

/-- The command leaves the attempt alone, or ends it. -/
def KeepsOrReports (s t : State) : Prop := Keeps s t ∨ ∃ tag v, Reported s tag v t

theorem runs_self_keepsOrReports (s : State) : Runs (.next s) (KeepsOrReports s) := runs_next (.inl (Still.refl s).keeps)

theorem suits_lost (k : FaultKind) (x : Exchange) : (Verdict.lost k).suits x := fun _ e => by cases e

theorem recordFault_same (s : State) (v : Verdict) : (s.recordFault v).table = s.table ∧ (s.recordFault v).dir = s.dir := by
  obtain ⟨f, e⟩ := recordFault_eq s v
  rw [e]
  exact ⟨rfl, rfl⟩

/-- A report, after which the command changes the line alone. -/
theorem reported_of {s t : State} {tag : Tag} {ph : Phase} {q : ReqKind} {v : Verdict}
    (job : s.line.job = some (.attempt tag ph q)) (suits : ∀ x, s.xchg tag = some x → v.suits x)
    (only : LineOnly (s.report tag v) t) (shape : LineShape s → LineShape t) : Runs (.next t) (KeepsOrReports s) :=
  runs_next (.inr ⟨tag, v, ⟨ph, q, job⟩, suits,
    ⟨s.recordFault v, (recordFault_same s v).1, (recordFault_same s v).2, only.table, only.dir⟩, only.job, shape⟩)

theorem lineShape_lineAfterReply (s : State) (v : Verdict) : LineShape (s.lineAfterReply v) := by
  unfold State.lineAfterReply
  split
  · exact lineShape_enterBreak _ _ _
  · exact lineShape_rest rfl rfl (by simp [State.enterGuard]) (by simp [State.enterGuard]) (fun e => by cases e) rfl

/-- Contention in an attempt: the line stays SENDING and waits (R75). -/
theorem lineShape_contention {s t : State} (shape : LineShape s) (st : s.line.state = .sending) {f : Option LastFault}
    (line : t.line = { s.line with lastFault := f, contentionWait := true, job := none, txFrame := none }) : LineShape t := by
  have state : t.line.state = .sending := by rw [line]; exact st
  have job : t.line.job = none := by rw [line]
  exact
    { kind := by rw [line]; exact shape.kind
      cause := by rw [line]; exact shape.cause
      attempt := fun _ _ _ e => by rw [job] at e; cases e
      sweep := fun e => by rw [job] at e; cases e
      await := fun e => by rw [state] at e; simp at e
      slots := fun e => by rw [state] at e; cases e
      sending := fun _ _ => by rw [line]
      wait := fun _ => ⟨.inr state, job⟩
      settling := by rw [line]; exact shape.settling }

theorem report_line (s : State) (tag : Tag) (v : Verdict) : (s.report tag v).line = (s.recordFault v).line :=
  congrArg Outer.line (applyVerdict_outer (s.recordFault v) tag v)

theorem exec_endsJob {i : Instr} (s : State) (h : endsJob i = true) : Runs (exec i s) (KeepsOrReports s) := by
  have same := runs_self_keepsOrReports s
  rcases endsJob_cases h with rfl | rfl | ⟨bytes, rfl⟩ | rfl | rfl | rfl
  · show Runs (execBcastWriteSent s) _
    unfold execBcastWriteSent
    split
    · rename_i tag ph st job
      exact runs_next (.inr ⟨tag, .sent, ⟨_, _, job⟩, (fun _ _ _ e => by cases e), ⟨s, rfl, rfl, rfl, rfl⟩, rfl, fun _ =>
        lineShape_rest rfl rfl (by simp [State.enterGuard]) (by simp [State.enterGuard]) (fun e => by cases e) rfl⟩)
    · exact same
  · show Runs (execReplyWindowExpiry s) _
    unfold execReplyWindowExpiry
    split
    · rename_i st job
      exact reported_of job (fun x _ => suits_lost _ x) (lineOnly_enterGuard _) fun _ => lineShape_enterGuard _
    · exact same
  · show Runs (execReplyReceived bytes s) _
    unfold execReplyReceived
    split
    · rename_i st settling job
      split
      · exact same
      · rename_i x hx
        split
        · exact runs_next (.inl ((Still.refl s).keeps.lined rfl rfl fun shape => ⟨⟨shape.kind, shape.cause, shape.attempt,
            shape.sweep, shape.await, shape.slots, shape.sending, shape.wait, fun _ => st⟩, fun _ _ _ e => e, fun _ e => e⟩))
        · rename_i v judged
          refine reported_of job (fun z hz r e => ?_) (lineOnly_lineAfterReply _ _) fun _ => lineShape_lineAfterReply _ _
          rw [hx] at hz
          cases hz
          exact (judgeReply_reply (e ▸ judged)).1
    · exact same
  · show Runs (execLineSettled s) _
    unfold execLineSettled
    split
    · rename_i job
      exact reported_of job (fun x _ => suits_lost _ x) (lineOnly_lineAfterReply _ _) fun _ => lineShape_lineAfterReply _ _
    · exact same
  · show Runs (execStuckLineTimeout s) _
    unfold execStuckLineTimeout
    split
    · rename_i job
      dsimp only
      split
      · exact reported_of job (fun x _ => suits_lost _ x) (lineOnly_enterBreak _ _ _ _) fun _ => lineShape_enterBreak _ _ _
      · refine reported_of job (fun x _ => suits_lost .framing x) ?_ fun _ => lineShape_enterBreak _ _ _
        exact ⟨rfl, rfl, rfl, rfl, rfl, rfl, .inr rfl, rfl, rfl, rfl, rfl⟩
    · exact same
  · cases job : s.line.job with
    | none => exact (exec_contention_keeps fun tag ph q e => by rw [job] at e; cases e).mono fun _ k => .inl k
    | some j =>
      cases j with
      | sweep => exact (exec_contention_keeps fun tag ph q e => by rw [job] at e; cases e).mono fun _ k => .inl k
      | attempt tag ph q =>
        by_cases st : s.line.state = .sending ∧ s.line.contentionWait = false
        · rw [exec_contention_attempt st.1 st.2 job]
          refine reported_of job (fun x _ => suits_lost .contention x) ?_ fun shape => ?_
          · exact ⟨rfl, rfl, rfl, rfl, rfl, rfl, .inl rfl, rfl, rfl, rfl, rfl⟩
          · obtain ⟨f, e⟩ := recordFault_eq s (.lost .contention)
            have line := report_line s tag (.lost .contention)
            rw [e] at line
            refine lineShape_contention shape st.1 (f := f) ?_
            dsimp only
            rw [line]
        · have idle : exec .contention s = .next s := by
            show execContention s = _
            unfold execContention
            split
            · rename_i none'
              rw [job] at none'
              cases none'
            · rename_i sending wait _
              exact absurd ⟨sending, wait⟩ st
            · rfl
          rw [idle]
          exact same

end Sys2Proof.Machine
end

section
/-! PROOF. At most one exchange is ON_LINE, the current job's, and at most one request to a station is in doubt. -/

namespace Sys2Proof.Machine

/-! ## The commands that leave the attempt alone -/

/-- The commands that set a station's deferrals apart or reach every record. -/
def reachesAll : Instr → Bool
  | .resetN | .linkStop _ | .linkReset _ | .stationDisable _ | .stationEnable _ | .jobOffer | .requestFrameSent => true
  | _ => false

theorem exec_keeps {i : Instr} (s : State) (job : endsJob i = false) (all : reachesAll i = false) :
    Runs (exec i s) (Keeps s) := by
  cases i with
  | resetN | linkStop f | linkReset f | stationDisable f | stationEnable f | jobOffer | requestFrameSent => cases all
  | bcastWriteSent | replyWindowExpiry | replyReceived b | lineSettled | stuckLineTimeout | contention => cases job
  | linkStart f => exact exec_linkStart_keeps f s
  | census f | stationHold f | stationRelease f | stationReset f => exact exec_station_keeps s f (by simp)
  | listStart f | listPause f | listResume f | listContinue f | listAbort f => exact exec_list_keeps s f (by simp)
  | eventPop f | eventFlush f | ackChanges f | windowClearFault f | unknownCommand c f | sweepNow f | causeAck m
  | causeEnable m | viewSnapshot o | registerAccessError => exact exec_register_keeps s (by simp)
  | sweepIntervalWrite v | rediscoverIntervalWrite v | eventThresholdWrite v | linkConfigWrite v | parameterWrite p v =>
    exact exec_write_keeps s (by simp)
  | stationWindowStore o e d | stationWindowLoad o e | windowHoldExpiry => exact exec_window_keeps s (by simp)
  | sweepFrameSent | replyStart | earlyFramingFault | contentionWaitEnd | slotsEnd l | breakEnd | guardEnd | wakeEnd =>
    exact exec_lineEvent_keeps s (by simp)
  | backoffExpiry t | deadlineExpiry t | holdTimerExpiry n | rediscoveryTimerExpiry | sweepIntervalExpiry =>
    exact exec_timer_keeps s (by simp)
  | censusCreation | recoveryCreation | fetchEventCreation | payloadGrant => exact exec_creation_keeps s (by simp)
  | portOperationStart | descriptorFetchEnd c w0 w1 w2 w3 w4 | fillEnd c b | drainEnd c | intakeStatusWriteEnd c
  | memoryFault c a | nopFenceFinish c | channelHalt c | abortEnd c => exact exec_port_keeps s (by simp)

theorem exec_reachesAll {i : Instr} (s : State) (h : reachesAll i = true) :
    Runs (exec i s) fun t => OnLineKept s t ∧ CountsKept s t := by
  cases i with
  | resetN => exact exec_resetN_kept s
  | linkStop f => exact exec_linkStop_kept f s
  | linkReset f => exact exec_linkReset_kept f s
  | stationDisable f => exact exec_stationDisable_kept f s
  | stationEnable f => exact exec_stationEnable_kept f s
  | jobOffer => exact exec_jobOffer_kept s
  | requestFrameSent => exact exec_requestFrameSent_kept s
  | _ => cases h

/-- Every command is one of three: it keeps the current attempt, it ends it, or its two results are known. -/
theorem exec_kept (i : Instr) (s : State) : Runs (exec i s) fun t =>
    (OnLineKept s t ∧ CountsKept s t) ∨ ∃ tag v, Reported s tag v t := by
  have keeps {t : State} (h : Keeps s t) : OnLineKept s t ∧ CountsKept s t := ⟨h.goes.onLineKept, h.countsKept⟩
  cases all : reachesAll i with
  | true => exact (exec_reachesAll s all).mono fun t h => .inl h
  | false =>
    cases job : endsJob i with
    | true => exact (exec_endsJob s job).mono fun t h => h.imp_left keeps
    | false => exact (exec_keeps s job all).mono fun t h => .inl (keeps h)

/-! ## Steps -/

theorem phasesAgree_pending {s : State} (h : PhasesAgree s) (l : List Instr) : PhasesAgree { s with pending := l } :=
  ⟨h.1, h.2, h.3, h.4, h.5, h.6, h.7, h.8, h.9⟩

theorem portNamesItsOwn_pending {s : State} (h : PortNamesItsOwn s) (l : List Instr) :
    PortNamesItsOwn { s with pending := l } := ⟨h.1, h.2, h.3⟩

/-- Settles O55: a command keeps the current attempt, or takes one while none is under way, or ends it and leaves no exchange
ON_LINE. -/
theorem everyStepKeepsOneOnLine : Obligations.EveryStepKeepsOneOnLine := by
  intro s t run
  rcases step_cases run with rfl | ⟨i, rest, _, run⟩
  · exact fun shape => ⟨shape, id, fun _ _ _ _ h => h⟩
  · have kept : OnLineKept { s with pending := rest } t := by
      rcases (exec_kept i _).ends t run with h | ⟨tag, v, reported⟩
      · exact h.1
      · exact reported.onLineKept
    intro shape
    obtain ⟨shape', one, unsettled⟩ := kept (lineShape_of_line shape rfl)
    exact ⟨shape', one, fun h phases ports hold old => unsettled h (phasesAgree_pending phases rest)
      (portNamesItsOwn_pending ports rest) hold ⟨old.1, old.2, old.3⟩⟩

end Sys2Proof.Machine
end

section
/-! PROOF. Room for deferrals under the directory's part of an outcome. -/

namespace Sys2Proof.Machine

open Relation (ReflTransGen)

/-- No station has more deferrals than its capacity, none where they have ended, and only a READ past its ISSUE phase is one. -/
structure Fits (s : State) : Prop where
  reads : ∀ tag x, s.xchg tag = some x → x.isDeferred = true → x.kind = .read ∧ x.state ≠ .filling
  capacity : ∀ n, s.deferredOf n ≤ (s.entry n).capacity
  closed : ∀ n, (s.entry n).state.noDeferrals = true → s.deferredOf n = 0

theorem deferredOf_eq_zero {s : State} {n : Stn}
    (h : ∀ tag x, s.xchg tag = some x → x.isDeferred = true → x.dest ≠ .station n) : s.deferredOf n = 0 :=
  countX_eq_zero (anyX_eq_false_iff.mpr fun tag x hx => by
    by_contra e
    simp only [Bool.not_eq_false, Bool.and_eq_true, beq_iff_eq] at e
    exact h tag x hx e.1 e.2)

/-- Whether a station's deferrals have ended, and its capacity. -/
def SameRoom (e e' : Entry) : Prop := e'.state.noDeferrals = e.state.noDeferrals ∧ e'.capacity = e.capacity

variable {s t : State} {n : Stn} {own : Tag} {x : Exchange} {v : Verdict}

/-- What is deferred was deferred before, with the same request. -/
def Eases (s t : State) : Prop := ∀ tag y, t.xchg tag = some y → y.isDeferred = true →
  ∃ x, s.xchg tag = some x ∧ x.isDeferred = true ∧ SameRequest x y ∧ (y.state = .filling → x.state = .filling)

theorem Calms.eases {K : Prop} (calms : Calms K s t) : Eases s t := fun tag y hy deferred => by
  rcases calms.recs tag y hy with ⟨x, hx, calm⟩ | fresh
  · exact ⟨x, hx, calm.deferred deferred, calm.request, calm.filling⟩
  · exact absurd deferred fresh.deferred

theorem eases_of_onlyDir (dir : OnlyDir s t) : Eases s t :=
  fun tag y hy deferred => ⟨y, by rwa [dir.xchg] at hy, deferred, .refl y, id⟩

theorem Eases.deferredOf_le (h : Eases s t) (n : Stn) : t.deferredOf n ≤ s.deferredOf n := by
  refine countX_mono fun tag y hy e => ?_
  simp only [Bool.and_eq_true, beq_iff_eq] at e ⊢
  obtain ⟨x, hx, deferred, request, _⟩ := h tag y hy e.1
  exact ⟨x, hx, deferred, by rw [← request.dest]; exact e.2⟩

/-- Nothing comes to be deferred, and stations keep their room or have no deferral left. -/
theorem Fits.eased (fits : Fits s) (eases : Eases s t)
    (room : ∀ n, t.deferredOf n = 0 ∨ SameRoom (s.entry n) (t.entry n)) : Fits t where
  reads tag y hy deferred := by
    obtain ⟨x, hx, old, request, fill⟩ := eases tag y hy deferred
    obtain ⟨kind, filling⟩ := fits.reads tag x hx old
    exact ⟨request.kind.trans kind, fun e => filling (fill e)⟩
  capacity n := by
    rcases room n with zero | ⟨_, capacity⟩
    · rw [zero]
      exact Nat.zero_le _
    · rw [capacity]
      exact (eases.deferredOf_le n).trans (fits.capacity n)
  closed n closed := by
    rcases room n with zero | ⟨ended, _⟩
    · exact zero
    · rw [ended] at closed
      exact Nat.le_zero.mp ((eases.deferredOf_le n).trans (fits.closed n closed).le)

theorem Fits.rests (fits : Fits s) (h : Rests False s t) : Fits t := fits.eased h.eases fun n => .inr (h.stations n)

theorem Fits.still (fits : Fits s) (h : Still s t) : Fits t := fits.rests h.rests

/-- Only the directory changes, and there no other entry. -/
structure OnlyStation (n : Stn) (s t : State) : Prop where
  dir : OnlyDir s t
  others : ∀ m, m ≠ n → t.entry m = s.entry m

theorem OnlyStation.refl (s : State) : OnlyStation n s s := ⟨.refl s, fun _ _ => rfl⟩

theorem OnlyStation.modEntry (h : OnlyStation n s t) (f : Entry → Entry) : OnlyStation n s (t.modEntry n f) :=
  ⟨h.dir.trans (onlyDir_modEntry t n f), fun m e => by rw [entry_modEntry, if_neg e, h.others m e]⟩

theorem OnlyStation.moveTo (h : OnlyStation n s t) (st : StnState) : OnlyStation n s (t.moveTo n st) :=
  ⟨h.dir.trans (onlyDir_moveTo t n st), fun m e => by rw [entry_moveTo, if_neg e, h.others m e]⟩

theorem OnlyStation.placePurge (h : OnlyStation n s t) : OnlyStation n s (t.placePurge n) :=
  ⟨h.dir.trans (onlyDir_placePurge t n), fun m e => by
    rw [entry_of_entries (by unfold State.placePurge; split <;> rfl), h.others m e]⟩

/-- The directory changes one station, which has no deferral. -/
theorem Fits.of_station (fits : Fits s) (only : OnlyStation n s t) (zero : s.deferredOf n = 0) : Fits t := by
  refine fits.eased (eases_of_onlyDir only.dir) fun m => ?_
  by_cases e : m = n
  · rw [e, deferredOf_of_xchg only.dir.xchg]
    exact .inl zero
  · rw [only.others m e]
    exact .inr ⟨rfl, rfl⟩

/-- The directory changes one station, which keeps its room. -/
theorem Fits.modEntry (fits : Fits s) {f : Entry → Entry} (room : SameRoom (s.entry n) (f (s.entry n))) :
    Fits (s.modEntry n f) := by
  refine fits.eased (eases_of_onlyDir (onlyDir_modEntry s n f)) fun m => .inr ?_
  rw [entry_modEntry]
  split
  · rename_i e
    rw [e]
    exact room
  · exact ⟨rfl, rfl⟩

theorem still_noteChange (s : State) (n : Stn) : Still s (s.noteChange n) :=
  (onlyDir_noteChange s n).still fun m => by
    rw [entry_noteChange]
    exact ⟨Entry.alike_of_eq rfl, rfl⟩

/-! ## The reactions -/

theorem rests_stopOnFailures {K : Prop} (s : State) : Rests K s s.stopOnFailures :=
  (rests_stopOnFailure s .A).trans (rests_stopOnFailure _ .B)

theorem rests_restarted (s : State) (n : Stn) (own : Tag) : Rests False s (s.restarted n own) :=
  (rests_complete s nofun).trans (rests_stopOnFailures _)

/-- After a restart the station's only deferral can be the reply's own exchange. -/
theorem restarted_left (s : State) (n : Stn) (own : Tag) {tag : Tag} {y : Exchange}
    (hy : (s.restarted n own).xchg tag = some y) (deferred : y.isDeferred = true) (dest : y.dest = .station n) :
    tag = own := by
  by_contra other
  rcases (rests_restarted s n own).recs tag y hy with ⟨x, hx, calm⟩ | fresh
  · have ended := restarted_ends hx (by rw [← calm.request.dest]; exact dest) (calm.deferred deferred) other
    rw [hy] at ended
    cases ended
    cases deferred
  · exact absurd deferred fresh.deferred

theorem takeRestart_rests (s : State) (n : Stn) (own : Tag) (x : Exchange) (v : Verdict) :
    Rests False s (s.takeRestart n own x v) := by
  unfold State.takeRestart
  split
  · refine Rests.trans (Rests.trans (rests_restarted s n own) ?_) (still_noteChange _ n).rests
    exact (still_modEntry ⟨⟨rfl, rfl, rfl⟩, rfl⟩).rests
  · exact .refl s

/-! ## The rules of the directory's own exchanges -/

/-- The station comes in: its deferrals had ended. -/
theorem Fits.comesIn (fits : Fits s) (closed : (s.entry n).state.noDeferrals = true) (ep : BitVec 4) (i : Identity) :
    Fits (s.comesIn n ep i) := by
  have ends {u : State} (h : OnlyStation n s u) : Fits u := fits.of_station h (fits.closed n closed)
  have adopted : OnlyStation n s (s.modEntry n fun e => { e.adopt i with epoch := some ep }) := (OnlyStation.refl s).modEntry _
  unfold State.comesIn
  dsimp only
  split
  · exact ends ((adopted.modEntry _).moveTo _)
  · split
    · exact ends (adopted.moveTo _).placePurge
    · exact ends ((adopted.modEntry _).moveTo _)
  all_goals exact ends (adopted.moveTo _).placePurge

/-- The IDENT of a station that is in: a new capacity is adopted after a restart alone. -/
theorem Fits.checkIdent (fits : Fits s) {restarted : Bool} (zero : restarted = true → s.deferredOf n = 0) (i : Identity) :
    Fits (s.checkIdent n restarted i) := by
  unfold State.checkIdent
  dsimp only
  split
  · rename_i h
    exact fits.of_station ((OnlyStation.refl s).modEntry _) (zero h)
  · split
    · exact fits.modEntry ⟨rfl, rfl⟩
    · exact (fits.modEntry ⟨rfl, rfl⟩).still (still_noteChange _ n)

/-- The directory takes an IDENT. -/
theorem Fits.takeIdent (fits : Fits s) {restarted : Bool} (zero : restarted = true → s.deferredOf n = 0) (ep : BitVec 4)
    (i : Identity) : Fits (s.takeIdent n restarted ep i) := by
  unfold State.takeIdent
  split
  · rename_i st
    exact fits.comesIn (by rw [st]; rfl) ep i
  · rename_i st
    exact fits.comesIn (by rw [st]; rfl) ep i
  · rename_i st
    exact fits.comesIn (by rw [st]; rfl) ep i
  all_goals exact fits.checkIdent zero i

theorem Fits.censusFailed (fits : Fits s) (st : CensusStatus) : Fits (s.censusFailed n st) := by
  have failed := fits.modEntry (n := n) (f := fun e => { e with lastCensus := some { status := st, stationFault := false } })
    ⟨rfl, rfl⟩
  unfold State.censusFailed
  dsimp only
  split
  · exact failed.still (still_joinCensus _ n)
  · exact failed

theorem Fits.purgeAccepted (fits : Fits s) : Fits (s.purgeAccepted n) := by
  have cleared := fits.modEntry (n := n) (f := fun e => { e with purgeNeeded := false }) ⟨rfl, rfl⟩
  unfold State.purgeAccepted
  dsimp only
  split
  · rename_i st
    refine cleared.still (still_moveTo ?_)
    rw [entry_modEntry, if_pos rfl, st]
    rfl
  · exact cleared

/-- An accepted STATION_RESET ends the station's deferrals. -/
theorem Fits.stationResetAccepted (fits : Fits s)
    (done : ∀ y, s.xchg own = some y → y.isDeferred = false) : Fits (s.stationResetAccepted n own) := by
  have ended := rests_restarted s n own
  have zero : (s.restarted n own).deferredOf n = 0 := deferredOf_eq_zero fun tag y hy deferred dest => by
    have same := restarted_left s n own hy deferred dest
    rcases ended.recs tag y hy with ⟨x, hx, calm⟩ | fresh
    · rw [same] at hx
      have old := calm.deferred deferred
      rw [done x hx] at old
      cases old
    · exact fresh.deferred deferred
  exact (fits.rests ended).of_station (((OnlyStation.refl _).modEntry _).moveTo _) zero

theorem Fits.eventFetched (fits : Fits s) (r : Reply) : Fits (s.eventFetched n r) := by
  have cleared := fits.modEntry (n := n) (f := fun e => { e with eventPending := false }) ⟨rfl, rfl⟩
  unfold State.eventFetched
  dsimp only
  split
  · exact cleared.still (.of_same rfl rfl rfl)
  all_goals exact cleared

/-- The rules of the directory's own exchanges: the exchange that acts is done, and after a restart nothing else is left. -/
theorem Fits.ownerActs (fits : Fits s) {restarted : Bool} {m : Move}
    (done : (∃ c p, m = .complete c p) → ∀ y, s.xchg own = some y → y.isDeferred = false)
    (left : restarted = true → ∀ tag y, s.xchg tag = some y → y.isDeferred = true → y.dest = .station n → tag = own) :
    Fits (s.ownerActs n own x restarted m v) := by
  unfold State.ownerActs
  split
  · exact fits
  · rename_i c p
    have done := done ⟨c, p, rfl⟩
    have zero (h : restarted = true) : s.deferredOf n = 0 := deferredOf_eq_zero fun tag y hy deferred dest => by
      have same := left h tag y hy deferred dest
      rw [same] at hy
      rw [done y hy] at deferred
      cases deferred
    split
    · exact fits.takeIdent zero _ _
    · exact fits.censusFailed _
    · exact fits.purgeAccepted
    · exact fits.stationResetAccepted done
    · split
      · exact fits.eventFetched _
      · exact fits
    · exact fits

/-! ## The later steps -/

theorem Fits.countOutcome (fits : Fits s) : Fits (s.countOutcome n v) := by
  unfold State.countOutcome
  split
  · have sound := fits.modEntry (n := n) (f := fun e => { e with failures := 0 }) ⟨rfl, rfl⟩
    dsimp only
    split
    · rename_i st
      refine sound.still (still_moveTo ?_)
      rw [entry_modEntry, if_pos rfl, st]
      rfl
    · exact sound
  · split
    · dsimp only
      have counted := fits.modEntry (n := n) (f := fun e => { e with failures := min 15 ((s.entry n).failures + 1) })
        ⟨rfl, rfl⟩
      split
      · rename_i h
        refine counted.still (still_moveTo ?_)
        rw [entry_modEntry, if_pos rfl, h.1]
        rfl
      · exact counted
    · exact fits

theorem Fits.setSeqBit (fits : Fits s) (restarted : Bool) : Fits (s.setSeqBit n x restarted v) := by
  unfold State.setSeqBit
  split
  · exact fits.modEntry ⟨rfl, rfl⟩
  · exact fits

/-- A station declared SILENT keeps no deferral. -/
theorem Fits.declareSilent (fits : Fits s) : Fits (s.declareSilent n) := by
  have eases : Eases s (s.declareSilent n) := by
    rw [declareSilent_eq]
    have lost : Rests False (s.shut n) (s.lost n).stopOnFailures :=
      ((rests_complete _ nofun).trans (rests_markFill _ (fun x => x.dest = .station n) .stationLost)).trans
        (rests_stopOnFailures _)
    exact lost.eases
  have silenced := silenced_declareSilent s n
  refine fits.eased eases fun m => ?_
  by_cases e : m = n
  · rw [e]
    refine .inl (deferredOf_eq_zero fun tag y hy deferred dest => ?_)
    have live : y.live = true := by
      simp only [Exchange.isDeferred, Bool.and_eq_true] at deferred
      exact deferred.1
    obtain ⟨x, hx, old, request, fill⟩ := eases tag y hy deferred
    obtain ⟨kind, filling⟩ := fits.reads tag x hx old
    rcases silenced.records tag y hy dest live with census | filled
    · rw [request.kind, kind] at census
      cases census
    · exact filling (fill filled.1)
  · have shut : (s.shut n).entry m = s.entry m := by
      rw [State.shut, entry_dropRecovery, entry_modEntry, if_neg e, entry_moveTo, if_neg e]
    obtain ⟨_, _, _, _, marked⟩ := (reacts_declareSilent s n).entry m
    rw [marked, shut]
    exact .inr ⟨rfl, rfl⟩

theorem Fits.takeAttention (fits : Fits s) : Fits (s.takeAttention n own v) := by
  unfold State.takeAttention
  split
  · exact fits
  · rename_i h _
    have ready : Fits (if h.attReady then s.readySign n (some own) else s) := by
      split
      · exact fits.rests (rests_readySign s n _)
      · exact fits
    dsimp only
    generalize (if h.attReady then s.readySign n (some own) else s) = u at ready ⊢
    split
    · exact ready.still (still_eventSign u n)
    · exact ready

theorem Fits.censusDone (fits : Fits s) (m : Move) : Fits (s.censusDone x m) := by
  unfold State.censusDone
  split
  · split
    · exact fits.still (still_raise s _)
    · exact fits
  · exact fits

/-- Steps 2 to 7 of an outcome. -/
theorem Fits.directoryActs (fits : Fits s) {m : Move}
    (done : (∃ c p, m = .complete c p) → ∀ y, s.xchg own = some y → y.isDeferred = false) :
    Fits (s.directoryActs n own x m v) := by
  have restart := takeRestart_rests s n own x v
  have acts : Fits ((s.takeRestart n own x v).ownerActs n own x (s.showsRestart n v) m v) := by
    refine (fits.rests restart).ownerActs (fun complete y hy => ?_) fun restarted tag y hy deferred dest => ?_
    · by_contra deferred
      simp only [Bool.not_eq_false] at deferred
      rcases restart.recs own y hy with ⟨z, hz, calm⟩ | fresh
      · have old := calm.deferred deferred
        rw [done complete z hz] at old
        cases old
      · exact fresh.deferred deferred
    · rw [xchg_of_table (takeRestart_table restarted)] at hy
      exact restarted_left s n own hy deferred dest
  unfold State.directoryActs
  dsimp only
  refine Fits.censusDone (Fits.takeAttention ?_) m
  have purged (u : State) (h : Fits u) : Fits (if m.purges then u.setPurge n else u) := by
    split
    · exact h.rests (rests_setPurge u n)
    · exact h
  have silent (u : State) (h : Fits u) (b : Bool) : Fits (if b then u.declareSilent n else u) := by
    split
    · exact h.declareSilent
    · exact h
  exact silent _ (purged _ (acts.countOutcome.setSeqBit _)) _

end Sys2Proof.Machine
end

section
/-! PROOF. Deferrals are counted, and never more than the station's capacity: the move of an outcome, and every step. -/

namespace Sys2Proof.Machine

open Relation (ReflTransGen)

variable {s t : State} {tag : Tag} {x : Exchange} {v : Verdict}

/-! ## The move -/

theorem Fits.of_same (fits : Fits s) (table : t.table = s.table) (dir : t.dir = s.dir) : Fits t := by
  refine fits.eased (fun tag y hy deferred => ⟨y, by rwa [xchg_of_table table] at hy, deferred, .refl y, id⟩) fun n => .inr ?_
  rw [entry_of_dir dir]
  exact ⟨rfl, rfl⟩

theorem deferredOf_setXchg_other {y : Exchange} {n m : Stn} (hx : s.xchg tag = some x) (request : SameRequest x y)
    (dest : x.dest = .station n) (other : m ≠ n) : (s.setXchg tag (some y)).deferredOf m = s.deferredOf m := by
  refine countX_congr fun t' => ?_
  rw [xchg_setXchg]
  split
  · rename_i own
    have away : (Dest.station n == Dest.station m) = false := by simpa using Ne.symm other
    rw [own, hx, Option.any_some, Option.any_some, request.dest, dest, away, Bool.and_false, Bool.and_false]
  · rfl

/-- A READ that is deferred takes one place more. -/
theorem Fits.defers (fits : Fits s) {y : Exchange} {n : Stn} (hx : s.xchg tag = some x) (rest : x.isDeferred = false)
    (request : SameRequest x y) (deferred : y.isDeferred = true) (filling : y.state ≠ .filling) (kind : x.kind = .read)
    (dest : x.dest = .station n) (room : (s.entry n).state.noDeferrals = false ∧ s.deferredOf n < (s.entry n).capacity) :
    Fits (s.setXchg tag (some y)) where
  reads t' z hz old := by
    rw [xchg_setXchg] at hz
    split at hz
    · cases hz
      exact ⟨request.kind.trans kind, filling⟩
    · exact fits.reads t' z hz old
  capacity m := by
    by_cases own : m = n
    · have rise : (s.setXchg tag (some y)).deferredOf n = s.deferredOf n + 1 := by
        unfold State.deferredOf State.countX
        refine countP_succ allTags_nodup (mem_allTags tag) ?_ ?_ fun t' other => ?_
        · rw [xchg_setXchg, if_pos rfl, Option.any_some, deferred, request.dest, dest]
          simp
        · rw [hx, Option.any_some, rest, Bool.false_and]
        · rw [xchg_setXchg, if_neg other]
      rw [own, rise]
      exact room.2
    · rw [deferredOf_setXchg_other hx request dest own]
      exact fits.capacity m
  closed m closed := by
    have closed : (s.entry m).state.noDeferrals = true := closed
    by_cases own : m = n
    · rw [own, room.1] at closed
      cases closed
    · rw [deferredOf_setXchg_other hx request dest own]
      exact fits.closed m closed

/-- What a move must meet: it keeps the request, and defers a READ alone, at a station that has room. -/
structure Admitted (s : State) (x : Exchange) (m : Move × Exchange) : Prop where
  good : GoodMove x m
  defers : Defers (s.capacityOf x.dest) x m
  live : x.live = true
  room : ∀ n, x.dest = .station n → x.kind = .read → x.phase = .issue → (s.entry n).state.noDeferrals = false ∧
    ((s.entry n).capacity ≠ 0 → s.deferredOf n < (s.entry n).capacity)

theorem Fits.stays (fits : Fits s) {y z : Exchange} (hx : s.xchg tag = some x) (admitted : Admitted s x (.stays y, z)) :
    Fits (s.setXchg tag (some y)) := by
  obtain ⟨request, _, live⟩ := admitted.good.stays y rfl
  obtain ⟨filling, rise⟩ := admitted.defers y rfl
  by_cases rises : y.isDeferred = true ∧ x.isDeferred = false
  · have phase : y.phase ≠ .issue := by
      have deferred := rises.1
      rw [Exchange.isDeferred, Bool.and_eq_true, bne_iff_ne] at deferred
      exact deferred.2
    have issue : x.phase = .issue := by
      have rest := rises.2
      rw [Exchange.isDeferred, admitted.live, Bool.true_and, bne_eq_false_iff_eq] at rest
      exact rest
    obtain ⟨kind, capacity⟩ := (rise phase).resolve_left fun other => other issue
    cases dest : x.dest with
    | broadcast => rw [dest] at capacity; exact absurd capacity (by simp [State.capacityOf])
    | station n =>
      rw [dest] at capacity
      obtain ⟨open', room⟩ := admitted.room n dest kind issue
      exact fits.defers hx rises.2 request rises.1 filling kind dest
        ⟨open', room (Nat.pos_iff_ne_zero.mp capacity)⟩
  · refine fits.eased (fun t' w hw deferred => ?_) fun n => .inr ⟨rfl, rfl⟩
    rw [xchg_setXchg] at hw
    split at hw
    · rename_i own
      cases hw
      refine ⟨x, by rw [own, hx], ?_, request, fun e => absurd e filling⟩
      by_contra rest
      exact rises ⟨deferred, by simpa using rest⟩
    · exact ⟨w, hw, deferred, .refl w, id⟩

/-- What completes is deferred no longer. -/
theorem Fits.completes (fits : Fits s) (y : Exchange) (c : Completion) :
    Fits ((s.setXchg tag (some y)).complete fun t' _ => if t' = tag then some c else none).stopOnFailures := by
  refine Fits.rests ?_ (rests_stopOnFailures _)
  refine fits.eased (fun t' w hw deferred => ?_) fun n => .inr ?_
  · rw [xchg_complete, xchg_setXchg] at hw
    by_cases own : t' = tag
    · rw [if_pos own, Option.map_some, afterSel, if_pos own] at hw
      cases hw
      cases deferred
    · rw [if_neg own] at hw
      obtain ⟨z, hz, rfl⟩ := Option.map_eq_some_iff.mp hw
      rw [afterSel, if_neg own] at deferred ⊢
      exact ⟨z, hz, deferred, .refl z, id⟩
  · rw [entry_complete]
    exact ⟨rfl, rfl⟩

theorem Fits.applyMove (fits : Fits s) {m : Move × Exchange} (hx : s.xchg tag = some x) (admitted : Admitted s x m) :
    Fits (s.applyMove tag m) := by
  obtain ⟨m, z⟩ := m
  cases m with
  | stays y => exact fits.stays hx admitted
  | complete c p => exact fits.completes z c

theorem keepPayload_dir (s : State) (x : Exchange) (v : Verdict) : (s.keepPayload x v).dir = s.dir := by
  unfold State.keepPayload
  split <;> rfl

/-- A completed exchange is not deferred, up to the directory's part. -/
theorem applyMove_done (s : State) (tag : Tag) (m : Move × Exchange) (h : ∃ c p, m.1 = .complete c p) {y : Exchange}
    (hy : (s.applyMove tag m).xchg tag = some y) : y.isDeferred = false := by
  obtain ⟨m, z⟩ := m
  obtain ⟨c, p, e⟩ := h
  cases e
  have record : (s.applyMove tag (.complete c p, z)).xchg tag = some (z.finish c) :=
    completeOne_xchg c ((xchg_setXchg s tag tag (some z)).trans (if_pos rfl))
  rw [record] at hy
  cases hy
  rfl

theorem Fits.movedBy (fits : Fits s) (hx : s.xchg tag = some x) (admitted : Admitted s x (s.moveOf x v)) :
    Fits (s.movedBy tag x v) := by
  have kept : Fits (s.keepPayload x v) := fits.of_same (keepPayload_table s x v) (keepPayload_dir s x v)
  have entry (n : Stn) : (s.keepPayload x v).entry n = s.entry n := entry_of_dir (keepPayload_dir s x v) n
  have admitted' : Admitted (s.keepPayload x v) x (s.moveOf x v) := by
    refine ⟨admitted.good, ?_, admitted.live, fun n dest kind issue => ?_⟩
    · have same : (s.keepPayload x v).capacityOf x.dest = s.capacityOf x.dest := by
        cases x.dest with
        | broadcast => rfl
        | station n => exact congrArg Entry.capacity (entry n)
      rw [same]
      exact admitted.defers
    · rw [entry, deferredOf_of_xchg (xchg_of_table (keepPayload_table s x v))]
      exact admitted.room n dest kind issue
  have moved := kept.applyMove (tag := tag) ((xchg_of_table (keepPayload_table s x v) tag).trans hx) admitted'
  unfold State.movedBy
  split
  · exact moved.directoryActs fun complete y hy => applyMove_done _ tag (s.moveOf x v) complete hy
  · exact moved

theorem Fits.endStep (fits : Fits s) (before : State) : Fits (s.endStep before) :=
  fits.rests (rests_endStep s before)

/-! ## Every step -/

theorem fits_of (counts : CountsAgree s) (phases : PhasesAgree s) (fit : DeferralsFit s) : Fits s where
  reads tag x hx deferred := by
    have phase : x.phase ≠ .issue := by
      rw [Exchange.isDeferred, Bool.and_eq_true, bne_iff_ne] at deferred
      exact deferred.2
    exact ⟨phases.read tag x hx phase, fun filling => phase (phases.filling tag x hx filling)⟩
  capacity n := by
    rw [← counts n]
    exact fit.capacity n
  closed n closed := by
    rw [← counts n]
    exact fit.closed n closed

theorem Fits.deferralsFit (fits : Fits s) (counts : CountsAgree s)
    (off : ∀ tag x, s.xchg tag = some x → x.state ≠ .onLine) : DeferralsFit s where
  capacity n := by
    rw [counts n]
    exact fits.capacity n
  closed n closed := by
    rw [counts n]
    exact fits.closed n closed
  room _ tag x hx _ _ _ on := (off tag x hx on).elim

/-- The move of the attempt under way. -/
theorem admitted_of {u : State} (table : u.table = s.table) (dir : u.dir = s.dir) (counts : CountsAgree s)
    (phases : PhasesAgree s) (fit : DeferralsFit s) (hx : s.xchg tag = some x) (on : x.state = .onLine)
    (suits : v.suits x) : Admitted u x (u.moveOf x v) where
  good := goodMove_moveOf u x v on
  defers := defers_moveOf u suits fun expired => by
    rw [(phases.expired tag x hx expired).1]
    simp
  live := by simp [Exchange.live, on]
  room n dest kind issue := by
    rw [entry_of_dir dir, deferredOf_of_xchg (xchg_of_table table), ← counts n]
    exact fit.room n tag x hx dest kind issue on

theorem Reported.countsKept (h : Reported s tag v t) : CountsKept s t := by
  intro counts
  rcases h.cases with ⟨table, dir, _⟩ | ⟨u, x, table, dir, hx, on, table', dir'⟩
  · have after : CountsAgree t := counts.of_same dir table
    refine ⟨after, fun _ one phases _ fit => ?_⟩
    exact ((fits_of counts phases fit).of_same table dir).deferralsFit after fun _ _ hy => (h.recs one hy).1
  · have after : CountsAgree t := (countsAgree_recount _).of_same dir' table'
    refine ⟨after, fun _ one phases _ fit => ?_⟩
    have before : Fits u := (fits_of counts phases fit).of_same table dir
    have moved : Fits (u.movedBy tag x v) := before.movedBy ((xchg_of_table table tag).trans hx)
      (admitted_of table dir counts phases fit hx on (h.suits x hx))
    exact ((moved.endStep u).of_same table' dir').deferralsFit after fun _ _ hy => (h.recs one hy).1

/-- Settles O57: a command keeps the current attempt and its room; or it is known to leave no more deferrals; or it ends the
attempt, and defers its READ at most where there was room. -/
theorem everyStepKeepsTheDeferredCounts : Obligations.EveryStepKeepsTheDeferredCounts := by
  intro s t run counts
  rcases step_cases run with rfl | ⟨i, rest, _, run⟩
  · exact ⟨counts, fun _ _ _ _ fit => fit⟩
  · have kept : CountsKept { s with pending := rest } t := by
      rcases (exec_kept i _).ends t run with h | ⟨tag, v, reported⟩
      · exact h.2
      · exact reported.countsKept
    obtain ⟨after, fit⟩ := kept counts
    exact ⟨after, fun shape one phases idle old => fit (lineShape_of_line shape rfl) one (phasesAgree_pending phases rest)
      idle ⟨old.1, old.2, old.3⟩⟩

end Sys2Proof.Machine
end
